-- ==== Sys2Proof/Word.lean ====
section
/-! DEFINITION. The word types of the Narrid N7: bytes, 32-bit lanes, 64-bit scalars, 56-bit addresses (R13, R18). -/
namespace Sys2Proof

/-- One byte. -/
abbrev Byte := BitVec 8
/-- One 32-bit lane of a vector register (Table 1.4). -/
abbrev Lane := BitVec 32
/-- One 64-bit scalar register (Table 1.4). -/
abbrev Scalar := BitVec 64
/-- A 56-bit byte address (R13, R204). -/
abbrev Addr := BitVec 56
/-- An operand field of an instruction word, numbered by Table 1.4. -/
abbrev Reg := BitVec 8

end Sys2Proof
end

