-- ==== Sys2Proof/Config.lean ====
section
/-! DEFINITION. What the manual leaves to the implementation, as constants without a body: nothing can be
proved about the value of one, so a statement holds for every value. -/
namespace Sys2Proof

/-- R29: whether a read made before a result's latency has passed gives the old value (true) or the new one. Arguments: the
draw counter and the number of the instruction that wrote the result. Assumptions 2, 53. -/
opaque Config.readsOld : Nat → Nat → Bool
/-- A fresh arbitrary number, for a choice the manual leaves open (orders of R170 and R173). Assumption 2. -/
opaque Config.pick : Nat → Nat
/-- R86: VRCP away from its exact and special cases. Assumption 9. -/
opaque Config.rcp : BitVec 32 → BitVec 32
/-- R86: VRSQ away from its exact and special cases. Assumption 9. -/
opaque Config.rsq : BitVec 32 → BitVec 32
/-- R86: VEXP2 away from its exact and special cases. Assumption 9. -/
opaque Config.exp2 : BitVec 32 → BitVec 32
/-- R86: VLOG2 away from its exact and special cases. Assumption 9. -/
opaque Config.log2 : BitVec 32 → BitVec 32
/-- R298: OWNBASE.i, read-only, for which no value is given. Assumption 6. -/
opaque Config.ownBase : Nat → BitVec 40
/-- R169: the byte at an offset of the source of another rank, for one collective (communicator, number, rank, offset).
Assumption 10. -/
opaque Config.peerSource : Nat → Nat → Nat → Nat → BitVec 8
/-- R173: the fault code that a remote byte access meets at the peer, 0 for none (endpoint, address, write). Assumption
10. -/
opaque Config.peerFault : Nat → Nat → Bool → Nat
/-- R241: the time that a line's bound at a peer requires of a remote access (draw). Assumption 10. -/
opaque Config.peerTime : Nat → Nat
/-- R174: the block size of the namespace behind an endpoint. Assumption 10. -/
opaque Config.blockSize : Nat → Nat
/-- R295: whether the boot image's signature and version checks pass. Assumption 11. -/
opaque Config.bootOk : Bool
/-- R296: the bytes of an SPDM reply, after those that the manual fixes, which sizes, keys and certificates fix (request
code, parameter). Assumption 11. -/
opaque Config.spdmReply : Nat → Nat → List (BitVec 8)
/-- R295: the measurement of an index of Table 19.10. Assumption 11. -/
opaque Config.measurement : Nat → List (BitVec 8)
/-- R284: the CDAT table that the DOE mailbox returns. Assumption 11. -/
opaque Config.cdat : List (BitVec 8)

/-- R338: spares of a kind (4 HBM rows, 5 HBM channels) that a stack starts with, for which the manual
gives no number. Assumption 17. -/
opaque Config.spareCount : Nat → Nat → Nat
/-- R338: the timing margin of a logical core at a telemetry slot (draw, core). Assumption 17. -/
opaque Config.wear : Nat → Nat → BitVec 16
/-- R320: what HBM and the reserved region hold after a reset that leaves them unspecified (draw). Assumption 18. -/
opaque Config.afterReset : Nat → List (Nat × BitVec 8)

/-- R338: the HBM channel (0 to 31 of its stack) that holds a 32-byte word, for which the manual gives no map. Assumption 102. -/
opaque Config.channelOf : Nat → Nat

end Sys2Proof
end

