-- ==== Sys2Proof/Machine/Formats.lean ====
section
/-! DEFINITION. Element formats, exact values, rounding, stochastic rounding and reductions (02_number_formats.md,
R39 to R59). Values are exact: an integer magnitude times a power of two, so no operation rounds twice. -/
namespace Sys2Proof.Machine

/-- An exact value: (−1)^neg × mag × 2^exp, an infinity, or NaN. A zero keeps its sign (R47). -/
inductive Val where
  | nan
  | inf (neg : Bool)
  | fin (neg : Bool) (mag : Nat) (exp : Int)
  deriving DecidableEq, Repr

/-- The parameters of a floating-point format (Table 2.2): exponent and fraction widths, bias, the magnitude code
of its largest finite value, its infinity and its canonical NaN. -/
structure FloatFmt where
  expBits : Nat
  fracBits : Nat
  bias : Nat
  maxCode : Nat
  infCode : Option Nat
  nanCode : Option Nat
  deriving DecidableEq, Repr

/-- Table 2.2, by the code of Table 2.1. -/
def floatFmt : Nat → Option FloatFmt
  | 0 => some ⟨8, 23, 127, 0x7F7FFFFF, some 0x7F800000, some 0x7FC00000⟩
  | 1 => some ⟨5, 10, 15, 0x7BFF, some 0x7C00, some 0x7E00⟩
  | 2 => some ⟨8, 7, 127, 0x7F7F, some 0x7F80, some 0x7FC0⟩
  | 3 => some ⟨4, 3, 7, 0x7E, none, some 0x7F⟩
  | 4 => some ⟨5, 2, 15, 0x7B, some 0x7C, some 0x7F⟩
  | 5 => some ⟨2, 1, 1, 0x7, none, none⟩
  | _ => none

/-- Table 2.1: width in bits of the format with this code (0 for a reserved one). -/
def fmtWidth : Nat → Nat
  | 0 => 32 | 1 => 16 | 2 => 16 | 3 => 8 | 4 => 8 | 5 => 4 | 6 => 4 | 7 => 8 | 8 => 32 | 9 => 64
  | 10 => 8 | 11 => 32 | 12 => 64 | 13 => 8 | 16 => 8 | 17 => 4 | _ => 0

/-- R41: least and greatest value of an integer format. -/
def intRange : Nat → Option (Int × Int)
  | 6 => some (-7, 7)
  | 7 => some (-128, 127)
  | 8 => some (-2147483648, 2147483647)
  | 9 => some (-9223372036854775808, 9223372036854775807)
  | 10 => some (0, 255)
  | 11 => some (0, 4294967295)
  | 12 => some (0, 18446744073709551615)
  | _ => none

/-- R40: the value of a code of a floating-point format. -/
def floatVal (f : FloatFmt) (code : Nat) : Val :=
  let m := code % 2 ^ f.fracBits
  let e := code / 2 ^ f.fracBits % 2 ^ f.expBits
  let neg := code / 2 ^ (f.fracBits + f.expBits) % 2 == 1
  let mag := code % 2 ^ (f.fracBits + f.expBits)
  if f.maxCode < mag then (if f.infCode == some mag then .inf neg else .nan)
  else if e = 0 then .fin neg m (1 - (f.bias : Int) - f.fracBits)
  else .fin neg (2 ^ f.fracBits + m) ((e : Int) - f.bias - f.fracBits)

/-- The signed value of a `w`-bit code. -/
def signedVal (w code : Nat) : Int :=
  let c := code % 2 ^ w
  if 2 ^ (w - 1) ≤ c then (c : Int) - (2 ^ w : Nat) else c

/-- The value of an integer. -/
def Val.ofInt (i : Int) : Val := .fin (i < 0) i.natAbs 0

/-- R40 to R42: the value of a code of a format; the poison code of .I4 and code 0xFF of .E8M0 are NaN. -/
def fmtVal (fmt code : Nat) : Val :=
  match floatFmt fmt with
  | some f => floatVal f code
  | none =>
    if fmt = 6 then (if code % 16 = 8 then .nan else Val.ofInt (signedVal 4 code))
    else if fmt = 13 then (if code % 256 = 255 then .nan else .fin false 1 ((code % 256 : Nat) - 127))
    else if fmt = 7 ∨ fmt = 8 ∨ fmt = 9 then Val.ofInt (signedVal (fmtWidth fmt) code)
    else Val.ofInt (code % 2 ^ fmtWidth fmt : Nat)

/-- R47: does rounding the kept part `sig` with remainder `rem` of 2^k go away from zero? Modes by Table 2.6. -/
def roundsAway (mode : Nat) (neg : Bool) (sig rem k : Nat) : Bool :=
  match mode with
  | 0 => decide (2 ^ k < 2 * rem) || (decide (2 * rem = 2 ^ k) && sig % 2 == 1)
  | 2 => !neg && decide (0 < rem)
  | 3 => neg && decide (0 < rem)
  | _ => false

/-- The code of the largest representable magnitude not above mag × 2^exp, ignoring the largest finite value, with
the remainder below it as a numerator over 2^k of one step. -/
def truncMag (f : FloatFmt) (mag : Nat) (exp : Int) : Nat × Nat × Nat :=
  let qmin : Int := 1 - (f.bias : Int) - f.fracBits
  let q : Int := max qmin ((Nat.log2 mag : Int) + exp - f.fracBits)
  let base := (q - qmin).toNat * 2 ^ f.fracBits
  if q ≤ exp then (base + mag * 2 ^ (exp - q).toNat, 0, 0)
  else
    let k := (q - exp).toNat
    (base + mag / 2 ^ k, mag % 2 ^ k, k)

/-- A magnitude code with its sign. -/
def FloatFmt.withSign (f : FloatFmt) (neg : Bool) (mag : Nat) : Nat :=
  if neg then 2 ^ (f.expBits + f.fracBits) + mag else mag

/-- Table 2.7, columns for a NaN input. -/
def FloatFmt.nanOut (f : FloatFmt) : Nat := f.nanCode.getD 0

/-- Table 2.7, the columns for finite overflow. -/
def FloatFmt.overflow (f : FloatFmt) (mode : Nat) (sat neg : Bool) : Nat :=
  match f.infCode with
  | some i =>
    if sat then f.withSign neg f.maxCode
    else if mode = 1 ∨ (mode = 2 ∧ neg) ∨ (mode = 3 ∧ ¬ neg) then f.withSign neg f.maxCode
    else f.withSign neg i
  | none => if sat then f.withSign neg f.maxCode else
      match f.nanCode with
      | some c => c
      | none => f.withSign neg f.maxCode

/-- Table 2.7, the column for an infinite input. -/
def FloatFmt.infOut (f : FloatFmt) (sat neg : Bool) : Nat :=
  if sat then f.withSign neg f.maxCode
  else match f.infCode with
    | some i => f.withSign neg i
    | none => match f.nanCode with
      | some c => c
      | none => f.withSign neg f.maxCode

/-- R47, R48: one rounding of an exact value into a floating-point format. -/
def roundFloat (f : FloatFmt) (mode : Nat) (sat : Bool) : Val → Nat
  | .nan => f.nanOut
  | .inf neg => f.infOut sat neg
  | .fin neg mag exp =>
    if mag = 0 then f.withSign neg 0
    else
      let (c, rem, k) := truncMag f mag exp
      let c' := if roundsAway mode neg c rem k then c + 1 else c
      if f.maxCode < c' then f.overflow mode sat neg else f.withSign neg c'

/-- R49: f of sr_round against the draw v decides whether the step goes away from zero. -/
def srFloat (f : FloatFmt) (sat : Bool) (v : Nat) : Val → Nat
  | .nan => f.nanOut
  | .inf neg => f.infOut sat neg
  | .fin neg mag exp =>
    if mag = 0 then f.withSign neg 0
    else
      let (c, rem, k) := truncMag f mag exp
      if f.maxCode < c then f.overflow 0 sat neg
      else if rem = 0 then f.withSign neg c
      else
        let c' := if v < rem * 2 ^ 24 / 2 ^ k then c + 1 else c
        if f.maxCode < c' then f.overflow 0 sat neg else f.withSign neg c'

/-- An exact value rounded to an integer magnitude under a mode (R47). -/
def roundInt (mode : Nat) (neg : Bool) (mag : Nat) (exp : Int) : Nat :=
  if 0 ≤ exp then mag * 2 ^ exp.toNat
  else
    let k := (-exp).toNat
    let c := mag / 2 ^ k
    if roundsAway mode neg c (mag % 2 ^ k) k then c + 1 else c

/-- R49 for an integer destination: the step away from zero is one. -/
def srInt (v : Nat) (mag : Nat) (exp : Int) : Nat :=
  if 0 ≤ exp then mag * 2 ^ exp.toNat
  else
    let k := (-exp).toNat
    if v < mag % 2 ^ k * 2 ^ 24 / 2 ^ k then mag / 2 ^ k + 1 else mag / 2 ^ k

/-- R48: an integer saturated to a format's range, as a code. -/
def satInt (fmt : Nat) (i : Int) : Nat :=
  match intRange fmt with
  | none => 0
  | some (lo, hi) =>
    let c := max lo (min hi i)
    (c % (2 ^ fmtWidth fmt : Nat)).toNat

/-- R47, R48, R49, Table 2.7: an exact value in a format of Table 2.1; `draw` is the stochastic draw of mode 4. -/
def convertVal (fmt mode : Nat) (sat : Bool) (draw : Nat) (x : Val) : Nat :=
  match floatFmt fmt with
  | some f => if mode = 4 then srFloat f sat draw x else roundFloat f mode sat x
  | none =>
    match x with
    | .nan => if fmt = 6 then 8 else 0
    | .inf neg =>
      match intRange fmt with
      | none => 0
      | some (lo, hi) => satInt fmt (if neg then lo else hi)
    | .fin neg mag exp =>
      let n := if mode = 4 then srInt draw mag exp else roundInt mode neg mag exp
      satInt fmt (if neg then -(n : Int) else n)

/-- R42, R91: the conversion of one code of format `sf` to format `df`; equal formats copy. -/
def convertCode (df sf mode : Nat) (sat : Bool) (draw code : Nat) : Nat :=
  let c := code % 2 ^ fmtWidth sf
  if df = sf then
    match floatFmt df, fmtVal df c with
    | some f, .nan => f.nanOut
    | _, _ => c
  else if sf = 6 ∧ c = 8 then
    match floatFmt df with
    | some f => f.nanOut
    | none => 0
  else convertVal df mode sat draw (fmtVal sf c)

/-! ### Stochastic rounding (R49) -/

/-- One step of the LFSR: the new state and the bit fed back. -/
def lfsrStep (s : BitVec 64) : BitVec 64 × Bool :=
  let fb := (s.getLsbD 63 ^^ s.getLsbD 62) ^^ (s.getLsbD 60 ^^ s.getLsbD 59)
  ((s <<< 1) ||| (if fb then 1#64 else 0#64), fb)

/-- `n` steps, the bits gathered most significant first. -/
def lfsrDraw : Nat → BitVec 64 → Nat → Nat × BitVec 64
  | 0, s, v => (v, s)
  | n + 1, s, v =>
    let (s', fb) := lfsrStep s
    lfsrDraw n s' (v * 2 + (if fb then 1 else 0))

/-- R49: draw() of 24 bits. -/
def draw24 (s : BitVec 64) : Nat × BitVec 64 := lfsrDraw 24 s 0

/-! ### Exact arithmetic on values -/

/-- The signed integer of a value scaled to exponent `e`, `e` not above its own. -/
def scaledTo (e : Int) (neg : Bool) (mag : Nat) (exp : Int) : Int :=
  let m : Int := (mag * 2 ^ (exp - e).toNat : Nat)
  if neg then -m else m

/-- R47, R53: an exact sum; a sum of exactly zero is −0 when every operand is −0 or the mode is .RD. -/
def Val.add (mode : Nat) : Val → Val → Val
  | .nan, _ => .nan
  | _, .nan => .nan
  | .inf a, .inf b => if a = b then .inf a else .nan
  | .inf a, _ => .inf a
  | _, .inf b => .inf b
  | .fin na ma ea, .fin nb mb eb =>
    let e := min ea eb
    let t := scaledTo e na ma ea + scaledTo e nb mb eb
    if t = 0 then .fin ((na && nb && decide (ma = 0) && decide (mb = 0)) || decide (mode = 3)) 0 e
    else .fin (t < 0) t.natAbs e

/-- An exact product; ∞ × 0 is NaN (R53, R84). -/
def Val.mul : Val → Val → Val
  | .nan, _ => .nan
  | _, .nan => .nan
  | .inf a, .inf b => .inf (a != b)
  | .inf a, .fin nb mb _ => if mb = 0 then .nan else .inf (a != nb)
  | .fin na ma _, .inf b => if ma = 0 then .nan else .inf (na != b)
  | .fin na ma ea, .fin nb mb eb => .fin (na != nb) (ma * mb) (ea + eb)

/-- A value with its sign inverted. -/
def Val.negate : Val → Val
  | .nan => .nan
  | .inf a => .inf (!a)
  | .fin a m e => .fin (!a) m e

/-- A value times a power of two. -/
def Val.scale (k : Int) : Val → Val
  | .fin a m e => .fin a m (e + k)
  | v => v

/-- The order of two values that are not NaN, −0 equal to +0: less, equal or greater. -/
def Val.cmp : Val → Val → Ordering
  | .inf a, .inf b => if a = b then .eq else if a then .lt else .gt
  | .inf a, _ => if a then .lt else .gt
  | _, .inf b => if b then .gt else .lt
  | .fin na ma ea, .fin nb mb eb =>
    let e := min ea eb
    compare (scaledTo e na ma ea) (scaledTo e nb mb eb)
  | _, _ => .eq

/-- Is the value negative, −0 included? -/
def Val.isNeg : Val → Bool
  | .nan => false
  | .inf a => a
  | .fin a _ _ => a

/-- R56: the smaller (or larger) of two codes; the non-NaN operand when one is NaN; −0 below +0. -/
def minMaxCode (f : FloatFmt) (wantMax : Bool) (x y : Nat) : Nat :=
  match floatVal f x, floatVal f y with
  | .nan, .nan => f.nanOut
  | .nan, _ => y
  | _, .nan => x
  | a, b =>
    let xLess := match Val.cmp a b with
      | .lt => true
      | .gt => false
      | .eq => a.isNeg && !b.isNeg
    if xLess != wantMax then x else y

/-- R84: two codes added in one format. -/
def addCode (f : FloatFmt) (mode x y : Nat) : Nat :=
  roundFloat f mode false (Val.add mode (floatVal f x) (floatVal f y))

/-- R84: two codes subtracted. -/
def subCode (f : FloatFmt) (mode x y : Nat) : Nat :=
  roundFloat f mode false (Val.add mode (floatVal f x) (floatVal f y).negate)

/-- R84: two codes multiplied. -/
def mulCode (f : FloatFmt) (mode x y : Nat) : Nat :=
  roundFloat f mode false (Val.mul (floatVal f x) (floatVal f y))

/-- R84: x × y + z with one rounding. -/
def fmaCode (f : FloatFmt) (mode x y z : Nat) : Nat :=
  roundFloat f mode false (Val.add mode (Val.mul (floatVal f x) (floatVal f y)) (floatVal f z))

/-- R84: a code with its sign cleared; a NaN becomes canonical. -/
def absCode (f : FloatFmt) (x : Nat) : Nat :=
  match floatVal f x with
  | .nan => f.nanOut
  | _ => x % 2 ^ (f.expBits + f.fracBits)

/-- R84: a code with its sign inverted; a NaN becomes canonical. -/
def negCode (f : FloatFmt) (x : Nat) : Nat :=
  match floatVal f x with
  | .nan => f.nanOut
  | v => f.withSign (!v.isNeg) (x % 2 ^ (f.expBits + f.fracBits))

/-- R85: a comparison of two codes by CND 0 to 7. -/
def cmpCode (f : FloatFmt) (cnd x y : Nat) : Bool :=
  match floatVal f x, floatVal f y with
  | .nan, _ | _, .nan => decide (cnd = 1) || decide (cnd = 6)
  | a, b =>
    let o := Val.cmp a b
    match cnd with
    | 0 => o == .eq
    | 1 => o != .eq
    | 2 => o == .lt
    | 3 => o != .gt
    | 4 => o == .gt
    | 5 => o != .lt
    | 6 => false
    | _ => true

/-! ### Transcendentals (R86, R87) -/

/-- The exponent of a value whose magnitude is a power of two. -/
def powerOfTwo (mag : Nat) (exp : Int) : Option Int :=
  if mag ≠ 0 ∧ mag = 2 ^ Nat.log2 mag then some (Nat.log2 mag + exp) else none

/-- 2^k as an F32 code, for a representable one. -/
def f32Pow2 (neg : Bool) (k : Int) : Nat :=
  roundFloat ⟨8, 23, 127, 0x7F7FFFFF, some 0x7F800000, some 0x7FC00000⟩ 0 false (.fin neg 1 k)

/-! An exact result y that no F32 value equals is taken as ⌊y × 2^yPlaces⌋: every F32 value, and every bound of Table 4.3
around one, is a multiple of 2^−yPlaces, so that comparing with the whole number compares with y. -/

/-- The places of an exact result. -/
def yPlaces : Nat := 200
/-- The places of the roots and squares that give 2^t and log2. -/
def workPlaces : Nat := 600

/-- ⌊√n⌋ for n below 4^bits, bit by bit, above the bits found so far. -/
def rootBits (n : Nat) : Nat → Nat → Nat
  | 0, r => r
  | b + 1, r => rootBits n b (if (r + 2 ^ b) * (r + 2 ^ b) ≤ n then r + 2 ^ b else r)

/-- ⌊2^e ÷ den⌋. -/
def powOver (e : Int) (den : Nat) : Nat := if 0 ≤ e then 2 ^ e.toNat / den else 1 / (den * 2 ^ (-e).toNat)

/-- 2^(k ÷ 2^n) over the bits of k below n, by the square roots of two: `c` is the last one. -/
def powFrac (k : Nat) : Nat → Nat → Nat → Nat
  | 0, _, acc => acc
  | n + 1, c, acc =>
    let c := rootBits (c * 2 ^ workPlaces) (workPlaces + 2) 0
    powFrac k n c (if k.testBit n then acc * c / 2 ^ workPlaces else acc)

/-- The first `n` binary places of log2 of a number from 1 to 2, by squaring. -/
def logFrac : Nat → Nat → Nat → Nat
  | 0, _, acc => acc
  | n + 1, m, acc =>
    let m := m * m / 2 ^ workPlaces
    if 2 * 2 ^ workPlaces ≤ m then logFrac n (m / 2) (2 * acc + 1) else logFrac n m (2 * acc)

/-- R86: ulp(y), in units of 2^−yPlaces. -/
def ulpOf (y : Int) : Nat := 2 ^ (max ((Nat.log2 (if y < 0 then (-y - 1).toNat else y.toNat) : Int) - yPlaces) (-126) - 23 + yPlaces).toNat

/-- Does a code stand for a finite value that differs from y by less than `bound`? -/
def closeTo (y : Int) (bound : Nat) (z : BitVec 32) : Bool :=
  match fmtVal 0 z.toNat with
  | .fin neg mag exp =>
    let r : Int := (if neg then -1 else 1) * (mag * 2 ^ (exp + yPlaces).toNat : Nat)
    decide (r - bound ≤ y) && decide (y < r + bound)
  | _ => false

/-- The F32 value next to y towards zero. -/
def nextTo (y : Int) : BitVec 32 :=
  let (c, _, _) := truncMag ⟨8, 23, 127, 0x7F7FFFFF, some 0x7F800000, some 0x7FC00000⟩ y.natAbs (-yPlaces)
  BitVec.ofNat 32 (if y < 0 then 2 ^ 31 + c else c)

/-- R86, R87: the part's own value, which keeps to the bound; a part whose constant breaks it gives the value next to y. -/
def within (ok : BitVec 32 → Bool) (own default : BitVec 32) : BitVec 32 := if ok own then own else default

/-- VRCP of ±mag × 2^exp away from the exact cases: y, where F32 has it, or one of its two neighbours. -/
def rcpNear (neg : Bool) (mag : Nat) (exp : Int) (own : BitVec 32) : BitVec 32 :=
  let y := powOver (yPlaces - exp) mag
  let (c, _, _) := truncMag ⟨8, 23, 127, 0x7F7FFFFF, some 0x7F800000, some 0x7FC00000⟩ y (-yPlaces)
  let sign := if neg then 2 ^ 31 else 0
  let near := if (powerOfTwo mag exp).isSome then [c - 1, c, c + 1] else [c, c + 1]
  within (fun z => near.any fun k => decide (k ≤ 0x7F7FFFFF) && z == BitVec.ofNat 32 (sign + k)) own (BitVec.ofNat 32 (sign + c))

/-- VRSQ of mag × 2^exp away from the exact cases: within 2 ulp(y). -/
def rsqNear (mag : Nat) (exp : Int) (own : BitVec 32) : BitVec 32 :=
  let y : Nat := rootBits (powOver (2 * yPlaces - exp) mag) 300 0
  within (closeTo y (2 * ulpOf y)) own (nextTo y)

/-- VEXP2 of ±mag × 2^exp, no integer: within 2 ulp(y). -/
def exp2Near (neg : Bool) (mag : Nat) (exp : Int) (own : BitVec 32) : BitVec 32 :=
  let n := (-exp).toNat
  let t : Int := if neg then -(mag : Int) else mag
  let f := powFrac (t % 2 ^ n).toNat n (2 * 2 ^ workPlaces) (2 ^ workPlaces)
  let y : Nat := f / 2 ^ ((workPlaces : Int) - yPlaces - t / 2 ^ n).toNat
  within (closeTo y (2 * ulpOf y)) own (nextTo y)

/-- VLOG2 of mag × 2^exp, no power of two: within the larger of 2 ulp(y) and 2^−22. -/
def log2Near (mag : Nat) (exp : Int) (own : BitVec 32) : BitVec 32 :=
  let e := Nat.log2 mag
  let y : Int := ((e : Int) + exp) * 2 ^ yPlaces + (logFrac yPlaces (mag * 2 ^ (workPlaces - e)) 0 : Nat)
  within (closeTo y (max (2 * ulpOf y) (2 ^ (yPlaces - 22)))) own (nextTo y)

/-- R86, Table 4.3: VRCP. -/
def rcpCode (x : BitVec 32) : BitVec 32 :=
  match fmtVal 0 x.toNat with
  | .nan => 0x7FC00000
  | .inf neg => if neg then 0x80000000 else 0
  | .fin neg mag exp =>
    if mag = 0 then (if neg then 0xFF800000 else 0x7F800000)
    else if exp + Nat.log2 mag < -128 ∨ (exp + Nat.log2 mag = -128 ∧ powerOfTwo mag exp = some (-128)) then
      (if neg then 0xFF800000 else 0x7F800000)
    else match powerOfTwo mag exp with
      | some k => if -126 ≤ k then BitVec.ofNat 32 (f32Pow2 neg (-k)) else rcpNear neg mag exp (Config.rcp x)
      | none => rcpNear neg mag exp (Config.rcp x)

/-- R86, Table 4.3: VRSQ. -/
def rsqCode (x : BitVec 32) : BitVec 32 :=
  match fmtVal 0 x.toNat with
  | .nan => 0x7FC00000
  | .inf neg => if neg then 0x7FC00000 else 0
  | .fin neg mag exp =>
    if mag = 0 then (if neg then 0xFF800000 else 0x7F800000)
    else if neg then 0x7FC00000
    else match powerOfTwo mag exp with
      | some k => if k % 2 = 0 then BitVec.ofNat 32 (f32Pow2 false (-(k / 2))) else rsqNear mag exp (Config.rsq x)
      | none => rsqNear mag exp (Config.rsq x)

/-- R86, Table 4.3: VEXP2. -/
def exp2Code (x : BitVec 32) : BitVec 32 :=
  match fmtVal 0 x.toNat with
  | .nan => 0x7FC00000
  | .inf neg => if neg then 0 else 0x7F800000
  | .fin neg mag exp =>
    if mag = 0 then 0x3F800000
    else if neg = false ∧ Val.cmp (.fin neg mag exp) (Val.ofInt 128) ≠ .lt then 0x7F800000
    else if neg ∧ Val.cmp (.fin neg mag exp) (Val.ofInt (-150)) ≠ .gt then 0
    else if 0 ≤ exp ∨ mag % 2 ^ (-exp).toNat = 0 then
      let n : Int := roundInt 1 neg mag exp
      BitVec.ofNat 32 (f32Pow2 false (if neg then -n else n))
    else exp2Near neg mag exp (Config.exp2 x)

/-- R86, Table 4.3: VLOG2. -/
def log2Code (x : BitVec 32) : BitVec 32 :=
  match fmtVal 0 x.toNat with
  | .nan => 0x7FC00000
  | .inf neg => if neg then 0x7FC00000 else 0x7F800000
  | .fin neg mag exp =>
    if mag = 0 then 0xFF800000
    else if neg then 0x7FC00000
    else match powerOfTwo mag exp with
      | some k => BitVec.ofNat 32 (convertVal 0 0 false 0 (Val.ofInt k))
      | none => log2Near mag exp (Config.log2 x)

/-! ### Block formats (R44 to R46, R51) -/

/-- Table 2.5: the element format and power-of-two factor that a tag selects; none for a reserved tag. -/
def tagFormat (mx8 : Bool) (tag : Nat) : Option (Nat × Int) :=
  match mx8, tag with
  | true, 0 => some (3, 0)
  | true, 1 => some (4, 0)
  | true, 2 => some (7, -6)
  | false, 0 => some (5, 0)
  | false, 1 => some (6, 0)
  | _, _ => none

/-- R45, R46: the value of an element of a block with this tag and scale byte. -/
def blockVal (mx8 : Bool) (tag scale code : Nat) : Val :=
  if scale % 256 = 255 then .nan
  else match tagFormat mx8 tag with
    | none => .nan
    | some (f, k) => (fmtVal f (code % 2 ^ fmtWidth f)).scale (k + (scale % 256 : Nat) - 127)

/-- Table 2.8: the exponent of the largest finite element of a tag's format, and that element. -/
def emaxOf (fmt : Nat) : Int × Val :=
  match fmt with
  | 3 => (8, .fin false 448 0)
  | 4 => (15, .fin false 57344 0)
  | 7 => (0, .fin false 127 (-6))
  | 5 => (2, .fin false 6 0)
  | _ => (2, .fin false 7 0)

/-- ⌊log2⌋ of the larger magnitude so far; none while every magnitude is zero. An infinity counts as the format's largest finite
element, for INT8 127 × 2^-6 with either sign, though -128 × 2^-6 is one too (DESIGN CHOICE, assumption 92). -/
def amaxLog (emax : Val) (acc : Option Int) : Val → Option Int
  | .nan => acc
  | .inf _ => match emax with
    | .fin _ m e => max acc (some (Nat.log2 m + e))
    | _ => acc
  | .fin _ m e => if m = 0 then acc else max acc (some (Nat.log2 m + e))

/-- R51: the scale code of a block for an element format. -/
def blockScale (fmt : Nat) (xs : List Val) : Nat :=
  let (emax, big) := emaxOf fmt
  if xs.any (· == .nan) then 255
  else match xs.foldl (amaxLog big) none with
    | none => 0
    | some l => (max 0 (min 254 (l - emax + 127))).toNat

/-! ### Reductions (R57) -/

/-- The operators of VIEW.DECL, RED, CP.RED and the collectives, by code: 0 ADD, 1 MIN, 2 MAX, 3 AND, 4 OR, 5 XOR. -/
def redInt (op w : Nat) (sgn : Bool) (x y : Nat) : Nat :=
  let lt := if sgn then decide (signedVal w x < signedVal w y) else decide (x % 2 ^ w < y % 2 ^ w)
  match op with
  | 0 => (x + y) % 2 ^ w
  | 1 => if lt then x else y
  | 2 => if lt then y else x
  | 3 => x &&& y
  | 4 => x ||| y
  | _ => x ^^^ y

/-- A reduction in one floating-point format; the bitwise operators act on raw bits. -/
def redFloat (f : FloatFmt) (op : Nat) (x y : Nat) : Nat :=
  match op with
  | 0 => addCode f 0 x y
  | 1 => minMaxCode f false x y
  | 2 => minMaxCode f true x y
  | 3 => x &&& y
  | 4 => x ||| y
  | _ => x ^^^ y

/-- R57, Table 2.10: left ⊕ right of one element of a format code (pairs for .F16 and .BF16). -/
def reduce (fmt op left right : Nat) : Nat :=
  match fmt with
  | 0 => redFloat ⟨8, 23, 127, 0x7F7FFFFF, some 0x7F800000, some 0x7FC00000⟩ op left right
  | 1 => let f : FloatFmt := ⟨5, 10, 15, 0x7BFF, some 0x7C00, some 0x7E00⟩
         redFloat f op (left % 65536) (right % 65536) + 65536 * redFloat f op (left / 65536) (right / 65536)
  | 2 => let f : FloatFmt := ⟨8, 7, 127, 0x7F7F, some 0x7F80, some 0x7FC0⟩
         redFloat f op (left % 65536) (right % 65536) + 65536 * redFloat f op (left / 65536) (right / 65536)
  | 8 => redInt op 32 true left right
  | 9 => redInt op 64 true left right
  | 11 => redInt op 32 false left right
  | 12 => redInt op 64 false left right
  | _ => right

/-- Is a format and operator pair admitted by Table 2.10 for views, copies and collectives (R137)? -/
def reduceOk (fmt op : Nat) : Bool :=
  (fmt == 0 || fmt == 1 || fmt == 2 || fmt == 8 || fmt == 9 || fmt == 11 || fmt == 12) && decide (op < 6)

/-- R57: bytes of one element of a reduction (a pair for the 16-bit formats). -/
def reduceBytes (fmt : Nat) : Nat := if fmt = 9 ∨ fmt = 12 then 8 else 4

/-- R57: the identity of an operator and format: the fill of a blank view. -/
def identityOf (fmt op : Nat) : Nat :=
  match op with
  | 0 => match fmt with
    | 0 => 0x80000000 | 1 => 0x80008000 | 2 => 0x80008000 | _ => 0
  | 1 => match fmt with
    | 0 => 0x7F800000 | 1 => 0x7C007C00 | 2 => 0x7F807F80
    | 8 => 0x7FFFFFFF | 9 => 0x7FFFFFFFFFFFFFFF | 12 => 0xFFFFFFFFFFFFFFFF | _ => 0xFFFFFFFF
  | 2 => match fmt with
    | 0 => 0xFF800000 | 1 => 0xFC00FC00 | 2 => 0xFF80FF80
    | 8 => 0x80000000 | 9 => 0x8000000000000000 | _ => 0
  | 3 => if fmt = 9 ∨ fmt = 12 then 0xFFFFFFFFFFFFFFFF else 0xFFFFFFFF
  | _ => 0

/-! ### Accumulation in the arrays (R53, R54) -/

/-- The F32 format. -/
def f32 : FloatFmt := ⟨8, 23, 127, 0x7F7FFFFF, some 0x7F800000, some 0x7FC00000⟩

/-- R53: the exact sum of one group's products. -/
def groupSum (ps : List Val) : Val :=
  match ps with
  | [] => .fin false 0 0
  | p :: rest => rest.foldl (Val.add 0) p

/-- R53: one group added into the accumulator element. -/
def accumulate (acc : Nat) (ps : List Val) : Nat :=
  if ps.isEmpty then acc else addCode f32 0 acc (roundFloat f32 0 false (groupSum ps))

end Sys2Proof.Machine
end

