-- ==== Sys2Proof/Syntax.lean ====
section
/-! DEFINITION. The instruction set and the events of the Narrid N7, one constructor per row of the opcode table.
An instruction carries the scheduling fields of Table 1.1 and its operand and modifier fields; an event carries
whom or what it concerns. -/
namespace Sys2Proof

/-- The scheduling fields, reuse hints and guard of an instruction word (Table 1.1). -/
structure Sched where
  stall : BitVec 6
  wait : BitVec 12
  sig : BitVec 4
  yld : Bool
  reuse : BitVec 2
  guard : BitVec 4
  deriving DecidableEq, Repr

/-- R241: what an inbound request of a peer asks for: bytes to read, or to write, or an atomic of a type (and operator) on
the bytes it carries, CAS's compared ones first. -/
inductive PeerKind where
  | read (n : Nat)
  | write
  | atom (ty : BitVec 4) (op : BitVec 3)
  | cas (ty : BitVec 4)
  deriving DecidableEq, Repr

/-- R284, R285: the bytes that a CXL.mem read asks for. -/
structure HostRange where
  hpa : Nat
  n : Nat
  deriving DecidableEq, Repr

/-- Every instruction (R34, R35) and every event (95_what_each_step_holds.md) of the part. -/
inductive Instr where
  /-- NOP, opcode 0x00 (R74). -/
  | nop (f : Sched)
  /-- SADD_RR, opcode 0x01 (R64). -/
  | saddRR (f : Sched) (t : BitVec 2) (d : Reg) (a : Reg) (b : Reg)
  /-- SADD_RI, opcode 0x01 (R64). -/
  | saddRI (f : Sched) (t : BitVec 2) (d : Reg) (a : Reg) (imm : BitVec 32)
  /-- SSUB_RR, opcode 0x02 (R64). -/
  | ssubRR (f : Sched) (t : BitVec 2) (d : Reg) (a : Reg) (b : Reg)
  /-- SSUB_RI, opcode 0x02 (R64). -/
  | ssubRI (f : Sched) (t : BitVec 2) (d : Reg) (a : Reg) (imm : BitVec 32)
  /-- SMUL_RR, opcode 0x03 (R64). -/
  | smulRR (f : Sched) (t : BitVec 2) (d : Reg) (a : Reg) (b : Reg)
  /-- SMUL_RI, opcode 0x03 (R64). -/
  | smulRI (f : Sched) (t : BitVec 2) (d : Reg) (a : Reg) (imm : BitVec 32)
  /-- SMULH_RR, opcode 0x04 (R64). -/
  | smulhRR (f : Sched) (t : BitVec 2) (d : Reg) (a : Reg) (b : Reg)
  /-- SMULH_RI, opcode 0x04 (R64). -/
  | smulhRI (f : Sched) (t : BitVec 2) (d : Reg) (a : Reg) (imm : BitVec 32)
  /-- SDIV_RR, opcode 0x05 (R64). -/
  | sdivRR (f : Sched) (t : BitVec 2) (d : Reg) (a : Reg) (b : Reg)
  /-- SDIV_RI, opcode 0x05 (R64). -/
  | sdivRI (f : Sched) (t : BitVec 2) (d : Reg) (a : Reg) (imm : BitVec 32)
  /-- SAND_RR, opcode 0x06 (R64). -/
  | sandRR (f : Sched) (d : Reg) (a : Reg) (b : Reg)
  /-- SAND_RI, opcode 0x06 (R64). -/
  | sandRI (f : Sched) (d : Reg) (a : Reg) (imm : BitVec 32)
  /-- SOR_RR, opcode 0x07 (R64). -/
  | sorRR (f : Sched) (d : Reg) (a : Reg) (b : Reg)
  /-- SOR_RI, opcode 0x07 (R64). -/
  | sorRI (f : Sched) (d : Reg) (a : Reg) (imm : BitVec 32)
  /-- SXOR_RR, opcode 0x08 (R64). -/
  | sxorRR (f : Sched) (d : Reg) (a : Reg) (b : Reg)
  /-- SXOR_RI, opcode 0x08 (R64). -/
  | sxorRI (f : Sched) (d : Reg) (a : Reg) (imm : BitVec 32)
  /-- SNOT, opcode 0x09 (R64). -/
  | snot (f : Sched) (d : Reg) (a : Reg)
  /-- SSHL_RR, opcode 0x0A (R64). -/
  | sshlRR (f : Sched) (t : BitVec 2) (d : Reg) (a : Reg) (b : Reg)
  /-- SSHL_RI, opcode 0x0A (R64). -/
  | sshlRI (f : Sched) (t : BitVec 2) (d : Reg) (a : Reg) (imm : BitVec 32)
  /-- SSHR_RR, opcode 0x0B (R64). -/
  | sshrRR (f : Sched) (t : BitVec 2) (d : Reg) (a : Reg) (b : Reg)
  /-- SSHR_RI, opcode 0x0B (R64). -/
  | sshrRI (f : Sched) (t : BitVec 2) (d : Reg) (a : Reg) (imm : BitVec 32)
  /-- SSAR_RR, opcode 0x0C (R64). -/
  | ssarRR (f : Sched) (t : BitVec 2) (d : Reg) (a : Reg) (b : Reg)
  /-- SSAR_RI, opcode 0x0C (R64). -/
  | ssarRI (f : Sched) (t : BitVec 2) (d : Reg) (a : Reg) (imm : BitVec 32)
  /-- SMIN_RR, opcode 0x0D (R64). -/
  | sminRR (f : Sched) (t : BitVec 2) (d : Reg) (a : Reg) (b : Reg)
  /-- SMIN_RI, opcode 0x0D (R64). -/
  | sminRI (f : Sched) (t : BitVec 2) (d : Reg) (a : Reg) (imm : BitVec 32)
  /-- SMAX_RR, opcode 0x0E (R64). -/
  | smaxRR (f : Sched) (t : BitVec 2) (d : Reg) (a : Reg) (b : Reg)
  /-- SMAX_RI, opcode 0x0E (R64). -/
  | smaxRI (f : Sched) (t : BitVec 2) (d : Reg) (a : Reg) (imm : BitVec 32)
  /-- SMOV, opcode 0x0F (R64). -/
  | smov (f : Sched) (d : Reg) (a : Reg)
  /-- SLIL, opcode 0x10 (R66). -/
  | slil (f : Sched) (d : Reg) (imm : BitVec 32)
  /-- SLIH, opcode 0x11 (R66). -/
  | slih (f : Sched) (d : Reg) (a : Reg) (imm : BitVec 32)
  /-- SSEL, opcode 0x12 (R66). -/
  | ssel (f : Sched) (n : BitVec 3) (neg : Bool) (d : Reg) (a : Reg) (b : Reg)
  /-- SCMP_RR, opcode 0x13 (R66). -/
  | scmpRR (f : Sched) (t : BitVec 2) (cnd : BitVec 3) (d : Reg) (a : Reg) (b : Reg)
  /-- SCMP_RI, opcode 0x13 (R66). -/
  | scmpRI (f : Sched) (t : BitVec 2) (cnd : BitVec 3) (d : Reg) (a : Reg) (imm : BitVec 32)
  /-- VADD_RR, opcode 0x14 (R67). -/
  | vaddRR (f : Sched) (t : BitVec 2) (d : Reg) (a : Reg) (b : Reg)
  /-- VADD_RI, opcode 0x14 (R67). -/
  | vaddRI (f : Sched) (t : BitVec 2) (d : Reg) (a : Reg) (imm : BitVec 32)
  /-- VSUB_RR, opcode 0x15 (R67). -/
  | vsubRR (f : Sched) (t : BitVec 2) (d : Reg) (a : Reg) (b : Reg)
  /-- VSUB_RI, opcode 0x15 (R67). -/
  | vsubRI (f : Sched) (t : BitVec 2) (d : Reg) (a : Reg) (imm : BitVec 32)
  /-- VMUL_RR, opcode 0x16 (R67). -/
  | vmulRR (f : Sched) (t : BitVec 2) (d : Reg) (a : Reg) (b : Reg)
  /-- VMUL_RI, opcode 0x16 (R67). -/
  | vmulRI (f : Sched) (t : BitVec 2) (d : Reg) (a : Reg) (imm : BitVec 32)
  /-- VMULH_RR, opcode 0x17 (R67). -/
  | vmulhRR (f : Sched) (t : BitVec 2) (d : Reg) (a : Reg) (b : Reg)
  /-- VMULH_RI, opcode 0x17 (R67). -/
  | vmulhRI (f : Sched) (t : BitVec 2) (d : Reg) (a : Reg) (imm : BitVec 32)
  /-- VMAD, opcode 0x18 (R67). -/
  | vmad (f : Sched) (t : BitVec 2) (d : Reg) (a : Reg) (b : Reg) (c : Reg)
  /-- VAND_RR, opcode 0x19 (R67). -/
  | vandRR (f : Sched) (t : BitVec 2) (d : Reg) (a : Reg) (b : Reg)
  /-- VAND_RI, opcode 0x19 (R67). -/
  | vandRI (f : Sched) (t : BitVec 2) (d : Reg) (a : Reg) (imm : BitVec 32)
  /-- VOR_RR, opcode 0x1A (R67). -/
  | vorRR (f : Sched) (t : BitVec 2) (d : Reg) (a : Reg) (b : Reg)
  /-- VOR_RI, opcode 0x1A (R67). -/
  | vorRI (f : Sched) (t : BitVec 2) (d : Reg) (a : Reg) (imm : BitVec 32)
  /-- VXOR_RR, opcode 0x1B (R67). -/
  | vxorRR (f : Sched) (t : BitVec 2) (d : Reg) (a : Reg) (b : Reg)
  /-- VXOR_RI, opcode 0x1B (R67). -/
  | vxorRI (f : Sched) (t : BitVec 2) (d : Reg) (a : Reg) (imm : BitVec 32)
  /-- VSHL_RR, opcode 0x1C (R67). -/
  | vshlRR (f : Sched) (t : BitVec 2) (d : Reg) (a : Reg) (b : Reg)
  /-- VSHL_RI, opcode 0x1C (R67). -/
  | vshlRI (f : Sched) (t : BitVec 2) (d : Reg) (a : Reg) (imm : BitVec 32)
  /-- VSHR_RR, opcode 0x1D (R67). -/
  | vshrRR (f : Sched) (t : BitVec 2) (d : Reg) (a : Reg) (b : Reg)
  /-- VSHR_RI, opcode 0x1D (R67). -/
  | vshrRI (f : Sched) (t : BitVec 2) (d : Reg) (a : Reg) (imm : BitVec 32)
  /-- VSAR_RR, opcode 0x1E (R67). -/
  | vsarRR (f : Sched) (t : BitVec 2) (d : Reg) (a : Reg) (b : Reg)
  /-- VSAR_RI, opcode 0x1E (R67). -/
  | vsarRI (f : Sched) (t : BitVec 2) (d : Reg) (a : Reg) (imm : BitVec 32)
  /-- VMIN_RR, opcode 0x1F (R67). -/
  | vminRR (f : Sched) (t : BitVec 2) (d : Reg) (a : Reg) (b : Reg)
  /-- VMIN_RI, opcode 0x1F (R67). -/
  | vminRI (f : Sched) (t : BitVec 2) (d : Reg) (a : Reg) (imm : BitVec 32)
  /-- VMAX_RR, opcode 0x20 (R67). -/
  | vmaxRR (f : Sched) (t : BitVec 2) (d : Reg) (a : Reg) (b : Reg)
  /-- VMAX_RI, opcode 0x20 (R67). -/
  | vmaxRI (f : Sched) (t : BitVec 2) (d : Reg) (a : Reg) (imm : BitVec 32)
  /-- VABS, opcode 0x21 (R67). -/
  | vabs (f : Sched) (t : BitVec 2) (d : Reg) (a : Reg)
  /-- VCMP_RR, opcode 0x22 (R69). -/
  | vcmpRR (f : Sched) (t : BitVec 2) (cnd : BitVec 3) (d : Reg) (a : Reg) (b : Reg)
  /-- VCMP_RI, opcode 0x22 (R69). -/
  | vcmpRI (f : Sched) (t : BitVec 2) (cnd : BitVec 3) (d : Reg) (a : Reg) (imm : BitVec 32)
  /-- VSEL, opcode 0x23 (R69). -/
  | vsel (f : Sched) (t : BitVec 2) (n : BitVec 3) (neg : Bool) (d : Reg) (a : Reg) (b : Reg)
  /-- VPOPC, opcode 0x24 (R67). -/
  | vpopc (f : Sched) (t : BitVec 2) (d : Reg) (a : Reg)
  /-- VCLZ, opcode 0x25 (R67). -/
  | vclz (f : Sched) (t : BitVec 2) (d : Reg) (a : Reg)
  /-- VBFE_RR, opcode 0x26 (R69). -/
  | vbfeRR (f : Sched) (t : BitVec 2) (d : Reg) (a : Reg) (b : Reg)
  /-- VBFE_RI, opcode 0x26 (R69). -/
  | vbfeRI (f : Sched) (t : BitVec 2) (d : Reg) (a : Reg) (imm : BitVec 32)
  /-- VBFI_RR, opcode 0x27 (R69). -/
  | vbfiRR (f : Sched) (t : BitVec 2) (d : Reg) (a : Reg) (b : Reg) (c : Reg)
  /-- VBFI_RI, opcode 0x27 (R69). -/
  | vbfiRI (f : Sched) (t : BitVec 2) (d : Reg) (a : Reg) (imm : BitVec 32)
  /-- VMOV, opcode 0x28 (R67). -/
  | vmov (f : Sched) (t : BitVec 2) (d : Reg) (a : Reg)
  /-- VLI, opcode 0x29 (R67). -/
  | vli (f : Sched) (t : BitVec 2) (d : Reg) (imm : BitVec 32)
  /-- VADDR_RR, opcode 0x2A (R70). -/
  | vaddrRR (f : Sched) (scl : BitVec 3) (uns : Bool) (d : Reg) (a : Reg) (b : Reg)
  /-- VADDR_RI, opcode 0x2A (R70). -/
  | vaddrRI (f : Sched) (d : Reg) (a : Reg) (imm : BitVec 32)
  /-- VBCAST_RR, opcode 0x2B (R71). -/
  | vbcastRR (f : Sched) (t : BitVec 2) (d : Reg) (a : Reg) (b : Reg)
  /-- VBCAST_RI, opcode 0x2B (R71). -/
  | vbcastRI (f : Sched) (t : BitVec 2) (d : Reg) (a : Reg) (imm : BitVec 32)
  /-- V2S_RR, opcode 0x2C (R71). -/
  | v2sRR (f : Sched) (t : BitVec 2) (d : Reg) (a : Reg) (b : Reg)
  /-- V2S_RI, opcode 0x2C (R71). -/
  | v2sRI (f : Sched) (t : BitVec 2) (d : Reg) (a : Reg) (imm : BitVec 32)
  /-- VSHFL_RR, opcode 0x2D (R71). -/
  | vshflRR (f : Sched) (t : BitVec 2) (mode : BitVec 2) (d : Reg) (a : Reg) (b : Reg)
  /-- VSHFL_RI, opcode 0x2D (R71). -/
  | vshflRI (f : Sched) (t : BitVec 2) (mode : BitVec 2) (d : Reg) (a : Reg) (imm : BitVec 32)
  /-- VRED, opcode 0x2E (R72). -/
  | vred (f : Sched) (t : BitVec 2) (op : BitVec 2) (d : Reg) (a : Reg)
  /-- PAND, opcode 0x30 (R73). -/
  | pand (f : Sched) (d : Reg) (a : Reg) (b : Reg)
  /-- POR, opcode 0x31 (R73). -/
  | por (f : Sched) (d : Reg) (a : Reg) (b : Reg)
  /-- PXOR, opcode 0x32 (R73). -/
  | pxor (f : Sched) (d : Reg) (a : Reg) (b : Reg)
  /-- PNOT, opcode 0x33 (R73). -/
  | pnot (f : Sched) (d : Reg) (a : Reg)
  /-- PMOV, opcode 0x34 (R73). -/
  | pmov (f : Sched) (d : Reg) (a : Reg)
  /-- PANY, opcode 0x35 (R73). -/
  | pany (f : Sched) (d : Reg) (a : Reg)
  /-- PALL, opcode 0x36 (R73). -/
  | pall (f : Sched) (d : Reg) (a : Reg)
  /-- PSET, opcode 0x37 (R73). -/
  | pset (f : Sched) (d : Reg) (a : Reg)
  /-- BRA, opcode 0x38 (R74). -/
  | bra (f : Sched) (disp : BitVec 32)
  /-- BRC, opcode 0x39 (R74). -/
  | brc (f : Sched) (n : BitVec 3) (neg : Bool) (mode : Reg) (disp : BitVec 32)
  /-- BRD, opcode 0x3A (R74). -/
  | brd (f : Sched) (n : BitVec 3) (neg : Bool) (jlo : Reg) (jhi : Reg) (disp : BitVec 32)
  /-- JOIN, opcode 0x3B (R74). -/
  | join (f : Sched)
  /-- CALL, opcode 0x3C (R74). -/
  | call (f : Sched) (d : Reg) (disp : BitVec 32)
  /-- RET, opcode 0x3D (R74). -/
  | ret (f : Sched) (a : Reg)
  /-- LOOP, opcode 0x3E (R74). -/
  | loop (f : Sched) (d : Reg) (disp : BitVec 32)
  /-- EXIT, opcode 0x3F (R74). -/
  | exit (f : Sched)
  /-- VFADD, opcode 0x40 (R83). -/
  | vfadd (f : Sched) (ft : BitVec 2) (rm : BitVec 3) (d : Reg) (a : Reg) (b : Reg)
  /-- VFSUB, opcode 0x41 (R83). -/
  | vfsub (f : Sched) (ft : BitVec 2) (rm : BitVec 3) (d : Reg) (a : Reg) (b : Reg)
  /-- VFMUL, opcode 0x42 (R83). -/
  | vfmul (f : Sched) (ft : BitVec 2) (rm : BitVec 3) (d : Reg) (a : Reg) (b : Reg)
  /-- VFMA, opcode 0x43 (R83). -/
  | vfma (f : Sched) (ft : BitVec 2) (rm : BitVec 3) (d : Reg) (a : Reg) (b : Reg) (c : Reg)
  /-- VFMIN, opcode 0x44 (R83). -/
  | vfmin (f : Sched) (ft : BitVec 2) (d : Reg) (a : Reg) (b : Reg)
  /-- VFMAX, opcode 0x45 (R83). -/
  | vfmax (f : Sched) (ft : BitVec 2) (d : Reg) (a : Reg) (b : Reg)
  /-- VFCMP, opcode 0x46 (R85). -/
  | vfcmp (f : Sched) (cnd : BitVec 3) (d : Reg) (a : Reg) (b : Reg)
  /-- VFABS, opcode 0x47 (R83). -/
  | vfabs (f : Sched) (ft : BitVec 2) (d : Reg) (a : Reg)
  /-- VFNEG, opcode 0x48 (R83). -/
  | vfneg (f : Sched) (ft : BitVec 2) (d : Reg) (a : Reg)
  /-- VRCP, opcode 0x49 (R86). -/
  | vrcp (f : Sched) (d : Reg) (a : Reg)
  /-- VRSQ, opcode 0x4A (R86). -/
  | vrsq (f : Sched) (d : Reg) (a : Reg)
  /-- VEXP2, opcode 0x4B (R86). -/
  | vexp2 (f : Sched) (d : Reg) (a : Reg)
  /-- VLOG2, opcode 0x4C (R86). -/
  | vlog2 (f : Sched) (d : Reg) (a : Reg)
  /-- CVT, opcode 0x50 (R90). -/
  | cvt (f : Sched) (df : BitVec 5) (sf : BitVec 5) (rm : BitVec 3) (sat : Bool) (ei : BitVec 3) (d : Reg) (a : Reg)
  /-- VPACK, opcode 0x51 (R92). -/
  | vpack (f : Sched) (df : BitVec 5) (rm : BitVec 3) (sat : Bool) (d : Reg) (a : Reg)
  /-- VPACK_MX8, opcode 0x51 (R93; DF is 0x10 (.MX8) or 0x11 (.MX4)). -/
  | vpackMx8 (f : Sched) (mx4 : Bool) (rm : BitVec 3) (d : Reg) (a : Reg) (b : Reg) (c : Reg)
  /-- VUNPACK, opcode 0x52 (R94). -/
  | vunpack (f : Sched) (df : BitVec 5) (sf : BitVec 5) (rm : BitVec 3) (d : Reg) (a : Reg) (b : Reg)
  /-- SEED_RR, opcode 0x53 (R95). -/
  | seedRR (f : Sched) (d : Reg) (a : Reg)
  /-- SEED_RI, opcode 0x53 (R95). -/
  | seedRI (f : Sched) (d : Reg) (imm : BitVec 32)
  /-- LD_S, opcode 0x80 (R102). -/
  | ldS (f : Sched) (off : BitVec 20) (ty : BitVec 4) (d : Reg) (a : Reg)
  /-- LD_V, opcode 0x81 (R102). -/
  | ldV (f : Sched) (off : BitVec 20) (ty : BitVec 4) (d : Reg) (a : Reg)
  /-- LD_VB, opcode 0x82 (R102). -/
  | ldVb (f : Sched) (off : BitVec 20) (cnt : BitVec 2) (d : Reg) (a : Reg)
  /-- LD_T, opcode 0x83 (R102). -/
  | ldT (f : Sched) (off : BitVec 20) (cnt : BitVec 2) (d : Reg) (a : Reg) (b : Reg)
  /-- LD_LAST, opcode 0x84 (R104). -/
  | ldLast (f : Sched) (off : BitVec 20) (ty : BitVec 4) (d : Reg) (a : Reg)
  /-- ST_S, opcode 0x88 (R102). -/
  | stS (f : Sched) (off : BitVec 20) (ty : BitVec 4) (d : Reg) (a : Reg)
  /-- ST_V, opcode 0x89 (R102). -/
  | stV (f : Sched) (off : BitVec 20) (ty : BitVec 4) (d : Reg) (a : Reg)
  /-- ST_VB, opcode 0x8A (R102). -/
  | stVb (f : Sched) (off : BitVec 20) (cnt : BitVec 2) (d : Reg) (a : Reg)
  /-- ST_PAIR, opcode 0x8B (R105). -/
  | stPair (f : Sched) (off : BitVec 20) (cnt : BitVec 2) (d : Reg) (a : Reg) (b : Reg)
  /-- PREF, opcode 0x90 (R107). -/
  | pref (f : Sched) (off : BitVec 20) (lv : Bool) (a : Reg) (b : Reg)
  /-- PIN, opcode 0x91 (R107). -/
  | pin (f : Sched) (off : BitVec 20) (d : Reg) (a : Reg) (b : Reg)
  /-- UNPIN, opcode 0x92 (R107). -/
  | unpin (f : Sched) (off : BitVec 20) (d : Reg) (a : Reg) (b : Reg)
  /-- WBR, opcode 0x93 (R107). -/
  | wbr (f : Sched) (off : BitVec 20) (a : Reg) (b : Reg)
  /-- RED, opcode 0x98 (R110). -/
  | red (f : Sched) (off : BitVec 20) (ty : BitVec 4) (sc : BitVec 3) (op : BitVec 3) (d : Reg) (a : Reg)
  /-- ATOM, opcode 0x99 (R110). -/
  | atom (f : Sched) (off : BitVec 20) (ty : BitVec 4) (sc : BitVec 3) (op : BitVec 3) (d : Reg) (a : Reg) (b : Reg)
  /-- CAS, opcode 0x9A (R110). -/
  | cas (f : Sched) (off : BitVec 20) (ty : BitVec 4) (sc : BitVec 3) (d : Reg) (a : Reg) (b : Reg)
  /-- ARENA_NEW, opcode 0xA0 (R115). -/
  | arenaNew (f : Sched) (pn : BitVec 3) (d : Reg) (a : Reg) (b : Reg)
  /-- ARENA_ALLOC, opcode 0xA1 (R115). -/
  | arenaAlloc (f : Sched) (pn : BitVec 3) (aln : BitVec 4) (d : Reg) (a : Reg) (b : Reg)
  /-- ARENA_SEAL, opcode 0xA2 (R115). -/
  | arenaSeal (f : Sched) (a : Reg)
  /-- ARENA_RESET, opcode 0xA3 (R115). -/
  | arenaReset (f : Sched) (d : Reg) (a : Reg)
  /-- ARENA_DROP, opcode 0xA4 (R115). -/
  | arenaDrop (f : Sched) (a : Reg)
  /-- ARENA_QUOTA, opcode 0xA5 (R115). -/
  | arenaQuota (f : Sched) (d : Reg) (a : Reg) (b : Reg)
  /-- ARENA_INFO, opcode 0xA6 (R115). -/
  | arenaInfo (f : Sched) (off : BitVec 20) (pn : BitVec 3) (sel : BitVec 4) (d : Reg) (a : Reg)
  /-- WAITC, opcode 0xB0 (R122). -/
  | waitc (f : Sched) (n : BitVec 4) (k : BitVec 6)
  /-- WAITC_TEST, opcode 0xB0 (R122). -/
  | waitcTest (f : Sched) (n : BitVec 4) (k : BitVec 6) (d : Reg)
  /-- BAR, opcode 0xB1 (R123). -/
  | bar (f : Sched) (bn : BitVec 2) (n : BitVec 5)
  /-- HDL_INIT, opcode 0xB2 (R126). -/
  | hdlInit (f : Sched) (off : BitVec 20) (a : Reg) (b : Reg)
  /-- HDL_INIT_RELEASE, opcode 0xB2 (R126; the word of HDL.INIT, met with b[31] = 1 at run time). -/
  | hdlInitRelease (f : Sched) (off : BitVec 20) (a : Reg) (b : Reg)
  /-- HDL_EXPECT, opcode 0xB3 (R126). -/
  | hdlExpect (f : Sched) (off : BitVec 20) (a : Reg) (b : Reg)
  /-- HDL_ARRIVE, opcode 0xB4 (R126). -/
  | hdlArrive (f : Sched) (off : BitVec 20) (a : Reg) (b : Reg)
  /-- HDL_WAIT, opcode 0xB5 (R126). -/
  | hdlWait (f : Sched) (off : BitVec 20) (a : Reg) (b : Reg)
  /-- HDL_TEST, opcode 0xB6 (R126). -/
  | hdlTest (f : Sched) (off : BitVec 20) (d : Reg) (a : Reg) (b : Reg)
  /-- WATCH, opcode 0xB7 (R129). -/
  | watch (f : Sched) (off : BitVec 20) (n : BitVec 2) (d : Reg) (a : Reg)
  /-- WAITW, opcode 0xB8 (R130). -/
  | waitw (f : Sched) (mask : BitVec 4) (limit : BitVec 24) (d : Reg)
  /-- YIELD, opcode 0xB9 (R134). -/
  | yield (f : Sched) (kind : BitVec 2) (n : BitVec 4) (k : BitVec 6) (a : Reg) (b : Reg)
  /-- QBIND, opcode 0xBA (R133). -/
  | qbind (f : Sched) (fifo : BitVec 3) (on : Bool) (d : Reg)
  /-- ENQ, opcode 0xBC (R135). -/
  | enq (f : Sched) (off : BitVec 20) (d : Reg) (a : Reg) (b : Reg)
  /-- SPAWN, opcode 0xBD (R135). -/
  | spawn (f : Sched) (off : BitVec 20) (d : Reg) (a : Reg) (b : Reg)
  /-- VIEW_DECL, opcode 0xBE (R137). -/
  | viewDecl (f : Sched) (off : BitVec 20) (fmt : BitVec 5) (op : BitVec 3) (pn : BitVec 3) (d : Reg) (a : Reg) (b : Reg)
  /-- VIEW_INFO, opcode 0xBF (R138). -/
  | viewInfo (f : Sched) (sel : BitVec 3) (d : Reg) (a : Reg)
  /-- TEND, opcode 0xC0 (R139). -/
  | tend (f : Sched)
  /-- MW, opcode 0xC8 (R150). -/
  | mw (f : Sched) (k : BitVec 9) (a : Reg) (b : Reg)
  /-- MWS, opcode 0xC9 (R150). -/
  | mws (f : Sched) (k : BitVec 9) (a : Reg) (b : Reg)
  /-- MSWAP, opcode 0xCA (R151). -/
  | mswap (f : Sched)
  /-- MS, opcode 0xCB (R152). -/
  | ms (f : Sched) (z : Bool) (d : Reg) (a : Reg) (b : Reg)
  /-- MST, opcode 0xCC (R152). -/
  | mst (f : Sched) (z : Bool) (d : Reg) (a : Reg) (b : Reg)
  /-- MCHAIN, opcode 0xCD (R153). -/
  | mchain (f : Sched) (cm1 : BitVec 2)
  /-- MQ, opcode 0xCE (R155). -/
  | mq (f : Sched) (sel : BitVec 2) (clr : Bool) (d : Reg)
  /-- CP, opcode 0xD8 (R158). -/
  | cp (f : Sched) (ch : BitVec 2) (exp : Bool) (d : Reg) (a : Reg) (b : Reg)
  /-- CP_G, opcode 0xD9 (R158). -/
  | cpG (f : Sched) (ch : BitVec 2) (exp : Bool) (d : Reg) (a : Reg) (b : Reg)
  /-- CP_S, opcode 0xDA (R158). -/
  | cpS (f : Sched) (ch : BitVec 2) (exp : Bool) (d : Reg) (a : Reg) (b : Reg)
  /-- CP_RED, opcode 0xDB (R158). -/
  | cpRed (f : Sched) (ch : BitVec 2) (exp : Bool) (fmt : BitVec 5) (op : BitVec 3) (d : Reg) (a : Reg) (b : Reg)
  /-- CPWP, opcode 0xDC (R163). -/
  | cpwp (f : Sched) (ch : BitVec 2) (d : Reg)
  /-- COLL_AR, opcode 0xE0 (R166). -/
  | collAr (f : Sched) (exp : Bool) (fmt : BitVec 5) (op : BitVec 3) (d : Reg) (a : Reg) (b : Reg)
  /-- COLL_AG, opcode 0xE1 (R166). -/
  | collAg (f : Sched) (exp : Bool) (d : Reg) (a : Reg) (b : Reg)
  /-- COLL_RS, opcode 0xE2 (R166). -/
  | collRs (f : Sched) (exp : Bool) (fmt : BitVec 5) (op : BitVec 3) (d : Reg) (a : Reg) (b : Reg)
  /-- COLL_BC, opcode 0xE3 (R166). -/
  | collBc (f : Sched) (exp : Bool) (d : Reg) (a : Reg) (b : Reg)
  /-- NET_GET, opcode 0xE8 (R172). -/
  | netGet (f : Sched) (exp : Bool) (d : Reg) (a : Reg) (b : Reg)
  /-- NET_PUT, opcode 0xE9 (R172). -/
  | netPut (f : Sched) (exp : Bool) (d : Reg) (a : Reg) (b : Reg)
  /-- NET_READ, opcode 0xEA (R172). -/
  | netRead (f : Sched) (exp : Bool) (d : Reg) (a : Reg) (b : Reg)
  /-- TRAP, opcode 0xF0 (R176). -/
  | trap (f : Sched) (n : BitVec 16) (d : Reg) (a : Reg) (b : Reg)
  /-- BRK, opcode 0xF1 (R177). -/
  | brk (f : Sched) (n : BitVec 16)
  /-- RFT, opcode 0xF2 (R177). -/
  | rft (f : Sched)
  /-- SYSRD, opcode 0xF3 (R178). -/
  | sysrd (f : Sched) (reg : BitVec 16) (inst : BitVec 16) (d : Reg)
  /-- SYSWR, opcode 0xF4 (R178). -/
  | syswr (f : Sched) (reg : BitVec 16) (inst : BitVec 16) (a : Reg)
  /-- TINV, opcode 0xF5 (R179). -/
  | tinv (f : Sched) (ctx : BitVec 6) (all : Bool) (a : Reg) (b : Reg)
  /-- HALT, opcode 0xF6 (R180). -/
  | halt (f : Sched) (mask : BitVec 4) (limit : BitVec 24) (d : Reg)
  /-- SNAP, opcode 0xF7 (R181). -/
  | snap (f : Sched) (d : Reg) (a : Reg) (b : Reg)
  /-- SLOTSET, opcode 0xF8 (R182). -/
  | slotset (f : Sched) (g : BitVec 2) (d : Reg) (a : Reg)
  /-- ACCESS_PERFORM: R225: the oldest access of an agent (wave number, or 2^32 + command number) performs. -/
  | accessPerform (agent : Nat)
  /-- SYNC_PUSH_ACK: R234: a sharer acknowledges a pushed SYNC value. -/
  | syncPushAck (agent : Nat) (cluster : Nat)
  /-- L1_RENEWAL_REPLY: R230. -/
  | l1RenewalReply (agent : Nat)
  /-- FAULT_REPLY: R220. -/
  | faultReply (agent : Nat)
  /-- ENGINE_START: R143. -/
  | engineStart (cmd : Nat)
  /-- ENGINE_COMPLETE: R143. -/
  | engineComplete (cmd : Nat)
  /-- HURDLE_TIMEOUT: R128. -/
  | hurdleTimeout (agent : Nat) (pcb : Bool)
  /-- WAITW_LIMIT_EXPIRY: R130. -/
  | waitwLimitExpiry (agent : Nat) (pcb : Bool)
  /-- HALT_WAKE: R180. -/
  | haltWake (agent : Nat)
  /-- WATCHDOG: R198. -/
  | watchdog (block : Nat)
  /-- PTS_CREEP: R227. -/
  | ptsCreep (core : Nat)
  /-- YIELD_SAVE: R134. -/
  | yieldSave (block : Nat)
  /-- YIELD_RESUME_RECORD: R134. -/
  | yieldResumeRecord (task : Nat)
  /-- TEND_POINT: R139. -/
  | tendPoint (block : Nat)
  /-- MERGE_COMPLETE: R246. -/
  | mergeComplete (task : Nat)
  /-- TASK_PLACE: R254. -/
  | taskPlace (node : Nat)
  /-- BATCH_TIMER_EXPIRY: R253. -/
  | batchTimerExpiry (node : Nat)
  /-- F0_REFILL: R132. -/
  | f0Refill (block : Nat)
  /-- LAP_START: R182. -/
  | lapStart
  /-- SCRUB_AND_DROP_SWEEP: R336. -/
  | scrubAndDropSweep (slice : Nat)
  /-- LINE_EVICTION: R107, R216. -/
  | lineEviction (line : Nat)
  /-- SNAPSHOT_DRAIN: R333. -/
  | snapshotDrain (snap : Nat)
  /-- FROZEN_GRANULE_COPY: R334. -/
  | frozenGranuleCopy (agent : Nat)
  /-- MIGRATION_SLOT: R339. -/
  | migrationSlot
  /-- TELEMETRY_SLOT: R338. -/
  | telemetrySlot (stack : Nat)
  /-- COLL_ANNOUNCEMENT: R168. -/
  | collAnnouncement (cmd : Nat)
  /-- COLL_TIME_LIMIT: R168. -/
  | collTimeLimit (cmd : Nat)
  /-- ENDPOINT_TIME_LIMIT: R174. -/
  | endpointTimeLimit (cmd : Nat)
  /-- TRANSPORT_FAILURE: R174. -/
  | transportFailure (cmd : Nat)
  /-- NVME_COMPLETION: R174. -/
  | nvmeCompletion (cmd : Nat) (status : BitVec 16)
  /-- NOP_PACKET: R286. -/
  | nopPacket (queue : Nat)
  /-- RECORD: R286. -/
  | recordPacket (queue : Nat)
  /-- NODEDEF: R250. -/
  | nodeDef (queue : Nat)
  /-- NODEDEL: R288. -/
  | nodeDel (queue : Nat)
  /-- COMMDEF: R286. -/
  | commDef (queue : Nat)
  /-- EPDEF: R286. -/
  | epDef (queue : Nat)
  /-- VPOOL: R286. -/
  | vpool (queue : Nat)
  /-- QCREATE: R286. -/
  | qcreate (queue : Nat)
  /-- QDESTROY: R286. -/
  | qdestroy (queue : Nat)
  /-- AMINV: R298, R302: a control core's AMINV acts. -/
  | aminv (agent : Nat)
  /-- FQREPLY_RESUME: R308. -/
  | fqreplyResume (agent : Nat)
  /-- FQREPLY_DECLINE: R308. -/
  | fqreplyDecline (agent : Nat)
  /-- MIGRATE: R310. -/
  | migrate (agent : Nat)
  /-- UNMAP: R311. -/
  | unmap (agent : Nat)
  /-- ICMSG: R292. -/
  | icmsg (agent : Nat)
  /-- HIRQ: R292. -/
  | hirq (agent : Nat)
  /-- VACATE: R315. -/
  | vacate (agent : Nat)
  /-- CRST: R321. -/
  | crst (agent : Nat)
  /-- L2HM_WRITE: R305. -/
  | l2hmWrite (agent : Nat)
  /-- PWRST_REQUEST: R325. -/
  | pwrstRequest (agent : Nat)
  /-- CLUSTER_POWER_STATE_REACHED: R325. -/
  | clusterPowerStateReached (cluster : Nat)
  /-- HERR_READ: R292. -/
  | herrRead (agent : Nat)
  /-- ICPEND_READ: R292. -/
  | icpendRead (agent : Nat)
  /-- CLAMPC_READ: Table 21.1. -/
  | clampcRead (agent : Nat)
  /-- SRDROP_READ: R298. -/
  | srdropRead (agent : Nat)
  /-- SYSREG_WRITE: R178. -/
  | sysregWrite (agent : Nat)
  /-- ASYNCHRONOUS_COMPLETION: R28, R178. -/
  | asynchronousCompletion (op : Nat)
  /-- GET_CERTIFICATE: R296. -/
  | getCertificate (slot : Nat)
  /-- CHALLENGE: R296. -/
  | challenge (slot : Nat)
  /-- GET_MEASUREMENTS: R296. -/
  | getMeasurements (index : Nat)
  /-- UNSUPPORTED_REQUEST: R296. -/
  | unsupportedRequest (code : Nat)
  /-- POWER_CLAMP: R326: one clamped cc of a core. -/
  | powerClamp (core : Nat)
  /-- THERMAL_TRIP: R326. -/
  | thermalTrip (die : Nat) (temp : BitVec 16)
  /-- THERMAL_RESUME: R326. -/
  | thermalResume (die : Nat) (temp : BitVec 16)
  /-- BACK_INVALIDATE_ACKNOWLEDGED: R323. -/
  | backInvalidateAcknowledged (line : Nat) (data : List Byte)
  /-- FIRMWARE_ENDS_THE_TASK: R256. -/
  | firmwareEndsTheTask (task : Nat)
  /-- GROUP_RETRAINS: R338. -/
  | groupRetrains (group : Nat)
  /-- PEER_REMOTE_ACCESS: R173, R241. -/
  | peerRemoteAccess (ep : Nat) (va : Addr) (kind : PeerKind) (pts : Nat) (bytes : List Byte)
  /-- HOST_CXL_MEM_READ: R284, R285: bytes of a link line. -/
  | hostCxlMemRead (req : HostRange)
  /-- HOST_CXL_MEM_WRITE: R284, R285: bytes of a link line. -/
  | hostCxlMemWrite (hpa : Nat) (bytes : List Byte)
  /-- SNPDATA: R322. -/
  | snpData (line : Nat)
  /-- SNPINV: R322. -/
  | snpInv (line : Nat)
  /-- SNPCUR: R322. -/
  | snpCur (line : Nat)
  /-- GET_VERSION: R296. -/
  | getVersion
  /-- GET_CAPABILITIES: R296. -/
  | getCapabilities
  /-- NEGOTIATE_ALGORITHMS: R296. -/
  | negotiateAlgorithms
  /-- GET_DIGESTS: R296. -/
  | getDigests
  /-- CDAT_REQUEST: R284. -/
  | cdatRequest
  /-- POWER_ON_RESET: R320. -/
  | powerOnReset
  /-- FUNCTION_LEVEL_RESET: R320. -/
  | functionLevelReset
  /-- LINK_DOWN: R320. -/
  | linkDown
  /-- LINK_UP: R320. -/
  | linkUp
  deriving DecidableEq, Repr

end Sys2Proof
end

