-- ==== Sys2Proof/Machine/Forms.lean ====
section
/-! DEFINITION. What an operand field may name and a modifier field may hold (R18 to R20 and the form tables of the
instruction chapters): checks 5, 6 and 7 of Table 1.11, read off the fields of an instruction. -/
namespace Sys2Proof.Machine

/-! ### Operand classes (R19, R20) -/

/-- A V register. -/
def isV (r : Reg) : Bool := decide (r.toNat < 192)
/-- An S register. -/
def isS (r : Reg) : Bool := decide (192 ≤ r.toNat) && decide (r.toNat < 240)
/-- A queue port. -/
def isQ (r : Reg) : Bool := decide (240 ≤ r.toNat) && decide (r.toNat < 248)
/-- Z. -/
def isZ (r : Reg) : Bool := r == 255
/-- R19: a uniform source. -/
def uSrc (r : Reg) : Bool := isS r || decide (249 ≤ r.toNat)
/-- R19: a uniform destination. -/
def uDst (r : Reg) : Bool := isS r || isZ r
/-- R19: a per-lane destination. -/
def vDst (r : Reg) : Bool := isV r || isQ r || isZ r
/-- R20: a group of `n` V registers, aligned to `n` and within V191. -/
def vGroup (n : Nat) (r : Reg) : Bool := isV r && decide (r.toNat % n = 0) && decide (r.toNat + n ≤ 192)
/-- R20: a group of `n` S registers, aligned to `n` and within S47. -/
def sGroup (n : Nat) (r : Reg) : Bool := isS r && decide (r.toNat % n = 0) && decide (r.toNat + n ≤ 240)
/-- R20: a 64-bit per-lane destination. -/
def vDst64 (r : Reg) : Bool := vGroup 2 r || isZ r
/-- R20: a 64-bit per-lane source: an even V pair, or a uniform source, broadcast. -/
def vSrc64 (r : Reg) : Bool := vGroup 2 r || uSrc r
/-- R99: a base address: a uniform source or an even V pair. -/
def addrSrc (r : Reg) : Bool := vSrc64 r
/-- R20: an even S register, naming a pair. -/
def pairS (r : Reg) : Bool := sGroup 2 r
/-- R141: an even S register or Z. -/
def pairSZ (r : Reg) : Bool := sGroup 2 r || isZ r
/-- A predicate number (R73). -/
def predOk (r : Reg) : Bool := decide (r.toNat < 8)
/-- A queue port number (R133). -/
def queueOk (r : Reg) : Bool := isQ r

/-! ### Types (R62) -/

/-- Table 3.2, vector column: the operand width. -/
def vectorW (t : BitVec 2) : Nat := if t.toNat < 2 then 32 else 64
/-- Table 3.2, scalar column: the operand width. -/
def scalarW (t : BitVec 2) : Nat := if t.toNat < 2 then 64 else 32
/-- Table 3.2: is the type signed? -/
def typeSigned (t : BitVec 2) : Bool := t.toNat % 2 == 0
/-- A type code of 0 or 2 (Tables 3.3, 3.4). -/
def evenT (t : BitVec 2) : Bool := t.toNat % 2 == 0
/-- R67: a vector source of type T; a pair for a 64-bit type. -/
def vSrcT (t : BitVec 2) (r : Reg) : Bool := vectorW t == 32 || vSrc64 r
/-- R67: a vector destination of type T. -/
def vDstT (t : BitVec 2) (r : Reg) : Bool := if vectorW t = 32 then vDst r else vDst64 r
/-- R62: CND 6 and 7 are unassigned. -/
def condOk (c : BitVec 3) : Bool := decide (c.toNat ≤ 5)
/-- R65, R68: an RI shift amount lies in 0 to w − 1. -/
def shiftOk (w : Nat) (imm : BitVec 32) : Bool := decide (imm.toNat < w)
/-- R69: bits 31:16 of a field specification are zero. -/
def specOk (imm : BitVec 32) : Bool := decide (imm.toNat < 65536)
/-- R71: bits 31:5 of a lane number are zero. -/
def laneImmOk (imm : BitVec 32) : Bool := decide (imm.toNat < 32)
/-- R74: the join distance of a BRD is above zero. -/
def joinOk (hi lo : BitVec 8) : Bool := decide (0 < (hi ++ lo).toInt)
/-- Table 4.1: form codes. -/
def ftOk (ft : BitVec 2) : Bool := decide (ft.toNat ≤ 2)
/-- Table 4.1, R50: rounding codes of the FP family. -/
def rmOk (rm : BitVec 3) : Bool := decide (rm.toNat ≤ 3)

/-! ### Conversions (Table 4.5) -/

/-- The destinations that admit .SAT. -/
def satFmt (df : Nat) : Bool := df == 1 || df == 2 || df == 3 || df == 4
/-- Table 4.5, row CVT. -/
def cvtOk (df sf : BitVec 5) (rm : BitVec 3) (sat : Bool) (ei : BitVec 3) : Bool :=
  decide (df.toNat ≤ 0xC) && decide (sf.toNat ≤ 0xD) && decide (rm.toNat ≤ 4) && (!sat || satFmt df.toNat) &&
  (if 32 ≤ fmtWidth sf.toNat then ei == 0 else decide (ei.toNat < 32 / fmtWidth sf.toNat))
/-- R91: the operands of CVT. -/
def cvtOps (df sf : BitVec 5) (d a : Reg) : Bool :=
  (if fmtWidth df.toNat = 64 then vDst64 d else vDst d) && (fmtWidth sf.toNat != 64 || vSrc64 a)
/-- Table 4.5, row VPACK, non-block destinations. -/
def vpackOk (df : BitVec 5) (rm : BitVec 3) (sat : Bool) : Bool :=
  ((decide (1 ≤ df.toNat) && decide (df.toNat ≤ 7)) || df == 0xA) && decide (rm.toNat ≤ 4) && (!sat || satFmt df.toNat)
/-- Is the code a block class (Table 2.1)? -/
def isBlock (f : BitVec 5) : Bool := f == 0x10 || f == 0x11
/-- Table 4.5, row VUNPACK; B is 0 for a source that is not a block (R94). -/
def vunpackOk (df sf : BitVec 5) (rm : BitVec 3) (b : Reg) : Bool :=
  ((decide (1 ≤ sf.toNat) && decide (sf.toNat ≤ 7)) || sf == 0xA || isBlock sf) &&
  (df == 0 || (df == 8 && (sf == 6 || sf == 7 || sf == 0xA))) && decide (rm.toNat ≤ 3) && (isBlock sf || b == 0)
/-- R94: the number of destination registers of VUNPACK. -/
def vunpackN (sf : BitVec 5) : Nat :=
  if sf = 0x10 then 4 else if sf = 0x11 then 8 else 32 / fmtWidth sf.toNat
/-- R94: the operands of VUNPACK. -/
def vunpackOps (sf : BitVec 5) (d a b : Reg) : Bool :=
  vGroup (vunpackN sf) d && (if isBlock sf then isV a && pairSZ b else true)

/-! ### Memory (Tables 5.1 to 5.5) -/

/-- Table 5.1: CNT gives 1, 2, 4 or 8 registers. -/
def cntOf (c : BitVec 2) : Nat := 2 ^ c.toNat
/-- R101: bytes of an element of a V form. -/
def tyBytesV (ty : BitVec 4) : Nat :=
  match ty.toNat with
  | 0 => 4 | 1 => 1 | 2 => 1 | 3 => 2 | 4 => 4 | 5 => 4 | 6 => 8 | _ => 16
/-- R101: bytes of an element of an S form. -/
def tyBytesS (ty : BitVec 4) : Nat := if ty = 0 then 8 else tyBytesV ty
/-- R101, R103: the destination of LD.S. -/
def sData (ty : BitVec 4) (d : Reg) : Bool := if ty = 7 then pairS d else uDst d
/-- R103: the data source of ST.S; a uniform field. -/
def sStore (ty : BitVec 4) (d : Reg) : Bool := if ty = 7 then pairS d else uSrc d
/-- R101, R103: the destination of LD.V and LD.LAST. -/
def vLoadD (ty : BitVec 4) (d : Reg) : Bool :=
  if ty = 6 then vDst64 d else if ty = 7 then vGroup 4 d || isZ d else vDst d
/-- R101, R103: the data source of ST.V. -/
def vStoreD (ty : BitVec 4) (d : Reg) : Bool :=
  if ty = 6 then vSrc64 d else if ty = 7 then vGroup 4 d || sGroup 4 d || isZ d else true
/-- R102, R103: a run of n registers from D; one register may be any per-lane destination. -/
def vGroupQ (cnt : BitVec 2) (d : Reg) : Bool :=
  if cnt = 0 then vDst d else (isV d && decide (d.toNat + cntOf cnt ≤ 192))
/-- R102, R103: a run of n data registers from D; one register may be any per-lane source. -/
def vGroupSrc (cnt : BitVec 2) (d : Reg) : Bool :=
  if cnt = 0 then true else (isV d && decide (d.toNat + cntOf cnt ≤ 192))
/-- Table 5.5: bytes of an atomic type. -/
def atomBytes (ty : BitVec 4) : Nat :=
  match ty.toNat with
  | 2 => 8 | 3 => 8 | 8 => 8 | 9 => 16 | _ => 4
/-- Table 5.5: types and operations of RED. -/
def redOk (ty : BitVec 4) (op : BitVec 3) : Bool :=
  decide (ty.toNat ≤ 8) && decide (op.toNat ≤ 5) && (decide (ty.toNat < 7) || decide (3 ≤ op.toNat))
/-- Table 5.5: types and operations of ATOM. -/
def atomOk (ty : BitVec 4) (op : BitVec 3) : Bool :=
  redOk ty op || (decide (ty.toNat ≤ 8) && op == 6) || ((ty == 1 || ty == 3) && op == 7)
/-- R109: types of CAS. -/
def casTyOk (ty : BitVec 4) : Bool := ty == 7 || ty == 8 || ty == 9
/-- R110: a data operand of `k` bytes of a per-lane form. -/
def laneData (k : Nat) (r : Reg) : Bool := if k = 4 then true else if k = 8 then vSrc64 r else vGroup 4 r
/-- R110: the operand of RED and ATOM: S registers with a uniform base, per-lane with a vector base. -/
def atomData (a : Reg) (ty : BitVec 4) (r : Reg) : Bool :=
  if isV a then laneData (atomBytes ty) r else uSrc r
/-- R110: the old value of ATOM and CAS. -/
def atomDst (a : Reg) (ty : BitVec 4) (r : Reg) : Bool :=
  if isV a then
    (if atomBytes ty = 4 then vDst r else if atomBytes ty = 8 then vDst64 r else (vGroup 4 r || isZ r))
  else if atomBytes ty = 16 then (pairS r || isZ r) else uDst r
/-- R110: the B group of CAS. -/
def casGroup (a : Reg) (ty : BitVec 4) (r : Reg) : Bool :=
  if isV a then vGroup (atomBytes ty / 2) r else (if ty = 9 then sGroup 4 r else sGroup 2 r)

/-! ### Synchronisation and system (Tables 6.1 to 8.5) -/

/-- R134: the fields of YIELD by KIND. -/
def yieldOk (kind : BitVec 2) (n : BitVec 4) (k : BitVec 6) (a b : Reg) : Bool :=
  decide (n.toNat ≤ 11) && (kind == 1 || (n == 0 && k == 0)) && (kind == 2 || (a == 0 && b == 0))

/-- R178, Tables 19.8, 20.1, 21.1: the register numbers and their instances. -/
def sysInstances : Nat → Nat
  | 0x0001 => 1 | 0x0002 => 1 | 0x0003 => 1 | 0x0004 => 1 | 0x0005 => 1
  | 0x0010 => 16 | 0x0011 => 16 | 0x0018 => 1 | 0x0020 => 16 | 0x0021 => 1 | 0x0030 => 1 | 0x0040 => 64
  | 0x0100 => 65 | 0x0101 => 64 | 0x0102 => 65 | 0x0103 => 1 | 0x0104 => 16 | 0x0110 => 16 | 0x0111 => 16
  | 0x0118 => 4 | 0x0119 => 4 | 0x011A => 4 | 0x011B => 1 | 0x011C => 1
  | 0x0120 => 16 | 0x0121 => 16 | 0x0122 => 16 | 0x0123 => 16 | 0x0124 => 16 | 0x0128 => 1
  | 0x0200 => 1 | 0x0201 => 192 | 0x0202 => 1 | 0x0203 => 4 | 0x0204 => 4 | 0x0205 => 64 | 0x0206 => 256
  | 0x0207 => 1 | 0x0208 => 48 | 0x0209 => 1 | 0x020A => 4 | 0x020B => 4
  | _ => 0
/-- R178: is the register number and instance assigned? PARTCORE's instances are 16p + w, w from 0 to 2. -/
def sysRegOk (reg inst : Nat) : Bool :=
  decide (inst < sysInstances reg) && (reg != 0x0206 || decide (inst % 16 < 3))

/-- Check 5 of Table 1.11 on the modifier values of a form: does each hold a value its chapter assigns? -/
def modOk : Instr → Bool
  | .nop _ => true
  | .saddRR _ _ _ _ _ => true
  | .saddRI _ _ _ _ _ => true
  | .ssubRR _ _ _ _ _ => true
  | .ssubRI _ _ _ _ _ => true
  | .smulRR _ _ _ _ _ => true
  | .smulRI _ _ _ _ _ => true
  | .smulhRR _ _ _ _ _ => true
  | .smulhRI _ _ _ _ _ => true
  | .sdivRR _ _ _ _ _ => true
  | .sdivRI _ _ _ _ _ => true
  | .sandRR _ _ _ _ => true
  | .sandRI _ _ _ _ => true
  | .sorRR _ _ _ _ => true
  | .sorRI _ _ _ _ => true
  | .sxorRR _ _ _ _ => true
  | .sxorRI _ _ _ _ => true
  | .snot _ _ _ => true
  | .sshlRR _ t _ _ _ => evenT t
  | .sshlRI _ t _ _ imm => evenT t && shiftOk (scalarW t) imm
  | .sshrRR _ t _ _ _ => evenT t
  | .sshrRI _ t _ _ imm => evenT t && shiftOk (scalarW t) imm
  | .ssarRR _ t _ _ _ => evenT t
  | .ssarRI _ t _ _ imm => evenT t && shiftOk (scalarW t) imm
  | .sminRR _ _ _ _ _ => true
  | .sminRI _ _ _ _ _ => true
  | .smaxRR _ _ _ _ _ => true
  | .smaxRI _ _ _ _ _ => true
  | .smov _ _ _ => true
  | .slil _ _ _ => true
  | .slih _ _ _ _ => true
  | .ssel _ _ _ _ _ _ => true
  | .scmpRR _ _ cnd _ _ _ => condOk cnd
  | .scmpRI _ _ cnd _ _ _ => condOk cnd
  | .vaddRR _ _ _ _ _ => true
  | .vaddRI _ _ _ _ _ => true
  | .vsubRR _ _ _ _ _ => true
  | .vsubRI _ _ _ _ _ => true
  | .vmulRR _ _ _ _ _ => true
  | .vmulRI _ _ _ _ _ => true
  | .vmulhRR _ _ _ _ _ => true
  | .vmulhRI _ _ _ _ _ => true
  | .vmad _ _ _ _ _ _ => true
  | .vandRR _ t _ _ _ => evenT t
  | .vandRI _ t _ _ _ => evenT t
  | .vorRR _ t _ _ _ => evenT t
  | .vorRI _ t _ _ _ => evenT t
  | .vxorRR _ t _ _ _ => evenT t
  | .vxorRI _ t _ _ _ => evenT t
  | .vshlRR _ t _ _ _ => evenT t
  | .vshlRI _ t _ _ imm => evenT t && shiftOk (vectorW t) imm
  | .vshrRR _ t _ _ _ => evenT t
  | .vshrRI _ t _ _ imm => evenT t && shiftOk (vectorW t) imm
  | .vsarRR _ t _ _ _ => evenT t
  | .vsarRI _ t _ _ imm => evenT t && shiftOk (vectorW t) imm
  | .vminRR _ _ _ _ _ => true
  | .vminRI _ _ _ _ _ => true
  | .vmaxRR _ _ _ _ _ => true
  | .vmaxRI _ _ _ _ _ => true
  | .vabs _ t _ _ => evenT t
  | .vcmpRR _ _ cnd _ _ _ => condOk cnd
  | .vcmpRI _ _ cnd _ _ _ => condOk cnd
  | .vsel _ t _ _ _ _ _ => evenT t
  | .vpopc _ t _ _ => evenT t
  | .vclz _ t _ _ => evenT t
  | .vbfeRR _ _ _ _ _ => true
  | .vbfeRI _ _ _ _ imm => specOk imm
  | .vbfiRR _ _ _ _ _ _ => true
  | .vbfiRI _ _ _ _ imm => specOk imm
  | .vmov _ t _ _ => evenT t
  | .vli _ _ _ _ => true
  | .vaddrRR _ scl _ _ _ _ => decide (scl.toNat ≤ 4)
  | .vaddrRI _ _ _ _ => true
  | .vbcastRR _ _ _ _ _ => true
  | .vbcastRI _ _ _ _ imm => laneImmOk imm
  | .v2sRR _ _ _ _ _ => true
  | .v2sRI _ _ _ _ imm => laneImmOk imm
  | .vshflRR _ _ _ _ _ _ => true
  | .vshflRI _ _ mode _ _ imm => laneImmOk imm && mode != 0
  | .vred _ _ _ _ _ => true
  | .pand _ _ _ _ => true
  | .por _ _ _ _ => true
  | .pxor _ _ _ _ => true
  | .pnot _ _ _ => true
  | .pmov _ _ _ => true
  | .pany _ _ _ => true
  | .pall _ _ _ => true
  | .pset _ _ _ => true
  | .bra _ _ => true
  | .brc _ _ _ mode _ => decide (mode.toNat ≤ 2)
  | .brd _ _ _ jlo jhi _ => joinOk jhi jlo
  | .join _ => true
  | .call _ _ _ => true
  | .ret _ _ => true
  | .loop _ _ _ => true
  | .exit _ => true
  | .vfadd _ ft rm _ _ _ => ftOk ft && rmOk rm
  | .vfsub _ ft rm _ _ _ => ftOk ft && rmOk rm
  | .vfmul _ ft rm _ _ _ => ftOk ft && rmOk rm
  | .vfma _ ft rm _ _ _ _ => ftOk ft && rmOk rm
  | .vfmin _ ft _ _ _ => ftOk ft
  | .vfmax _ ft _ _ _ => ftOk ft
  | .vfcmp _ _ _ _ _ => true
  | .vfabs _ ft _ _ => ftOk ft
  | .vfneg _ ft _ _ => ftOk ft
  | .vrcp _ _ _ => true
  | .vrsq _ _ _ => true
  | .vexp2 _ _ _ => true
  | .vlog2 _ _ _ => true
  | .cvt _ df sf rm sat ei _ _ => cvtOk df sf rm sat ei
  | .vpack _ df rm sat _ _ => vpackOk df rm sat
  | .vpackMx8 _ _ rm _ _ _ _ => decide (rm.toNat ≤ 4)
  | .vunpack _ df sf rm _ _ b => vunpackOk df sf rm b
  | .seedRR _ _ _ => true
  | .seedRI _ _ _ => true
  | .ldS _ _ ty _ _ => decide (ty.toNat ≤ 7)
  | .ldV _ _ ty _ _ => decide (ty.toNat ≤ 7)
  | .ldVb _ _ _ _ _ => true
  | .ldT _ _ _ _ _ _ => true
  | .ldLast _ _ ty _ _ => decide (ty.toNat ≤ 7)
  | .stS _ _ ty _ _ => decide (ty.toNat ≤ 7)
  | .stV _ _ ty _ _ => decide (ty.toNat ≤ 7)
  | .stVb _ _ _ _ _ => true
  | .stPair _ _ _ _ _ _ => true
  | .pref _ _ _ _ _ => true
  | .pin _ _ _ _ _ => true
  | .unpin _ _ _ _ _ => true
  | .wbr _ _ _ _ => true
  | .red _ _ ty sc op _ _ => decide (sc.toNat ≤ 5) && redOk ty op
  | .atom _ _ ty sc op _ _ _ => decide (sc.toNat ≤ 5) && atomOk ty op
  | .cas _ _ ty sc _ _ _ => decide (sc.toNat ≤ 5) && casTyOk ty
  | .arenaNew _ _ _ _ _ => true
  | .arenaAlloc _ _ _ _ _ _ => true
  | .arenaSeal _ _ => true
  | .arenaReset _ _ _ => true
  | .arenaDrop _ _ => true
  | .arenaQuota _ _ _ _ => true
  | .arenaInfo _ _ _ sel _ _ => decide (sel.toNat ≤ 7)
  | .waitc _ n _ => decide (n.toNat ≤ 11)
  | .waitcTest _ n _ _ => decide (n.toNat ≤ 11)
  | .bar _ _ n => decide (n.toNat ≤ 16)
  | .hdlInit _ _ _ _ => true
  | .hdlInitRelease _ _ _ _ => false
  | .hdlExpect _ _ _ _ => true
  | .hdlArrive _ _ _ _ => true
  | .hdlWait _ _ _ _ => true
  | .hdlTest _ _ _ _ _ => true
  | .watch _ _ _ _ _ => true
  | .waitw _ _ _ _ => true
  | .yield _ kind n k a b => yieldOk kind n k a b
  | .qbind _ fifo on _ => (on || fifo == 0)
  | .enq _ _ _ _ _ => true
  | .spawn _ _ _ _ _ => true
  | .viewDecl _ _ fmt op _ _ _ _ => reduceOk fmt.toNat op.toNat
  | .viewInfo _ sel _ _ => decide (sel.toNat ≤ 4)
  | .tend _ => true
  | .mw _ k _ _ => decide (1 ≤ k.toNat) && decide (k.toNat ≤ 256)
  | .mws _ k _ _ => decide (1 ≤ k.toNat) && decide (k.toNat ≤ 256)
  | .mswap _ => true
  | .ms _ _ _ _ _ => true
  | .mst _ _ _ _ _ => true
  | .mchain _ _ => true
  | .mq _ sel _ _ => decide (sel.toNat ≤ 2)
  | .cp _ _ _ _ _ _ => true
  | .cpG _ _ _ _ _ _ => true
  | .cpS _ _ _ _ _ _ => true
  | .cpRed _ _ _ fmt op _ _ _ => reduceOk fmt.toNat op.toNat
  | .cpwp _ _ _ => true
  | .collAr _ _ fmt op _ _ _ => reduceOk fmt.toNat op.toNat
  | .collAg _ _ _ _ _ => true
  | .collRs _ _ fmt op _ _ _ => reduceOk fmt.toNat op.toNat
  | .collBc _ _ _ _ _ => true
  | .netGet _ _ _ _ _ => true
  | .netPut _ _ _ _ _ => true
  | .netRead _ _ _ _ _ => true
  | .trap _ _ _ _ _ => true
  | .brk _ _ => true
  | .rft _ => true
  | .sysrd _ reg inst _ => sysRegOk reg.toNat inst.toNat
  | .syswr _ reg inst _ => sysRegOk reg.toNat inst.toNat
  | .tinv _ _ _ _ _ => true
  | .halt _ mask _ _ => mask != 0
  | .snap _ _ _ _ => true
  | .slotset _ _ _ _ => true
  | .accessPerform _ => false
  | .syncPushAck _ _ => false
  | .l1RenewalReply _ => false
  | .faultReply _ => false
  | .engineStart _ => false
  | .engineComplete _ => false
  | .hurdleTimeout _ _ => false
  | .waitwLimitExpiry _ _ => false
  | .haltWake _ => false
  | .watchdog _ => false
  | .ptsCreep _ => false
  | .yieldSave _ => false
  | .yieldResumeRecord _ => false
  | .tendPoint _ => false
  | .mergeComplete _ => false
  | .taskPlace _ => false
  | .batchTimerExpiry _ => false
  | .f0Refill _ => false
  | .lapStart => false
  | .scrubAndDropSweep _ => false
  | .lineEviction _ => false
  | .snapshotDrain _ => false
  | .frozenGranuleCopy _ => false
  | .migrationSlot => false
  | .telemetrySlot _ => false
  | .collAnnouncement _ => false
  | .collTimeLimit _ => false
  | .endpointTimeLimit _ => false
  | .transportFailure _ => false
  | .nvmeCompletion _ _ => false
  | .peerRemoteAccess _ _ _ _ _ => false
  | .hostCxlMemRead _ => false
  | .hostCxlMemWrite _ _ => false
  | .snpData _ => false
  | .snpInv _ => false
  | .snpCur _ => false
  | .nopPacket _ => false
  | .recordPacket _ => false
  | .nodeDef _ => false
  | .nodeDel _ => false
  | .commDef _ => false
  | .epDef _ => false
  | .vpool _ => false
  | .qcreate _ => false
  | .qdestroy _ => false
  | .getVersion => false
  | .getCapabilities => false
  | .negotiateAlgorithms => false
  | .getDigests => false
  | .getCertificate _ => false
  | .challenge _ => false
  | .getMeasurements _ => false
  | .unsupportedRequest _ => false
  | .aminv _ => false
  | .fqreplyResume _ => false
  | .fqreplyDecline _ => false
  | .migrate _ => false
  | .unmap _ => false
  | .icmsg _ => false
  | .hirq _ => false
  | .vacate _ => false
  | .crst _ => false
  | .l2hmWrite _ => false
  | .pwrstRequest _ => false
  | .clusterPowerStateReached _ => false
  | .herrRead _ => false
  | .icpendRead _ => false
  | .clampcRead _ => false
  | .srdropRead _ => false
  | .sysregWrite _ => false
  | .powerOnReset => false
  | .functionLevelReset => false
  | .linkDown => false
  | .powerClamp _ => false
  | .thermalTrip _ _ => false
  | .thermalResume _ _ => false
  | .linkUp => false
  | .backInvalidateAcknowledged _ _ => false
  | .cdatRequest => false
  | .asynchronousCompletion _ => false
  | .firmwareEndsTheTask _ => false
  | .groupRetrains _ => false

/-- Check 6 of Table 1.11: do the operand fields obey R19 and R20? -/
def opsOk : Instr → Bool
  | .nop _ => true
  | .saddRR _ _ d a b => uDst d && uSrc a && uSrc b
  | .saddRI _ _ d a _ => uDst d && uSrc a
  | .ssubRR _ _ d a b => uDst d && uSrc a && uSrc b
  | .ssubRI _ _ d a _ => uDst d && uSrc a
  | .smulRR _ _ d a b => uDst d && uSrc a && uSrc b
  | .smulRI _ _ d a _ => uDst d && uSrc a
  | .smulhRR _ _ d a b => uDst d && uSrc a && uSrc b
  | .smulhRI _ _ d a _ => uDst d && uSrc a
  | .sdivRR _ _ d a b => uDst d && uSrc a && uSrc b
  | .sdivRI _ _ d a _ => uDst d && uSrc a
  | .sandRR _ d a b => uDst d && uSrc a && uSrc b
  | .sandRI _ d a _ => uDst d && uSrc a
  | .sorRR _ d a b => uDst d && uSrc a && uSrc b
  | .sorRI _ d a _ => uDst d && uSrc a
  | .sxorRR _ d a b => uDst d && uSrc a && uSrc b
  | .sxorRI _ d a _ => uDst d && uSrc a
  | .snot _ d a => uDst d && uSrc a
  | .sshlRR _ _ d a b => uDst d && uSrc a && uSrc b
  | .sshlRI _ _ d a _ => uDst d && uSrc a
  | .sshrRR _ _ d a b => uDst d && uSrc a && uSrc b
  | .sshrRI _ _ d a _ => uDst d && uSrc a
  | .ssarRR _ _ d a b => uDst d && uSrc a && uSrc b
  | .ssarRI _ _ d a _ => uDst d && uSrc a
  | .sminRR _ _ d a b => uDst d && uSrc a && uSrc b
  | .sminRI _ _ d a _ => uDst d && uSrc a
  | .smaxRR _ _ d a b => uDst d && uSrc a && uSrc b
  | .smaxRI _ _ d a _ => uDst d && uSrc a
  | .smov _ d a => uDst d && uSrc a
  | .slil _ d _ => uDst d
  | .slih _ d a _ => uDst d && uSrc a
  | .ssel _ _ _ d a b => uDst d && uSrc a && uSrc b
  | .scmpRR _ _ _ d a b => predOk d && uSrc a && uSrc b
  | .scmpRI _ _ _ d a _ => predOk d && uSrc a
  | .vaddRR _ t d a b => vDstT t d && vSrcT t a && vSrcT t b
  | .vaddRI _ t d a _ => vDstT t d && vSrcT t a
  | .vsubRR _ t d a b => vDstT t d && vSrcT t a && vSrcT t b
  | .vsubRI _ t d a _ => vDstT t d && vSrcT t a
  | .vmulRR _ t d a b => vDstT t d && vSrcT t a && vSrcT t b
  | .vmulRI _ t d a _ => vDstT t d && vSrcT t a
  | .vmulhRR _ t d a b => vDstT t d && vSrcT t a && vSrcT t b
  | .vmulhRI _ t d a _ => vDstT t d && vSrcT t a
  | .vmad _ t d a b c => vDstT t d && vSrcT t a && vSrcT t b && vSrcT t c
  | .vandRR _ t d a b => vDstT t d && vSrcT t a && vSrcT t b
  | .vandRI _ t d a _ => vDstT t d && vSrcT t a
  | .vorRR _ t d a b => vDstT t d && vSrcT t a && vSrcT t b
  | .vorRI _ t d a _ => vDstT t d && vSrcT t a
  | .vxorRR _ t d a b => vDstT t d && vSrcT t a && vSrcT t b
  | .vxorRI _ t d a _ => vDstT t d && vSrcT t a
  | .vshlRR _ t d a b => vDstT t d && vSrcT t a && vSrcT t b
  | .vshlRI _ t d a _ => vDstT t d && vSrcT t a
  | .vshrRR _ t d a b => vDstT t d && vSrcT t a && vSrcT t b
  | .vshrRI _ t d a _ => vDstT t d && vSrcT t a
  | .vsarRR _ t d a b => vDstT t d && vSrcT t a && vSrcT t b
  | .vsarRI _ t d a _ => vDstT t d && vSrcT t a
  | .vminRR _ t d a b => vDstT t d && vSrcT t a && vSrcT t b
  | .vminRI _ t d a _ => vDstT t d && vSrcT t a
  | .vmaxRR _ t d a b => vDstT t d && vSrcT t a && vSrcT t b
  | .vmaxRI _ t d a _ => vDstT t d && vSrcT t a
  | .vabs _ t d a => vDstT t d && vSrcT t a
  | .vcmpRR _ t _ d a b => predOk d && vSrcT t a && vSrcT t b
  | .vcmpRI _ t _ d a _ => predOk d && vSrcT t a
  | .vsel _ t _ _ d a b => vDstT t d && vSrcT t a && vSrcT t b
  | .vpopc _ t d a => vDst d && vSrcT t a
  | .vclz _ t d a => vDst d && vSrcT t a
  | .vbfeRR _ t d a b => vDstT t d && vSrcT t a && vSrcT t b
  | .vbfeRI _ t d a _ => vDstT t d && vSrcT t a
  | .vbfiRR _ t d a b c => vDstT t d && vSrcT t a && vSrcT t b && vSrcT t c
  | .vbfiRI _ t d a _ => vDstT t d && vSrcT t a
  | .vmov _ t d a => vDstT t d && vSrcT t a
  | .vli _ t d _ => vDstT t d
  | .vaddrRR _ _ _ d a _ => vDst64 d && addrSrc a
  | .vaddrRI _ d a _ => vDst64 d && addrSrc a
  | .vbcastRR _ t d a b => vDstT t d && vSrcT t a && uSrc b
  | .vbcastRI _ t d a _ => vDstT t d && vSrcT t a
  | .v2sRR _ t d a b => uDst d && vSrcT t a && uSrc b
  | .v2sRI _ t d a _ => uDst d && vSrcT t a
  | .vshflRR _ t mode d a b => vDstT t d && vSrcT t a && (if mode = 0 then vSrcT t b else uSrc b)
  | .vshflRI _ t _ d a _ => vDstT t d && vSrcT t a
  | .vred _ t _ d a => uDst d && vSrcT t a
  | .pand _ d a b => predOk d && predOk a && predOk b
  | .por _ d a b => predOk d && predOk a && predOk b
  | .pxor _ d a b => predOk d && predOk a && predOk b
  | .pnot _ d a => predOk d && predOk a
  | .pmov _ d a => predOk d && predOk a
  | .pany _ d a => predOk d && predOk a
  | .pall _ d a => predOk d && predOk a
  | .pset _ d a => predOk d && uSrc a
  | .bra _ _ => true
  | .brc _ _ _ _ _ => true
  | .brd _ _ _ _ _ _ => true
  | .join _ => true
  | .call _ d _ => uDst d
  | .ret _ a => uSrc a
  | .loop _ d _ => uDst d
  | .exit _ => true
  | .vfadd _ _ _ d _ _ => vDst d
  | .vfsub _ _ _ d _ _ => vDst d
  | .vfmul _ _ _ d _ _ => vDst d
  | .vfma _ _ _ d _ _ _ => vDst d
  | .vfmin _ _ d _ _ => vDst d
  | .vfmax _ _ d _ _ => vDst d
  | .vfcmp _ _ d _ _ => predOk d
  | .vfabs _ _ d _ => vDst d
  | .vfneg _ _ d _ => vDst d
  | .vrcp _ d _ => vDst d
  | .vrsq _ d _ => vDst d
  | .vexp2 _ d _ => vDst d
  | .vlog2 _ d _ => vDst d
  | .cvt _ df sf _ _ _ d a => cvtOps df sf d a
  | .vpack _ df _ _ d a => vDst d && vGroup (32 / fmtWidth df.toNat) a
  | .vpackMx8 _ mx4 _ d a b c => vDst d && vGroup (if mx4 then 8 else 4) a && pairSZ b && uSrc c
  | .vunpack _ _ sf _ d a b => vunpackOps sf d a b
  | .seedRR _ d a => uDst d && uSrc a
  | .seedRI _ d _ => uDst d
  | .ldS _ _ ty d a => uSrc a && sData ty d
  | .ldV _ _ ty d a => addrSrc a && vLoadD ty d
  | .ldVb _ _ cnt d a => uSrc a && vGroupQ cnt d
  | .ldT _ _ cnt d a b => uSrc a && uSrc b && vGroupQ cnt d
  | .ldLast _ _ ty d a => addrSrc a && vLoadD ty d
  | .stS _ _ ty d a => uSrc a && sStore ty d
  | .stV _ _ ty d a => addrSrc a && vStoreD ty d
  | .stVb _ _ cnt d a => uSrc a && vGroupSrc cnt d
  | .stPair _ _ cnt d a b => uSrc a && pairS b && vGroupSrc cnt d
  | .pref _ _ _ a b => uSrc a && uSrc b
  | .pin _ _ d a b => uDst d && uSrc a && uSrc b
  | .unpin _ _ d a b => uDst d && uSrc a && uSrc b
  | .wbr _ _ a b => uSrc a && uSrc b
  | .red _ _ ty _ _ d a => addrSrc a && atomData a ty d
  | .atom _ _ ty _ _ d a b => addrSrc a && atomDst a ty d && atomData a ty b
  | .cas _ _ ty _ d a b => addrSrc a && atomDst a ty d && casGroup a ty b
  | .arenaNew _ _ d a b => pairS d && uSrc a && pairS b
  | .arenaAlloc _ _ _ d a b => uDst d && uSrc a && uSrc b
  | .arenaSeal _ a => uSrc a
  | .arenaReset _ d a => uDst d && uSrc a
  | .arenaDrop _ a => uSrc a
  | .arenaQuota _ d a b => uDst d && uSrc a && uSrc b
  | .arenaInfo _ _ _ _ d a => uDst d && uSrc a
  | .waitc _ _ _ => true
  | .waitcTest _ _ _ d => predOk d
  | .bar _ _ _ => true
  | .hdlInit _ _ a b => uSrc a && uSrc b
  | .hdlInitRelease _ _ a b => uSrc a && uSrc b
  | .hdlExpect _ _ a b => uSrc a && uSrc b
  | .hdlArrive _ _ a b => uSrc a && uSrc b
  | .hdlWait _ _ a b => uSrc a && uSrc b
  | .hdlTest _ _ d a b => predOk d && uSrc a && uSrc b
  | .watch _ _ _ d a => uDst d && uSrc a
  | .waitw _ _ _ d => uDst d
  | .yield _ kind _ _ a b => kind != 2 || (uSrc a && uSrc b)
  | .qbind _ _ _ d => queueOk d
  | .enq _ _ d a b => uDst d && uSrc a && uSrc b
  | .spawn _ _ d a b => uDst d && uSrc a && uSrc b
  | .viewDecl _ _ _ _ _ d a b => uDst d && uSrc a && uSrc b
  | .viewInfo _ _ d a => uDst d && uSrc a
  | .tend _ => true
  | .mw _ _ a b => pairS a && pairSZ b
  | .mws _ _ a b => pairS a && pairSZ b
  | .mswap _ => true
  | .ms _ _ d a b => pairS d && pairS a && pairSZ b
  | .mst _ _ d a b => pairS d && pairS a && pairSZ b
  | .mchain _ _ => true
  | .mq _ _ _ d => uDst d
  | .cp _ _ _ d a b => pairS d && pairS a && uSrc b
  | .cpG _ _ _ d a b => pairS d && pairS a && uSrc b
  | .cpS _ _ _ d a b => pairS d && pairS a && uSrc b
  | .cpRed _ _ _ _ _ d a b => pairS d && pairS a && uSrc b
  | .cpwp _ _ d => uDst d
  | .collAr _ _ _ _ d a b => pairS d && pairS a && uSrc b
  | .collAg _ _ d a b => pairS d && pairS a && uSrc b
  | .collRs _ _ _ _ d a b => pairS d && pairS a && uSrc b
  | .collBc _ _ d a b => pairS d && pairS a && uSrc b
  | .netGet _ _ d a b => pairS d && pairS a && uSrc b
  | .netPut _ _ d a b => pairS d && pairS a && uSrc b
  | .netRead _ _ d a b => pairS d && pairS a && uSrc b
  | .trap _ _ d a b => uDst d && uSrc a && uSrc b
  | .brk _ _ => true
  | .rft _ => true
  | .sysrd _ _ _ d => uDst d
  | .syswr _ _ _ a => uSrc a
  | .tinv _ _ _ a b => uSrc a && uSrc b
  | .halt _ _ _ d => uDst d
  | .snap _ d a b => uDst d && uSrc a && uSrc b
  | .slotset _ _ d a => uDst d && uSrc a
  | .accessPerform _ => false
  | .syncPushAck _ _ => false
  | .l1RenewalReply _ => false
  | .faultReply _ => false
  | .engineStart _ => false
  | .engineComplete _ => false
  | .hurdleTimeout _ _ => false
  | .waitwLimitExpiry _ _ => false
  | .haltWake _ => false
  | .watchdog _ => false
  | .ptsCreep _ => false
  | .yieldSave _ => false
  | .yieldResumeRecord _ => false
  | .tendPoint _ => false
  | .mergeComplete _ => false
  | .taskPlace _ => false
  | .batchTimerExpiry _ => false
  | .f0Refill _ => false
  | .lapStart => false
  | .scrubAndDropSweep _ => false
  | .lineEviction _ => false
  | .snapshotDrain _ => false
  | .frozenGranuleCopy _ => false
  | .migrationSlot => false
  | .telemetrySlot _ => false
  | .collAnnouncement _ => false
  | .collTimeLimit _ => false
  | .endpointTimeLimit _ => false
  | .transportFailure _ => false
  | .nvmeCompletion _ _ => false
  | .peerRemoteAccess _ _ _ _ _ => false
  | .hostCxlMemRead _ => false
  | .hostCxlMemWrite _ _ => false
  | .snpData _ => false
  | .snpInv _ => false
  | .snpCur _ => false
  | .nopPacket _ => false
  | .recordPacket _ => false
  | .nodeDef _ => false
  | .nodeDel _ => false
  | .commDef _ => false
  | .epDef _ => false
  | .vpool _ => false
  | .qcreate _ => false
  | .qdestroy _ => false
  | .getVersion => false
  | .getCapabilities => false
  | .negotiateAlgorithms => false
  | .getDigests => false
  | .getCertificate _ => false
  | .challenge _ => false
  | .getMeasurements _ => false
  | .unsupportedRequest _ => false
  | .aminv _ => false
  | .fqreplyResume _ => false
  | .fqreplyDecline _ => false
  | .migrate _ => false
  | .unmap _ => false
  | .icmsg _ => false
  | .hirq _ => false
  | .vacate _ => false
  | .crst _ => false
  | .l2hmWrite _ => false
  | .pwrstRequest _ => false
  | .clusterPowerStateReached _ => false
  | .herrRead _ => false
  | .icpendRead _ => false
  | .clampcRead _ => false
  | .srdropRead _ => false
  | .sysregWrite _ => false
  | .powerOnReset => false
  | .functionLevelReset => false
  | .linkDown => false
  | .powerClamp _ => false
  | .thermalTrip _ _ => false
  | .thermalResume _ _ => false
  | .linkUp => false
  | .backInvalidateAcknowledged _ _ => false
  | .cdatRequest => false
  | .asynchronousCompletion _ => false
  | .firmwareEndsTheTask _ => false
  | .groupRetrains _ => false

/-- The scheduling fields of an instruction; none for an event. -/
def schedOf : Instr → Option Sched
  | .nop f => some f
  | .saddRR f _ _ _ _ => some f
  | .saddRI f _ _ _ _ => some f
  | .ssubRR f _ _ _ _ => some f
  | .ssubRI f _ _ _ _ => some f
  | .smulRR f _ _ _ _ => some f
  | .smulRI f _ _ _ _ => some f
  | .smulhRR f _ _ _ _ => some f
  | .smulhRI f _ _ _ _ => some f
  | .sdivRR f _ _ _ _ => some f
  | .sdivRI f _ _ _ _ => some f
  | .sandRR f _ _ _ => some f
  | .sandRI f _ _ _ => some f
  | .sorRR f _ _ _ => some f
  | .sorRI f _ _ _ => some f
  | .sxorRR f _ _ _ => some f
  | .sxorRI f _ _ _ => some f
  | .snot f _ _ => some f
  | .sshlRR f _ _ _ _ => some f
  | .sshlRI f _ _ _ _ => some f
  | .sshrRR f _ _ _ _ => some f
  | .sshrRI f _ _ _ _ => some f
  | .ssarRR f _ _ _ _ => some f
  | .ssarRI f _ _ _ _ => some f
  | .sminRR f _ _ _ _ => some f
  | .sminRI f _ _ _ _ => some f
  | .smaxRR f _ _ _ _ => some f
  | .smaxRI f _ _ _ _ => some f
  | .smov f _ _ => some f
  | .slil f _ _ => some f
  | .slih f _ _ _ => some f
  | .ssel f _ _ _ _ _ => some f
  | .scmpRR f _ _ _ _ _ => some f
  | .scmpRI f _ _ _ _ _ => some f
  | .vaddRR f _ _ _ _ => some f
  | .vaddRI f _ _ _ _ => some f
  | .vsubRR f _ _ _ _ => some f
  | .vsubRI f _ _ _ _ => some f
  | .vmulRR f _ _ _ _ => some f
  | .vmulRI f _ _ _ _ => some f
  | .vmulhRR f _ _ _ _ => some f
  | .vmulhRI f _ _ _ _ => some f
  | .vmad f _ _ _ _ _ => some f
  | .vandRR f _ _ _ _ => some f
  | .vandRI f _ _ _ _ => some f
  | .vorRR f _ _ _ _ => some f
  | .vorRI f _ _ _ _ => some f
  | .vxorRR f _ _ _ _ => some f
  | .vxorRI f _ _ _ _ => some f
  | .vshlRR f _ _ _ _ => some f
  | .vshlRI f _ _ _ _ => some f
  | .vshrRR f _ _ _ _ => some f
  | .vshrRI f _ _ _ _ => some f
  | .vsarRR f _ _ _ _ => some f
  | .vsarRI f _ _ _ _ => some f
  | .vminRR f _ _ _ _ => some f
  | .vminRI f _ _ _ _ => some f
  | .vmaxRR f _ _ _ _ => some f
  | .vmaxRI f _ _ _ _ => some f
  | .vabs f _ _ _ => some f
  | .vcmpRR f _ _ _ _ _ => some f
  | .vcmpRI f _ _ _ _ _ => some f
  | .vsel f _ _ _ _ _ _ => some f
  | .vpopc f _ _ _ => some f
  | .vclz f _ _ _ => some f
  | .vbfeRR f _ _ _ _ => some f
  | .vbfeRI f _ _ _ _ => some f
  | .vbfiRR f _ _ _ _ _ => some f
  | .vbfiRI f _ _ _ _ => some f
  | .vmov f _ _ _ => some f
  | .vli f _ _ _ => some f
  | .vaddrRR f _ _ _ _ _ => some f
  | .vaddrRI f _ _ _ => some f
  | .vbcastRR f _ _ _ _ => some f
  | .vbcastRI f _ _ _ _ => some f
  | .v2sRR f _ _ _ _ => some f
  | .v2sRI f _ _ _ _ => some f
  | .vshflRR f _ _ _ _ _ => some f
  | .vshflRI f _ _ _ _ _ => some f
  | .vred f _ _ _ _ => some f
  | .pand f _ _ _ => some f
  | .por f _ _ _ => some f
  | .pxor f _ _ _ => some f
  | .pnot f _ _ => some f
  | .pmov f _ _ => some f
  | .pany f _ _ => some f
  | .pall f _ _ => some f
  | .pset f _ _ => some f
  | .bra f _ => some f
  | .brc f _ _ _ _ => some f
  | .brd f _ _ _ _ _ => some f
  | .join f => some f
  | .call f _ _ => some f
  | .ret f _ => some f
  | .loop f _ _ => some f
  | .exit f => some f
  | .vfadd f _ _ _ _ _ => some f
  | .vfsub f _ _ _ _ _ => some f
  | .vfmul f _ _ _ _ _ => some f
  | .vfma f _ _ _ _ _ _ => some f
  | .vfmin f _ _ _ _ => some f
  | .vfmax f _ _ _ _ => some f
  | .vfcmp f _ _ _ _ => some f
  | .vfabs f _ _ _ => some f
  | .vfneg f _ _ _ => some f
  | .vrcp f _ _ => some f
  | .vrsq f _ _ => some f
  | .vexp2 f _ _ => some f
  | .vlog2 f _ _ => some f
  | .cvt f _ _ _ _ _ _ _ => some f
  | .vpack f _ _ _ _ _ => some f
  | .vpackMx8 f _ _ _ _ _ _ => some f
  | .vunpack f _ _ _ _ _ _ => some f
  | .seedRR f _ _ => some f
  | .seedRI f _ _ => some f
  | .ldS f _ _ _ _ => some f
  | .ldV f _ _ _ _ => some f
  | .ldVb f _ _ _ _ => some f
  | .ldT f _ _ _ _ _ => some f
  | .ldLast f _ _ _ _ => some f
  | .stS f _ _ _ _ => some f
  | .stV f _ _ _ _ => some f
  | .stVb f _ _ _ _ => some f
  | .stPair f _ _ _ _ _ => some f
  | .pref f _ _ _ _ => some f
  | .pin f _ _ _ _ => some f
  | .unpin f _ _ _ _ => some f
  | .wbr f _ _ _ => some f
  | .red f _ _ _ _ _ _ => some f
  | .atom f _ _ _ _ _ _ _ => some f
  | .cas f _ _ _ _ _ _ => some f
  | .arenaNew f _ _ _ _ => some f
  | .arenaAlloc f _ _ _ _ _ => some f
  | .arenaSeal f _ => some f
  | .arenaReset f _ _ => some f
  | .arenaDrop f _ => some f
  | .arenaQuota f _ _ _ => some f
  | .arenaInfo f _ _ _ _ _ => some f
  | .waitc f _ _ => some f
  | .waitcTest f _ _ _ => some f
  | .bar f _ _ => some f
  | .hdlInit f _ _ _ => some f
  | .hdlInitRelease f _ _ _ => some f
  | .hdlExpect f _ _ _ => some f
  | .hdlArrive f _ _ _ => some f
  | .hdlWait f _ _ _ => some f
  | .hdlTest f _ _ _ _ => some f
  | .watch f _ _ _ _ => some f
  | .waitw f _ _ _ => some f
  | .yield f _ _ _ _ _ => some f
  | .qbind f _ _ _ => some f
  | .enq f _ _ _ _ => some f
  | .spawn f _ _ _ _ => some f
  | .viewDecl f _ _ _ _ _ _ _ => some f
  | .viewInfo f _ _ _ => some f
  | .tend f => some f
  | .mw f _ _ _ => some f
  | .mws f _ _ _ => some f
  | .mswap f => some f
  | .ms f _ _ _ _ => some f
  | .mst f _ _ _ _ => some f
  | .mchain f _ => some f
  | .mq f _ _ _ => some f
  | .cp f _ _ _ _ _ => some f
  | .cpG f _ _ _ _ _ => some f
  | .cpS f _ _ _ _ _ => some f
  | .cpRed f _ _ _ _ _ _ _ => some f
  | .cpwp f _ _ => some f
  | .collAr f _ _ _ _ _ _ => some f
  | .collAg f _ _ _ _ => some f
  | .collRs f _ _ _ _ _ _ => some f
  | .collBc f _ _ _ _ => some f
  | .netGet f _ _ _ _ => some f
  | .netPut f _ _ _ _ => some f
  | .netRead f _ _ _ _ => some f
  | .trap f _ _ _ _ => some f
  | .brk f _ => some f
  | .rft f => some f
  | .sysrd f _ _ _ => some f
  | .syswr f _ _ _ => some f
  | .tinv f _ _ _ _ => some f
  | .halt f _ _ _ => some f
  | .snap f _ _ _ => some f
  | .slotset f _ _ _ => some f
  | .accessPerform _ => none
  | .syncPushAck _ _ => none
  | .l1RenewalReply _ => none
  | .faultReply _ => none
  | .engineStart _ => none
  | .engineComplete _ => none
  | .hurdleTimeout _ _ => none
  | .waitwLimitExpiry _ _ => none
  | .haltWake _ => none
  | .watchdog _ => none
  | .ptsCreep _ => none
  | .yieldSave _ => none
  | .yieldResumeRecord _ => none
  | .tendPoint _ => none
  | .mergeComplete _ => none
  | .taskPlace _ => none
  | .batchTimerExpiry _ => none
  | .f0Refill _ => none
  | .lapStart => none
  | .scrubAndDropSweep _ => none
  | .lineEviction _ => none
  | .snapshotDrain _ => none
  | .frozenGranuleCopy _ => none
  | .migrationSlot => none
  | .telemetrySlot _ => none
  | .collAnnouncement _ => none
  | .collTimeLimit _ => none
  | .endpointTimeLimit _ => none
  | .transportFailure _ => none
  | .nvmeCompletion _ _ => none
  | .peerRemoteAccess _ _ _ _ _ => none
  | .hostCxlMemRead _ => none
  | .hostCxlMemWrite _ _ => none
  | .snpData _ => none
  | .snpInv _ => none
  | .snpCur _ => none
  | .nopPacket _ => none
  | .recordPacket _ => none
  | .nodeDef _ => none
  | .nodeDel _ => none
  | .commDef _ => none
  | .epDef _ => none
  | .vpool _ => none
  | .qcreate _ => none
  | .qdestroy _ => none
  | .getVersion => none
  | .getCapabilities => none
  | .negotiateAlgorithms => none
  | .getDigests => none
  | .getCertificate _ => none
  | .challenge _ => none
  | .getMeasurements _ => none
  | .unsupportedRequest _ => none
  | .aminv _ => none
  | .fqreplyResume _ => none
  | .fqreplyDecline _ => none
  | .migrate _ => none
  | .unmap _ => none
  | .icmsg _ => none
  | .hirq _ => none
  | .vacate _ => none
  | .crst _ => none
  | .l2hmWrite _ => none
  | .pwrstRequest _ => none
  | .clusterPowerStateReached _ => none
  | .herrRead _ => none
  | .icpendRead _ => none
  | .clampcRead _ => none
  | .srdropRead _ => none
  | .sysregWrite _ => none
  | .powerOnReset => none
  | .functionLevelReset => none
  | .linkDown => none
  | .powerClamp _ => none
  | .thermalTrip _ _ => none
  | .thermalResume _ _ => none
  | .linkUp => none
  | .backInvalidateAcknowledged _ _ => none
  | .cdatRequest => none
  | .asynchronousCompletion _ => none
  | .firmwareEndsTheTask _ => none
  | .groupRetrains _ => none

/-- R25, Table 3.7: must the form carry GUARD = 0b0111? -/
def mustBeUnguarded : Instr → Bool
  | .brd _ _ _ _ _ _ => true
  | .join _ => true
  | .call _ _ _ => true
  | .ret _ _ => true
  | .loop _ _ _ => true
  | .yield _ _ _ _ _ _ => true
  | .tend _ => true
  | _ => false

end Sys2Proof.Machine
end

