-- ==== Sys2Proof/Machine/Tbl.lean ====
section
/-! DEFINITION. Sparse tables: lists of key and value with strictly rising keys. A table with a default value lists
no entry equal to the default, so that equal contents are equal data. -/
namespace Sys2Proof.Machine

/-- A sparse table. -/
abbrev Tbl (α : Type) := List (Nat × α)

/-- The entry at a key. -/
def kget {α : Type} : Tbl α → Nat → Option α
  | [], _ => none
  | (k, v) :: t, j => if j = k then some v else kget t j

/-- The table with an entry put at a key. -/
def kset {α : Type} : Tbl α → Nat → α → Tbl α
  | [], j, x => [(j, x)]
  | (k, v) :: t, j, x => if j = k then (j, x) :: t else if j < k then (j, x) :: (k, v) :: t else (k, v) :: kset t j x

/-- The table without a key. -/
def kdel {α : Type} (t : Tbl α) (j : Nat) : Tbl α := t.filter fun e => decide (e.1 ≠ j)

/-- The value at a key of a table with a default. -/
def dget {α : Type} (dflt : α) (t : Tbl α) (j : Nat) : α := (kget t j).getD dflt

/-- The table with a default, with a value put at a key. -/
def dset {α : Type} [DecidableEq α] (dflt : α) (t : Tbl α) (j : Nat) (x : α) : Tbl α :=
  if x = dflt then kdel t j else kset t j x

/-- Strictly rising keys. -/
def sortedKeys {α : Type} : Tbl α → Bool
  | [] => true
  | [_] => true
  | (k, _) :: (k', v') :: t => decide (k < k') && sortedKeys ((k', v') :: t)

/-- The canonical form of a table with a default: rising keys, and no entry equal to the default. -/
def canonical {α : Type} [DecidableEq α] (dflt : α) (t : Tbl α) : Bool :=
  sortedKeys t && t.all (fun e => decide (e.2 ≠ dflt))

/-- Change the entry at a key, if there is one. -/
def kmod {α : Type} (t : Tbl α) (j : Nat) (g : α → α) : Tbl α :=
  match kget t j with
  | some x => kset t j (g x)
  | none => t

end Sys2Proof.Machine
end

