-- ==== Sys2Proof/Machine/State.lean ====
section
/-! DEFINITION. The state of the machine as plain data, and the state after reset. INVENTORY.md lists each piece
with the rule that names it. Vector registers are tables keyed 32 × register + lane, scalar registers and
predicates tables keyed by number, with default zero (Table 1.5). -/
namespace Sys2Proof.Machine

/-- Why a step can stop. -/
inductive Fault where
  /-- Raised by an instruction's meaning when no live wave stands at its turn: only a state that no step makes
  asks for it. Safe: the hardware has no such state. -/
  | noTurn
  deriving DecidableEq, Repr

/-- An instruction with no meaning. -/
inductive Refusal where
  /-- Raised by Dispatch for a constructor without a meaning yet. Safe: the machine stops where the hardware goes on. -/
  | notModelled (mnemonic : String)
  deriving DecidableEq, Repr

/-! ### Per-wave state (Table 1.5) -/

/-- What a path waits for, with the number of the instruction that holds it and, where it can trap, its active lanes. A
limit is a count of cc from the path's `since`. A held path's PC stands after the instruction that holds it. -/
inductive Hold where
  | none
  /-- R122: until counter n holds at most k; with a predicate, the TEST form. -/
  | waitc (uid n k : Nat) (dst : Option Reg) (mask : BitVec 32)
  /-- R124: until the barrier's phase leaves this one. -/
  | bar (uid b phase : Nat)
  /-- R128: until the hurdle's phase differs from the parity; `ready` once the first read has performed. -/
  | hdlWait (uid va : Nat) (parity ready : Bool) (limit : Option Nat) (mask : BitVec 32)
  /-- R130: until a watch of the mask is ready or the limit has passed. -/
  | waitw (uid : Nat) (mask : BitVec 4) (limit : Option Nat) (d : Reg)
  /-- R180: HALT, until an event of the mask holds. -/
  | halt (uid : Nat) (mask : BitVec 4) (limit : Option Nat) (d : Reg)
  /-- R134: YIELD by KIND, counter n and bound k, hurdle address and parity. -/
  | yield (uid kind n k va : Nat) (parity : Bool)
  /-- R139. -/
  | tend (uid : Nat)
  deriving DecidableEq, Repr

/-- A path: PCA or PCB (Table 1.5, R76), with the cc of its last issue (R26), and the cc from which the limit of its hold
counts: that issue, or a resume since (R202). -/
structure Path where
  live : Bool
  pc : Addr
  mask : BitVec 32
  join : Option Addr
  last : Nat
  hold : Hold
  since : Nat := last
  deriving DecidableEq, Repr

/-- A divergence record (R76). -/
inductive DivRec where
  | path (p : Path)
  | frame (jc : Addr) (outer : Addr)
  deriving DecidableEq, Repr

/-- An outstanding increment of a completion counter (R28), with the error its completion carries (R144),
and for a fixed-latency instruction the cc by which its result is written (R28). -/
structure Token where
  uid : Nat
  done : Bool
  err : Nat
  info : Nat
  pts : Nat
  due : Option Nat
  deriving DecidableEq, Repr

/-- A completion counter: outstanding increments in issue order, the error bit with its reason and INFO (R144), and
the largest engine time among its completions (R237). -/
structure Ctr where
  toks : List Token
  err : Bool
  reason : Nat
  info : Nat
  ept : Nat
  deriving DecidableEq, Repr

/-- A watch slot (R129). -/
structure Watch where
  armed : Bool
  fired : Bool
  line : Nat
  deriving DecidableEq, Repr

/-- An old value kept for a rewind (R219), with what was poisoned of it (R337). -/
inductive Undo where
  | v (reg : Nat) (old : List (BitVec 32)) (bad : List Nat)
  | s (key : Nat) (old : BitVec 64) (bad : List Nat)
  | p (key : Nat) (old : BitVec 32) (bad : List Nat)
  | lfsr (old : BitVec 64)
  | ctl (pca pcb : Path) (stack : List DivRec)
  deriving DecidableEq, Repr

/-- A fixed-latency result whose latency has not passed (R29): the register (256 + n for Pn), its old contents (one
value per lane, or one), and what is left of the latency. -/
structure Late where
  uid : Nat
  reg : Nat
  old : List (BitVec 64)
  rem : Nat
  deriving DecidableEq, Repr

/-- One byte range of an access (R99 to R102): lane, register index, address, length, the window key and generation
that its core saw (R217), and its data. -/
structure Req where
  lane : Nat
  idx : Nat
  va : Nat
  len : Nat
  win : Nat
  gen : Nat
  dat : BitVec 128
  alt : BitVec 128
  deriving DecidableEq, Repr

/-- What an access does where it performs. -/
inductive AccOp where
  /-- Loads into S registers: destination, sign extension, LD.LAST never. -/
  | loadS (d : Reg) (sgn : Bool)
  /-- Loads into lanes: destination, bytes of an element, sign extension, LD.LAST. -/
  | loadV (d : Reg) (bytes : Nat) (sgn last : Bool)
  | store
  | red (ty op sc : Nat)
  | atom (ty op sc : Nat) (d : Reg) (scalar : Bool)
  | cas (ty sc : Nat) (d : Reg) (scalar : Bool)
  | pin (d : Reg) (len : Nat)
  | unpin (d : Reg) (len : Nat)
  | wbr (len : Nat)
  | arenaNew (pn : Nat) (d : Reg) (h size attr : BitVec 64)
  | arenaAlloc (pn aln : Nat) (d : Reg) (h size : BitVec 64)
  | arenaSeal (h : BitVec 64)
  | arenaReset (d : Reg) (h : BitVec 64)
  | arenaDrop (h : BitVec 64)
  | arenaQuota (d : Reg) (h q : BitVec 64)
  | arenaInfo (sel pn : Nat) (d : Reg) (va : BitVec 64)
  /-- `took` says that it took a tracker entry at its issue (R190). -/
  | hdlInit (b : BitVec 64) (took : Bool)
  | hdlExpect (b : BitVec 64)
  | hdlArrive (b : BitVec 64)
  | hdlWait (parity : Bool)
  | hdlTest (d : Reg) (parity : Bool)
  | watch (n : Nat) (d : Reg)
  /-- `ea` is the record's address. -/
  | enq (spawn : Bool) (d : Reg) (node : BitVec 64) (ea : Nat)
  | viewDecl (fmt op pn : Nat) (d : Reg) (size : BitVec 64)
  | viewInfo (sel : Nat) (d : Reg) (n : BitVec 64)
  | cpwp (ch : Nat) (d : Reg)
  | sysrd (reg inst : Nat) (d : Reg)
  | syswr (reg inst : Nat) (val : BitVec 64)
  | tinv (ctx : Nat) (all : Bool) (a b : BitVec 64)
  | snap (d : Reg) (a b : BitVec 64)
  | slotset (d : Reg) (g : Nat) (codes : BitVec 64)
  deriving DecidableEq, Repr

/-- A deferred fault on its way back to its issuer (R220, R307). -/
structure Reply where
  code : Nat
  va : Nat
  mask : BitVec 32
  info : Nat
  deriving DecidableEq, Repr

/-- An access issued and not performed: an entry of the in-flight access table, and for stores of the late-fault
store buffer (Table 1.6). `uni` marks a uniform instruction, `ctl` holds both paths and the divergence records as they
stood after it issued (R81, R220), `second` holds the transposed half of ST.PAIR until the plain half has performed (R105),
`got` the data of a load's finished lanes (R121), `wait` that the access is held at its coherence point (R121, R246,
R310, R323), `acks` the clusters whose acknowledgement of a SYNC push is outstanding, and those that gave it
(R234), and `fifo` the FIFO that its destination port was bound to at its issue (R133). -/
structure Acc where
  uid : Nat
  nth : Nat
  pc : Addr
  pcb : Bool
  mask : BitVec 32
  uni : Bool
  ctl : Path × Path × List DivRec
  half : Nat
  op : AccOp
  reqs : List Req
  second : List Req
  got : List (Nat × BitVec 128)
  reply : Option Reply
  wait : Bool
  acks : Option (List Nat × List Nat)
  fifo : Option Nat
  deriving DecidableEq, Repr

/-- What a trap reports (Table 8.7): code, detail or reason, counter, failing lanes, address, INFO and HALF. -/
structure Trap where
  code : Nat
  detail : Nat
  ctr : Nat
  mask : BitVec 32
  va : Nat
  info : Nat
  half : Nat
  deriving DecidableEq, Repr

/-- A park record (Table 1.5, R196): what the wave is parked on, the words of its record (Table 8.7), and which record of the
fault queue awaits an answer. -/
structure Park where
  uid : Nat
  code : Nat
  va : Nat
  mask : BitVec 32
  pcb : Bool
  service : Option Reg
  info : Nat
  words : List (BitVec 64)
  die : Nat
  frec : Nat
  deriving DecidableEq, Repr

/-- R188. -/
inductive Role where
  | vector
  | copy
  | matrix
  deriving DecidableEq, Repr

/-- The state of a context slot that holds a wave (Table 1.5), or of a control core's wave (R37). `trap` is its report to a
halt, and `spill` the place in `stack` of the path that trapped, where that path has been spilled (R77, R185). `rested` says that it has
issued nothing since its launch or resume, so that no STALL distance stands (R26, R202). `bad` lists what is poisoned of its registers
(R337): lane l of Vr as 32r + l, the S register of field r as 8192 + r, Pn as 8448 + n. -/
structure Wave where
  v : Tbl (BitVec 32)
  s : Tbl (BitVec 64)
  p : Tbl (BitVec 32)
  ctrs : Tbl Ctr
  pca : Path
  pcb : Path
  stack : List DivRec
  lfsr : BitVec 64
  pts : Nat
  issued : Nat
  undo : List (Nat × Undo)
  late : List Late
  pend : List Acc
  park : Option Park
  watches : Tbl Watch
  lastIssue : Nat
  rested : Bool
  age : Nat
  eligible : Nat
  lastPcb : Bool
  ended : Bool
  skid : Nat
  stopped : Bool
  trap : Option Trap
  spill : Option Nat
  super : Bool
  role : Role
  array : Option Nat
  core : Nat
  slot : Nat
  index : Nat
  block : Nat
  ctx : Nat
  bad : List Nat
  deriving DecidableEq, Repr

/-! ### Blocks and cores (Table 1.6) -/

/-- A block barrier (R123). -/
structure Barrier where
  phase : Nat
  arrivals : Nat
  n : Nat
  deriving DecidableEq, Repr

/-- A view of a task (R136, R258). -/
structure View where
  base : Nat
  size : Nat
  fmt : Nat
  op : Nat
  inherited : Bool
  buf : Nat
  bufWin : Nat
  cursor : Nat
  declarer : Nat
  num : Nat
  deriving DecidableEq, Repr

/-- A block (R187 to R191). `mpush` holds the pushes of port M in the cc under way, which stand behind those of ports S and V in
it (R133). `primary` is the wave that trapped first, until a fault of the drain takes its report (R197); `haltClk`, `haltForm`
and `haltDraw` keep the clock, the trap mode and the draw counter at the halt request (R184, R318; assumption 14). `bark` says that a
counted cc has found the watchdog's count at its limit (R198). `away` marks a block that YIELD or a vacate has saved: it holds no core (R200). `ept` is the largest time of its
completed engine commands (R239), and `tender` the wave at whose TEND, or last EXIT, its task ends (R139). -/
structure Block where
  core : Nat
  slots : List Nat
  node : Nat
  task : Nat
  seq : Nat
  ctx : Nat
  nwaves : Nat
  scratchWin : Nat
  scratchBase : Nat
  bars : Tbl Barrier
  fifos : Tbl (List (List (BitVec 32)))
  binds : Tbl Nat
  mpush : List (Nat × List (BitVec 32))
  refill : List (List (BitVec 32))
  hurdles : List Nat
  hurdleMax : Nat
  arrayBase : Nat
  arrayCount : Nat
  halt : Option Trap
  haltClk : Nat
  haltForm : Bool
  haltDraw : Nat
  primary : Option Nat
  halted : Bool
  stopping : Bool
  wdog : Nat
  bark : Bool
  vacating : Bool
  away : Bool
  ept : Nat
  tender : Option Nat
  deriving DecidableEq, Repr

/-- A weight set in a latch (R148): format, K, N, the codes row by row, and for block formats scales and tags. -/
structure Latch where
  fmt : Nat
  k : Nat
  n : Nat
  codes : List (List Nat)
  scales : List (List Nat)
  tags : List (List Nat)
  deriving DecidableEq, Repr

/-- A matrix array (R148). -/
structure ArraySt where
  live : Option Latch
  shadow : Option Latch
  tagres : Bool
  poison : Bool
  chain : Nat
  member : Bool
  deriving DecidableEq, Repr

/-- An engine command (R143). -/
inductive CmdOp where
  | mw (shadow : Bool) (k : Nat)
  | mswap
  | stream (trans z : Bool)
  | mchain (c : Nat)
  | mq (sel : Nat) (clr : Bool) (d : Reg)
  | copy (kind ch : Nat) (exp : Bool) (fmt op : Nat)
  | coll (kind : Nat) (exp : Bool) (fmt op : Nat)
  | net (kind : Nat) (exp : Bool)
  deriving DecidableEq, Repr

/-- An engine command in flight: who issued it, its counter, its operands, and how far it has come.
`started` is its start (R143), `numbered` that a collective has its number (R168), `ready` that its start checks and the reads
they need are done, `gens` the generation of each window at its start (R215), and `owe` the bytes that have performed and are
still to be charged (R161). -/
structure Cmd where
  wave : Nat
  block : Nat
  core : Nat
  ctx : Nat
  uid : Nat
  ctr : Option Nat
  pc : Addr
  array : Nat
  op : CmdOp
  d0 : BitVec 64
  d1 : BitVec 64
  a0 : BitVec 64
  a1 : BitVec 64
  b0 : BitVec 64
  b1 : BitVec 64
  started : Bool
  numbered : Bool := false
  ready : Bool
  pts : Nat
  pos : Nat
  total : Nat
  plan : List Nat
  rows : Tbl (List Nat)
  gens : Tbl Nat
  number : Nat
  deadline : Option Nat
  err : Nat
  info : Nat
  reply : Option Reply
  frec : Option (Nat × Nat)
  finished : Bool
  owe : Nat := 0
  deriving DecidableEq, Repr

/-! ### Arenas, caches, ordering -/

/-- R213. -/
inductive ArenaState where
  | free
  | live
  | sealed
  | dropped
  deriving DecidableEq, Repr

/-- An arena window as core checks see it (R205, R206, Tables 10.1, 20.5). For a SCRATCH arena `sroot` is the
identifier of the SCRATCH arena its block received at launch, and in that arena's own window `nwaves` counts the waves
(R187). `lost` marks a SCRATCH arena whose core was reset without a save (R321). -/
structure Win where
  gen : Nat
  state : ArenaState
  base : Nat
  size : Nat
  attr : BitVec 64
  rd : Bool
  wr : Bool
  inst : Nat
  parent : Nat
  buffer : Bool
  root : Bool
  sroot : Nat
  nwaves : Nat
  lost : Bool
  deriving DecidableEq, Repr

/-- An L2 line (R217, R225, R234, R235): bytes, dirty and pin marks, times, sharers with read times, the cluster
that owns it exclusively, the slice that holds it, its poisoned words, for HOST lines the half states, and the core that wrote it
last (255: none; R313). -/
structure Line where
  data : List Byte
  dirty : Bool
  pinned : Bool
  wts : Nat
  rts : Nat
  sharers : Tbl Nat
  owner : Option Nat
  slice : Nat
  poison : List Nat
  halves : Nat × Nat
  writer : Nat := 255
  deriving DecidableEq, Repr

/-- An L1 copy of a line in a cluster (R225). `held` marks a pushed SYNC value whose store has not performed (R234), and `poison`
lists its poisoned words (R337). -/
structure Copy where
  data : List Byte
  wts : Nat
  rts : Nat
  held : Bool
  poison : List Nat := []
  deriving DecidableEq, Repr

/-- A drop-list entry with the lap in which it was appended (R277) and the slices that still hold it (R216). -/
structure Drop where
  win : Nat
  gen : Nat
  lap : Nat
  left : List Nat
  deriving DecidableEq, Repr

/-- What a block's end has freed on a core, not available before the uc after `uc` (R191): slots, arrays, trackers. -/
structure Freed where
  uc : Nat
  core : Nat
  slots : List Nat
  arrayBase : Nat
  arrayCount : Nat
  hurdles : Nat
  deriving DecidableEq, Repr

/-- A translation-cache entry of a memory base die (R300). -/
structure Trans where
  stack : Nat
  ctx : Nat
  base : Nat
  size : Nat
  tgt : Nat
  rd : Bool
  wr : Bool
  ep : Nat
  addr : Nat
  deriving DecidableEq, Repr

/-! ### Tasks (R249 to R264) -/

/-- A record in a node's bin (R252). -/
structure BinRec where
  seq : Nat
  bytes : List Byte
  ts : Nat
  entered : Nat
  spawn : Option Nat
  resume : Option Nat
  deriving DecidableEq, Repr

/-- An accepted node (R249 to R255, R263). -/
structure Node where
  words : List (BitVec 64)
  ctx : Nat
  cores : List Nat
  nextSeq : Nat
  bin : List BinRec
  lastCore : Option Nat
  lastUc : Option Nat
  expired : Bool
  deriving DecidableEq, Repr

/-- Table 12.3. -/
inductive TaskState where
  | binned
  | running
  | saved
  | ready
  | ending
  | ended
  | halted
  deriving DecidableEq, Repr

/-- A merge of a task's view into its target (R139, R260, R261): the view's place in the task's set, the target task
(none: the declarer's real memory) and its range, bytes done, the buffer's lines so far with the time of their reads, its
place in the order in which merges took their batons, whether its fault record awaits an answer, and an end that waits for
its block to resume. -/
structure Merge where
  view : Nat
  target : Option Nat
  base : Nat
  size : Nat
  ctx : Nat
  queued : Bool
  cursor : Nat
  lines : List (Nat × List Byte)
  pts : Nat
  order : Nat
  paused : Bool
  fail : Option (Nat × Nat)
  reply : Option Reply
  frec : Option (Nat × Nat)
  deriving DecidableEq, Repr

/-- What a saved block's task holds beside the block (R134, R200, R315): the arrays it gave up, the RA of its save
area, and the waves whose YIELD condition has held since the save. -/
structure Saved where
  arrays : List ArraySt
  img : Nat
  conds : List Nat
  deriving DecidableEq, Repr

/-- A task (R256). -/
structure Task where
  node : Nat
  seq : Nat
  parent : Option Nat
  ordinal : Nat
  children : Nat
  state : TaskState
  views : List View
  block : Option Nat
  saved : Option Saved
  merge : Option Merge
  merged : Nat
  ts : Nat
  deriving DecidableEq, Repr

/-- Table 12.4. -/
inductive BatonState where
  | free
  | held
  | draining
  | closed
  deriving DecidableEq, Repr

/-- The baton of a target and view (R260). -/
structure Baton where
  state : BatonState
  queue : List Nat
  deriving DecidableEq, Repr

/-! ### Host, faults, services -/

/-- What is still to be written for a packet that has been acted on (R289): its completion entry, then HEAD. -/
structure Posting where
  type : Nat
  w0 : Nat
  value : Nat
  slots : Nat
  irq : Bool
  ts : Nat
  entryDone : Bool
  deriving DecidableEq, Repr

/-- A launch queue (R286 to R289). `held` says that it waits for a full bin. -/
structure Queue where
  ring : Nat
  tail : Nat
  head : Nat
  cq : Nat
  owner : Nat
  slots : Nat
  vec : Nat
  ccore : Nat
  headCount : Nat
  entries : Nat
  error : Bool
  held : Bool
  post : Option Posting
  deriving DecidableEq, Repr

/-- A communicator record (Table 19.6). -/
structure Comm where
  next : Nat
  prev : Nat
  p : Nat
  rank : Nat
  limit : Nat
  number : Nat
  deriving DecidableEq, Repr

/-- An endpoint (Table 19.6), with the time of its link (R241). -/
structure Endpoint where
  kind : Nat
  group : Nat
  dev : Nat
  pctx : Nat
  port : Nat
  limit : Nat
  addr : List Byte
  nqn : List Byte
  time : Nat
  deriving DecidableEq, Repr

/-- Who awaits the answer to a fault record (R308). -/
inductive Waiter where
  | wave (w : Nat)
  | merge (task : Nat)
  | cmd (c : Nat)
  deriving DecidableEq, Repr

/-- A fault record not yet answered: die, number, waiter, code. -/
structure FaultRec where
  die : Nat
  k : Nat
  who : Waiter
  code : Nat
  deriving DecidableEq, Repr

/-- A record held at its unit while the fault queue is full (R307). -/
structure HeldRec where
  die : Nat
  words : List (BitVec 64)
  who : Option Waiter
  deriving DecidableEq, Repr

/-- A frozen granule (R181, R333, R334): snapshot, window key, generation, VA, its frame, and its copy in the pool with the words
of the copy that are poisoned (R337). -/
structure Frozen where
  snap : Nat
  win : Nat
  gen : Nat
  va : Nat
  mset : Nat
  addr : Nat
  copy : Option (List Host.Cell)
  bad : List Nat := []
  deriving DecidableEq, Repr

/-- A snapshot that drains (R333). -/
structure Snap where
  num : Nat
  ctx : Nat
  desc : Nat
  ep : Option Nat
  tva : Nat
  tlen : Nat
  count : Nat
  err : Bool
  pts : Nat
  deriving DecidableEq, Repr

/-- A page operation under way (R309, R310). -/
structure PageOp where
  uid : Nat
  wave : Nat
  ra : Nat
  ctx : Nat
  va : Nat
  size : Nat
  newAddr : Nat
  moved : Nat
  mset : Nat
  deriving DecidableEq, Repr

/-- A vacate under way (R315). -/
structure VacateOp where
  uid : Nat
  wave : Nat
  ra : Nat
  cores : List Nat
  saved : Nat
  deriving DecidableEq, Repr

/-- An operation whose completion comes later than its point (R178, R179, R181, R182, R329). -/
structure AsyncOp where
  uid : Nat
  wave : Nat
  kind : Nat
  arg : Nat
  deriving DecidableEq, Repr

/-- The registers of one control core (R292, R293), and whether a trap inside a trap stopped it. -/
structure CtlRegs where
  tvec : BitVec 64
  tepc : BitVec 64
  tcause : BitVec 64
  tva : BitVec 64
  icpend : BitVec 64
  fqrval : BitVec 64
  stopped : Bool
  deriving DecidableEq, Repr

/-- A physical error in a storage of Table 23.4 (R337), which comes from outside the machine. -/
inductive Upset where
  /-- An HBM word of 32 bytes, by its number: one symbol fails, or more than one. -/
  | hbm (word : Nat) (many : Bool)
  /-- A byte word of a scratchpad or L2 or L1 data, more than one bit: poison. -/
  | flat (word : Nat)
  | line (key word : Nat)
  | copy (l1 word : Nat)
  /-- One bit of a slice's data, corrected. -/
  | slice (i : Nat)
  /-- A register of a wave, as `Wave.bad` names it, or an entry of a block's FIFO. -/
  | reg (wave key : Nat)
  | fifo (block f i : Nat)
  /-- A lost tag of a line; an entry of a core's or an L2 slice's own tables. -/
  | tag (key : Nat)
  | core (c : Nat)
  | table (i : Nat)
  deriving DecidableEq, Repr

/-- A choice of which agent moves next (the model's own; assumption 1). -/
inductive Choice where
  /-- A wave issues from PCA (false) or PCB (true). -/
  | issue (wave : Nat) (pcb : Bool)
  /-- Core clock cycles pass. -/
  | tick (n : Nat)
  /-- An event of the opcode table occurs. -/
  | occur (i : Instr)
  /-- The outside writes a byte of host, peer or namespace memory. -/
  | outside (key : Nat) (b : Byte)
  /-- A physical error occurs. -/
  | upset (u : Upset)
  deriving DecidableEq, Repr

/-! ### The whole machine -/

/-- The state of one N7 and of what it holds of the outside. `ports` notes by core and port the cc, plus one, in which the port last
accepted an instruction (R26), `clampAt` by core its last clamped cc, plus one (R326). `slotUse` counts what the units have done
in slot `slotAt` (R331), `cursors` where their sweeps and patrols stand. `asked` lists the frozen granules that a write waits for
(R334). `errs` counts errors and `flaws` lists the HBM words with one failed symbol (R337, R338). -/
structure State where
  agenda : List Choice
  turn : Option (Nat × Bool)
  free : Nat
  uid : Nat
  clk : Nat
  mem : List Host.Cell
  poison : List Nat
  ltime : Tbl (Nat × Nat)
  sys : Tbl (BitVec 64)
  ctl : Tbl CtlRegs
  slotTab : List Nat
  slotNext : Option (List Nat)
  lap : Nat
  waves : Tbl Wave
  blocks : Tbl Block
  arrays : Tbl ArraySt
  chwp : Tbl Nat
  chStarted : Tbl Nat
  chPts : Tbl Nat
  cmds : Tbl Cmd
  coreReset : Tbl Nat
  wins : Tbl Win
  leaves : Tbl (BitVec 64)
  freed : List Freed
  drops : List Drop
  place : Tbl (BitVec 64)
  lines : Tbl Line
  l1 : Tbl Copy
  sliceBase : Tbl Nat
  trans : List Trans
  bridgePts : Nat
  hostHalf : Tbl (Nat × Nat)
  hostAck : List Nat
  nodes : Tbl Node
  tasks : Tbl Task
  batons : Tbl Baton
  rrNode : Nat
  pools : Tbl Nat
  queues : Tbl Queue
  comms : Tbl Comm
  eps : Tbl Endpoint
  frecs : List FaultRec
  fqHeld : List HeldRec
  irqs : List Nat
  boot : BitVec 16
  linkUp : Bool
  thermStop : Bool
  clamped : Tbl Nat
  doe : List Byte
  pageOp : Option PageOp
  vacates : List VacateOp
  snaps : List Snap
  snapNum : Nat
  frozen : List Frozen
  asyncs : List AsyncOp
  sampled : Tbl Nat
  groups : List Nat
  hostData : List (Option Byte)
  saveUse : List Nat
  crept : Tbl Nat
  spares : Tbl Nat
  ports : Tbl Nat
  clampAt : Tbl Nat
  slotAt : Nat
  slotUse : Tbl Nat
  cursors : Tbl Nat
  asked : List (Nat × Nat)
  errs : Tbl Nat
  flaws : List Nat
  deriving DecidableEq, Repr

/-! ### Reset values -/

/-- A path that is not live. -/
def Path.dead : Path := { live := false, pc := 0, mask := 0, join := none, last := 0, hold := .none }

/-- Launch value of a counter (Table 1.5). -/
def Ctr.zero : Ctr := { toks := [], err := false, reason := 0, info := 0, ept := 0 }

/-- Launch value of a watch slot (06_sync_task_view.md, "Watches"). -/
def Watch.off : Watch := { armed := false, fired := false, line := 0 }

/-- Launch value of a barrier (R123). -/
def Barrier.zero : Barrier := { phase := 0, arrivals := 0, n := 0 }

/-- An array when it is allocated (R148). -/
def ArraySt.fresh : ArraySt :=
  { live := none, shadow := none, tagres := false, poison := false, chain := 1, member := false }

/-- The launch state of a wave (Table 1.5). -/
def Wave.launch : Wave :=
  { v := [], s := [], p := [], ctrs := []
    pca := { live := true, pc := 0, mask := 0xFFFFFFFF, join := none, last := 0, hold := .none }
    pcb := Path.dead, stack := [], lfsr := 1, pts := 0, issued := 0, undo := [], late := [], pend := []
    park := none, watches := [], lastIssue := 0, rested := true, age := 0, eligible := 0, lastPcb := false, ended := false
    skid := 0, stopped := false, trap := none, spill := none, super := false, role := .vector, array := none, core := 0
    slot := 0, index := 0, block := 0, ctx := 0, bad := [] }

/-- The wave of control core `c` at reset: supervisor, lane 0 alone, and not live until firmware starts it
(R37, assumption 7). -/
def Wave.control (c : Nat) : Wave :=
  { Wave.launch with pca := { Path.dead with mask := 1 }, super := true, core := 192 + c }

/-- A control core's registers at reset: none of them has a reset value in the manual (assumption 5). -/
def CtlRegs.zero : CtlRegs :=
  { tvec := 0, tepc := 0, tcause := 0, tva := 0, icpend := 0, fqrval := 0, stopped := false }

/-- R331: SLOTTAB at reset. -/
def resetSlots : List Nat :=
  List.replicate 56 0 ++ [1, 1, 2, 2, 3, 3, 4, 5]

/-- The machine right after power-on reset (R320, R331 and the reset columns of the register tables). The registers
the manual gives no reset value hold zero (assumption 5). -/
def State.reset : State :=
  { agenda := [], turn := none, free := 0, uid := 0, clk := 0, mem := [], poison := [], ltime := [], sys := [], ctl := []
    slotTab := resetSlots, slotNext := none, lap := 0
    waves := [(0, Wave.control 0), (1, Wave.control 1), (2, Wave.control 2), (3, Wave.control 3),
      (4, Wave.control 4), (5, Wave.control 5), (6, Wave.control 6), (7, Wave.control 7),
      (8, Wave.control 8), (9, Wave.control 9), (10, Wave.control 10), (11, Wave.control 11),
      (12, Wave.control 12), (13, Wave.control 13), (14, Wave.control 14), (15, Wave.control 15)]
    blocks := [], arrays := [], chwp := [], chStarted := [], chPts := [], cmds := [], coreReset := []
    wins := [], leaves := [], freed := [], drops := []
    place := [], lines := [], l1 := [], sliceBase := [], trans := [], bridgePts := 0, hostHalf := [], hostAck := []
    nodes := [], tasks := [], batons := [], rrNode := 0, pools := [], queues := [], comms := [], eps := []
    frecs := [], fqHeld := [], irqs := [], boot := 0, linkUp := true, thermStop := false, clamped := [], doe := []
    pageOp := none, vacates := [], snaps := [], snapNum := 0, frozen := [], asyncs := [], sampled := [], groups := []
    hostData := [], saveUse := [], crept := [], spares := [], ports := [], clampAt := [], slotAt := 0, slotUse := [], cursors := []
    asked := [], errs := [], flaws := [] }

end Sys2Proof.Machine
end

