-- ==== Sys2Proof/Machine/Ops.lean ====
section
/-! DEFINITION. The named operations over registers, byte memory, system registers, counters and fault records, and
taking an exception and returning from one, each written once. -/
namespace Sys2Proof.Machine

/-! ### Places -/

/-- R3: the section of a logical core; a control core belongs to none, and stands on die (n − 192) / 4. -/
def sectionOf (core : Nat) : Nat := core / 12
/-- R3: the cluster of a logical core. -/
def clusterOf (core : Nat) : Nat := core / 4
/-- R2, R3: the die of a logical core or control core. -/
def dieOf (core : Nat) : Nat := if core < 192 then core / 48 else (core - 192) / 4

/-- R295: after a failed boot only CXL.io and DOE operate. -/
def State.bootFailed (s : State) : Bool := s.boot.toNat % 4 == 2

/-- Key of the byte at a reserved or HBM address (R297): the 40-bit RA itself. -/
def raKey (ra : Nat) : Nat := ra % 2 ^ 40
/-- Key of a scratchpad byte of a core (R6). -/
def scratchKey (core off : Nat) : Nat := 2 ^ 40 + core * 2 ^ 20 + off
/-- Key of a byte of host memory (R299). -/
def hostKey (hpa : Nat) : Nat := 2 ^ 64 + hpa
/-- Key of a byte of a peer's memory behind an endpoint (R299). -/
def peerKey (ep va : Nat) : Nat := 2 ^ 72 + ep * 2 ^ 56 + va
/-- Key of a byte of a namespace (R171). -/
def nsKey (ep off : Nat) : Nat := 2 ^ 90 + ep * 2 ^ 80 + off

/-! ### Byte memory -/

/-- What a byte of memory that nothing has written reads as (assumption 4). -/
def unlisted : Byte := 0

/-- The byte of memory at a key. -/
def memByte (m : List Host.Cell) (k : Nat) : Byte := dget unlisted m k
/-- Memory with one byte written, in canonical form. -/
def memPut (m : List Host.Cell) (k : Nat) (b : Byte) : List Host.Cell := dset unlisted m k b
/-- The canonical form of memory. -/
def memWf (m : List Host.Cell) : Bool := canonical unlisted m

/-- The byte of the machine's memory at a key. -/
def State.byte (s : State) (k : Nat) : Byte := memByte s.mem k
/-- One byte written to memory. -/
def State.setByte (s : State) (k : Nat) (b : Byte) : State := { s with mem := memPut s.mem k b }

/-- `n` bytes from a key, lowest first. -/
def State.bytes (s : State) (k n : Nat) : List Byte := (List.range n).map fun i => s.byte (k + i)
/-- Bytes written from a key upward. -/
def State.setBytes (s : State) (k : Nat) : List Byte → State
  | [] => s
  | b :: bs => (s.setByte k b).setBytes (k + 1) bs

/-- A little-endian number from bytes (R12). -/
def ofBytes (bs : List Byte) : Nat := bs.foldr (fun b acc => acc * 256 + b.toNat) 0
/-- The `n` low bytes of a number, lowest first. -/
def toBytes : Nat → Nat → List Byte
  | 0, _ => []
  | n + 1, x => BitVec.ofNat 8 (x % 256) :: toBytes n (x / 256)

/-- A little-endian 64-bit word of memory. -/
def State.word (s : State) (k : Nat) : BitVec 64 := BitVec.ofNat 64 (ofBytes (s.bytes k 8))
/-- A 64-bit word written to memory. -/
def State.setWord (s : State) (k : Nat) (x : BitVec 64) : State := s.setBytes k (toBytes 8 x.toNat)

/-- Memory with every byte of a range at zero. -/
def memClear (m : List Host.Cell) (k n : Nat) : List Host.Cell := m.filter fun c => decide (c.1 < k) || decide (k + n ≤ c.1)
/-- Memory with the bytes of one range copied over another. -/
def memCopy (m : List Host.Cell) (src dst n : Nat) : List Host.Cell :=
  (m.filter fun c => decide (src ≤ c.1) && decide (c.1 < src + n)).foldl
    (fun acc c => memPut acc (c.1 - src + dst) c.2) (memClear m dst n)

/-- Every byte of a range at zero, with no poison (R337); a range begins and ends on a word. -/
def State.clearBytes (s : State) (k n : Nat) : State :=
  { s with mem := memClear s.mem k n, poison := s.poison.filter fun p => decide (8 * p < k) || decide (k + n ≤ 8 * p) }
/-- One range copied over another, with its poison (R337); ranges begin and end on a word. -/
def State.copyBytes (s : State) (src dst n : Nat) : State :=
  let ps := s.poison.filter fun p => decide (src ≤ 8 * p) && decide (8 * p < src + n)
  { s with
    mem := memCopy s.mem src dst n
    poison := (s.poison.filter fun p => decide (8 * p < dst) || decide (dst + n ≤ 8 * p)) ++ ps.map fun p => p - src / 8 + dst / 8 }

/-! ### System registers (Tables 19.8, 20.1, 21.1) -/

/-- The key of a system register. -/
def sysKey (reg inst : Nat) : Nat := reg * 65536 + inst

/-- The reset values of the system registers (Tables 20.6, 21.1, R301); the others hold zero (assumption 5). -/
def sysReset (reg inst : Nat) : BitVec 64 :=
  match reg with
  | 0x0110 => if inst = 0 then 0x80E0000000000000 else 0
  | 0x0111 => if inst = 0 then 0xFFFF else 0
  | 0x0202 => 65536
  | 0x0205 => 0xFFFFFFFF
  | 0x0206 => if inst < 16 then 0xFFFFFFFFFFFFFFFF else 0
  | 0x0209 => 0x0E100C80
  | _ => 0

/-- A system register's contents. -/
def State.sysReg (s : State) (reg inst : Nat) : BitVec 64 := (kget s.sys (sysKey reg inst)).getD (sysReset reg inst)
/-- A system register written. -/
def State.setSys (s : State) (reg inst : Nat) (x : BitVec 64) : State :=
  { s with sys := if x = sysReset reg inst then kdel s.sys (sysKey reg inst) else kset s.sys (sysKey reg inst) x }

/-- The registers of a control core. -/
def State.ctlRegs (s : State) (c : Nat) : CtlRegs := dget CtlRegs.zero s.ctl c
/-- The registers of a control core changed. -/
def State.setCtl (s : State) (c : Nat) (x : CtlRegs) : State := { s with ctl := dset CtlRegs.zero s.ctl c x }

/-- R292: an MSI-X vector raised. -/
def State.raiseIrq (s : State) (v : Nat) : State := { s with irqs := s.irqs ++ [v] }

/-! ### Waves, blocks -/

/-- The wave with a number; a dead wave where there is none. -/
def State.wave (s : State) (w : Nat) : Wave := (kget s.waves w).getD { Wave.launch with pca := Path.dead, ended := true }
/-- A wave replaced. -/
def State.setWave (s : State) (w : Nat) (x : Wave) : State := { s with waves := kset s.waves w x }
/-- A wave changed. -/
def State.modWave (s : State) (w : Nat) (g : Wave → Wave) : State := s.setWave w (g (s.wave w))

/-- A block; none where there is none. -/
def State.block? (s : State) (b : Nat) : Option Block := kget s.blocks b
/-- A block changed. -/
def State.modBlock (s : State) (b : Nat) (g : Block → Block) : State := { s with blocks := kmod s.blocks b g }

/-- The path of a wave that is meant: PCB or PCA. -/
def Wave.path (x : Wave) (pcb : Bool) : Path := if pcb then x.pcb else x.pca
/-- A path of a wave replaced. -/
def Wave.setPath (x : Wave) (pcb : Bool) (p : Path) : Wave := if pcb then { x with pcb := p } else { x with pca := p }
/-- A path of a wave moved to a PC. -/
def Wave.goto (x : Wave) (pcb : Bool) (pc : Addr) : Wave := x.setPath pcb { x.path pcb with pc := pc }
/-- The path that issued last, of those that live (R185). -/
def Wave.lastPath (x : Wave) : Bool := 
  if (x.path x.lastPcb).live then x.lastPcb else if (x.path (!x.lastPcb)).live then !x.lastPcb else x.lastPcb

/-- A path's hold set. -/
def Wave.holdPath (x : Wave) (pcb : Bool) (h : Hold) : Wave := x.setPath pcb { x.path pcb with hold := h }

/-- The wave numbers of a block. -/
def blockWaves (b n : Nat) : List Nat := (List.range n).map fun i => 16 * b + i
/-- The live waves of a block (R80). -/
def State.liveWaves (s : State) (b : Nat) : List Nat :=
  match s.block? b with
  | some k => (blockWaves b k.nwaves).filter fun w => !(s.wave w).ended
  | none => []

/-- R219: the run-ahead count of a wave. -/
def Wave.runahead (x : Wave) : Nat :=
  match x.pend with
  | [] => 0
  | a :: _ => x.issued - a.nth

/-! ### Registers (R18 to R22, R29) -/

/-- R29: pending results that `p` picks are seen from now on, and with each every older one of its register: writes take
effect in issue order. The list is newest first; `gone` holds the registers settled so far. -/
def dropLate (p : Late → Bool) : List Late → List Nat → List Late
  | [], _ => []
  | e :: t, gone => if p e || gone.contains e.reg then dropLate p t (e.reg :: gone) else e :: dropLate p t gone

/-- R29: the contents of a register as a reader sees them: the current contents, or those from before a result whose
latency has not passed, whichever the machine delivers; one draw per reader and producer, so that an operand of several registers
is old or new as a whole (assumption 53). -/
def lateRead (draw reg : Nat) : List Late → Option (List (BitVec 64)) → Option (List (BitVec 64))
  | [], cur => cur
  | e :: t, cur =>
    if e.reg = reg then
      if 0 < e.rem ∧ Config.readsOld draw e.uid = true then lateRead draw reg t (some e.old) else cur
    else lateRead draw reg t cur

/-- A predicate's stored bits; P7 is all ones (Table 1.5). -/
def Wave.pred (x : Wave) (n : Nat) : BitVec 32 := if n = 7 then 0xFFFFFFFF else dget 0 x.p n
/-- A predicate written; a write to P7 is discarded. -/
def Wave.setPred (x : Wave) (n : Nat) (v : BitVec 32) : Wave := if 7 ≤ n then x else { x with p := dset 0 x.p n v }

/-- A predicate as an instruction reads it (R22, R29). -/
def Wave.readPred (x : Wave) (draw n : Nat) : BitVec 32 :=
  match lateRead draw (256 + n) x.late none with
  | some (o :: _) => o.setWidth 32
  | _ => x.pred n

/-- The scalar register field `r` names: S registers, uniform specials, Z (Table 1.4). -/
def State.special (s : State) (x : Wave) (r : Nat) : BitVec 64 :=
  match r with
  | 249 => if x.super then 0 else BitVec.ofNat 64 x.index
  | 250 => if x.super then 0 else match s.block? x.block with
    | some b => BitVec.ofNat 64 (b.slots.headD 0)
    | none => 0
  | 251 => if x.super then 0 else match s.block? x.block with
    | some b => BitVec.ofNat 64 b.seq
    | none => 0
  | 252 => BitVec.ofNat 64 x.core
  | 253 => BitVec.ofNat 64 (s.clk - dget 0 s.coreReset x.core)
  | 254 => BitVec.ofNat 64 x.pts
  | _ => 0

/-- A uniform source as an instruction reads it (R19, R22, R29). -/
def State.readU (s : State) (x : Wave) (r : Reg) : BitVec 64 :=
  if isS r then
    match lateRead s.free r.toNat x.late none with
    | some (o :: _) => o
    | _ => dget 0 x.s r.toNat
  else s.special x r.toNat

/-- The entries of the FIFO bound to a queue port (R132, R133). -/
def State.fifoOf (s : State) (x : Wave) (r : Reg) : Option (Nat × List (List (BitVec 32))) :=
  match s.block? x.block with
  | some b => match kget b.binds (r.toNat - 240) with
    | some f => some (f, dget [] b.fifos f)
    | none => none
  | none => none

/-- R21: which entry of its FIFO the port `r` pops, given the ports named before it in the same instruction: where two ports bound
to one FIFO are sources of one instruction, the field named first gets the head (DESIGN CHOICE, assumption 91). -/
def State.popIndex (s : State) (x : Wave) (before : List Reg) (r : Reg) : Nat :=
  let f := (s.fifoOf x r).map (·.1)
  ((before.eraseDups.filter fun q => isQ q && q != r && ((s.fifoOf x q).map (·.1) == f))).length

/-- Lane `l` of a per-lane source (R19, R21, R22, R29); `before` lists the source fields named earlier. -/
def State.readL (s : State) (x : Wave) (before : List Reg) (r : Reg) (l : Nat) : BitVec 32 :=
  if isV r then
    match lateRead s.free r.toNat x.late none with
    | some o => (o.getD l 0).setWidth 32
    | none => dget 0 x.v (32 * r.toNat + l)
  else if isQ r then
    match s.fifoOf x r with
    | some (_, es) => (es.getD (s.popIndex x before r) []).getD l 0
    | none => 0
  else if r.toNat = 248 then BitVec.ofNat 32 l
  else (s.readU x r).setWidth 32

/-- Lane `l` of a 64-bit per-lane source: a pair, or a uniform source in full (R19, R20). -/
def State.readL64 (s : State) (x : Wave) (r : Reg) (l : Nat) : BitVec 64 :=
  if isV r then s.readL x [] (r + 1) l ++ s.readL x [] r l else s.readU x r

/-- Every distinct queue port among the source fields pops one entry (R21). -/
def State.popPorts (s : State) (x : Wave) (srcs : List Reg) : State :=
  (srcs.eraseDups.filter isQ).foldl (fun s r =>
    match s.fifoOf x r with
    | some (f, es) => s.modBlock x.block fun b => { b with fifos := dset [] b.fifos f (es.drop 1) }
    | none => s) s

/-- The 32 lanes of a V register. -/
def Wave.vlanes (x : Wave) (r : Nat) : List (BitVec 32) := (List.range 32).map fun l => dget 0 x.v (32 * r + l)

/-- Lanes of a V register written. -/
def putLanes (v : Tbl (BitVec 32)) (r : Nat) (active : BitVec 32) (g : Nat → BitVec 32) : Tbl (BitVec 32) :=
  (List.range 32).foldl (fun t l => if active.getLsbD l then dset 0 t (32 * r + l) (g l) else t) v

/-! What is poisoned of a wave's registers (R337), by its key in `Wave.bad`. -/

/-- A lane of a V register. -/
def vBad (r l : Nat) : Nat := 32 * r + l
/-- An S register. -/
def sBad (r : Nat) : Nat := 8192 + r
/-- A predicate. -/
def pBad (n : Nat) : Nat := 8448 + n
/-- A register written is whole again. -/
def Wave.heal (x : Wave) (p : Nat → Bool) : Wave := { x with bad := x.bad.filter fun k => !p k }
/-- A register that takes back its old contents takes back its poison. -/
def Wave.unheal (x : Wave) (p : Nat → Bool) (bad : List Nat) : Wave := { x with bad := (x.bad.filter fun k => !p k) ++ bad }

/-- R219: an undo entry for an instruction, when the wave has an unperformed access. -/
def Wave.log (x : Wave) (uid : Nat) (u : Undo) : Wave :=
  if x.pend.isEmpty then x else { x with undo := (uid, u) :: x.undo }

/-- R29: a result that a later instruction may miss while the STALL fields sum to less than `lat`. -/
def Wave.noteLate (x : Wave) (uid reg : Nat) (old : List (BitVec 64)) (lat : Nat) : Wave :=
  if lat = 0 then x else { x with late := { uid := uid, reg := reg, old := old, rem := lat } :: x.late }

/-- A fixed-latency write of an S register or Z (R19, R22, R29, R219). -/
def State.writeU (s : State) (w uid lat : Nat) (r : Reg) (val : BitVec 64) : State :=
  if isS r then s.modWave w fun x =>
    let old := dget 0 x.s r.toNat
    let x := (x.log uid (.s r.toNat old (x.bad.filter (· == sBad r.toNat)))).noteLate uid r.toNat [old] lat
    ({ x with s := dset 0 x.s r.toNat val } : Wave).heal (· == sBad r.toNat)
  else s

/-- A fixed-latency write of lanes of a V register, a push to a queue port, or Z (R21, R29, R219). -/
def State.writeL (s : State) (w uid lat : Nat) (r : Reg) (active : BitVec 32) (g : Nat → BitVec 32) : State :=
  if isV r then s.modWave w fun x =>
    let old := x.vlanes r.toNat
    let x := (x.log uid (.v r.toNat old (x.bad.filter (· / 32 == r.toNat)))).noteLate uid r.toNat (old.map (·.setWidth 64)) lat
    ({ x with v := putLanes x.v r.toNat active g } : Wave).heal fun k => k / 32 == r.toNat && active.getLsbD (k % 32)
  else if isQ r then
    match s.fifoOf (s.wave w) r with
    | some (f, es) =>
      let e := (List.range 32).map fun l => if active.getLsbD l then g l else 0
      s.modBlock (s.wave w).block fun b => { b with fifos := dset [] b.fifos f (es ++ [e]) }
    | none => s
  else s

/-- A 64-bit per-lane result: the low half in the register named, the high half above it (R20). -/
def State.writeL64 (s : State) (w uid lat : Nat) (r : Reg) (active : BitVec 32) (g : Nat → BitVec 64) : State :=
  if isV r then
    (s.writeL w uid lat r active fun l => (g l).setWidth 32).writeL w uid lat (r + 1) active
      fun l => ((g l) >>> 32).setWidth 32
  else s

/-- A fixed-latency write of a predicate (R29, R219). -/
def State.writeP (s : State) (w uid lat n : Nat) (val : BitVec 32) : State :=
  if 7 ≤ n then s else s.modWave w fun x =>
    let old := x.pred n
    (((x.log uid (.p n old (x.bad.filter (· == pBad n)))).noteLate uid (256 + n) [old.setWidth 64] lat).setPred n val).heal (· == pBad n)

/-! ### Counters (R28, R144) -/

/-- Decrements take effect in issue order (R28): the finished increments at the head of a counter drain. -/
def drainToks : List Token → Ctr → Ctr
  | [], c => { c with toks := [] }
  | t :: ts, c =>
    if t.done then
      drainToks ts { c with
        err := c.err || decide (t.err ≠ 0)
        reason := if t.err ≠ 0 ∧ c.err = false then t.err else c.reason
        info := if t.err ≠ 0 ∧ c.err = false then t.info else c.info
        ept := max c.ept t.pts }
    else { c with toks := t :: ts }

/-- A counter with its finished increments drained. -/
def Ctr.drain (c : Ctr) : Ctr := drainToks c.toks c

/-- A counter with its increments changed, and drained. -/
def Ctr.mapToks (c : Ctr) (g : Token → Token) : Ctr := ({ c with toks := c.toks.map g } : Ctr).drain
/-- A counter without the increments that `keep` refuses, and drained. -/
def Ctr.keepToks (c : Ctr) (keep : Token → Bool) : Ctr := ({ c with toks := c.toks.filter keep } : Ctr).drain

/-- A wave's counter. -/
def Wave.ctr (x : Wave) (n : Nat) : Ctr := dget Ctr.zero x.ctrs n
/-- A counter's count (Table 1.5). -/
def Ctr.count (c : Ctr) : Nat := c.toks.length
/-- A wave's counter replaced. -/
def Wave.setCtr (x : Wave) (n : Nat) (c : Ctr) : Wave := { x with ctrs := dset Ctr.zero x.ctrs n c }

/-- R28: the increment at issue; `due` is the cc by which a fixed-latency result is written. -/
def Wave.signal (x : Wave) (sig : BitVec 4) (uid : Nat) (due : Option Nat) : Wave :=
  if sig.toNat < 12 then
    let c := x.ctr sig.toNat
    let t : Token := { uid := uid, done := false, err := 0, info := 0, pts := 0, due := due }
    x.setCtr sig.toNat { c with toks := c.toks ++ [t] }
  else x

/-- R28, R144: the completion of an instruction, with an error reason (0 for none) and its engine's time. -/
def Wave.complete (x : Wave) (uid err info pts : Nat) : Wave :=
  { x with ctrs := x.ctrs.map fun e => (e.1, e.2.mapToks fun t =>
            if t.uid = uid then { t with done := true, err := err, info := info, pts := pts } else t) }

/-- The completion of an instruction of a wave. -/
def State.complete (s : State) (w uid : Nat) : State := s.modWave w fun x => x.complete uid 0 0 0

/-- R28, R29: fixed-latency results whose time has come are written: their increments drain. -/
def Wave.retire (x : Wave) (clk : Nat) : Wave :=
  let dueNow (t : Token) : Bool := match t.due with
    | some d => decide (d ≤ clk)
    | none => false
  let ids := (x.ctrs.flatMap fun e => e.2.toks).filter dueNow |>.map (·.uid)
  if ids.isEmpty then x else
    { x with
      ctrs := x.ctrs.map fun e => (e.1, e.2.mapToks fun t => if dueNow t then { t with done := true, due := none } else t)
      late := dropLate (fun e => ids.contains e.uid) x.late [] }

/-! ### Fault records (R184, R307) -/

/-- A field of a record word. -/
def fieldAt (x lo width : Nat) : Nat := x % 2 ^ width * 2 ^ lo

/-- What a record of Table 8.7 reports. -/
structure RecInfo where
  ctx : Nat
  core : Nat
  slot : Nat
  wave : Nat
  ctr : Nat
  depth : Nat
  spilled : Bool
  path : Nat
  half : Nat
  recov : Bool
  primary : Bool
  form : Bool
  detail : Nat
  code : Nat
  skid : Nat
  pc : Addr
  sib : BitVec 32
  mask : BitVec 32
  va : Nat
  info : Nat
  clk : Nat
  join : Nat
  deriving DecidableEq, Repr

/-- Table 8.7: the eight words of a record. -/
def recordWords (r : RecInfo) : List (BitVec 64) :=
  let b (x : Bool) (lo : Nat) : Nat := if x then 2 ^ lo else 0
  [BitVec.ofNat 64 (fieldAt r.ctx 58 6 + fieldAt r.core 50 8 + fieldAt r.slot 46 4 + fieldAt r.wave 42 4 +
     fieldAt r.ctr 38 4 + fieldAt r.depth 33 5 + b r.spilled 32 + fieldAt r.path 30 2 + fieldAt r.half 29 1 +
     b r.recov 28 + b r.primary 27 + b r.form 26 + fieldAt r.detail 8 8 + fieldAt r.code 0 8),
   BitVec.ofNat 64 (fieldAt r.skid 56 8 + r.pc.toNat),
   BitVec.ofNat 64 (r.sib.toNat * 2 ^ 32 + r.mask.toNat),
   BitVec.ofNat 64 (r.va % 2 ^ 56), BitVec.ofNat 64 (r.info % 2 ^ 32), BitVec.ofNat 64 r.clk,
   BitVec.ofNat 64 (r.join % 2 ^ 56), 0]

/-- Words written to memory from a key upward. -/
def State.setWords (s : State) (k : Nat) (xs : List (BitVec 64)) : State := s.setBytes k (xs.flatMap fun x => toBytes 8 x.toNat)

/-- R298: entries of a ring whose base register is `base` (FQBASE, SRBASE). -/
def ringSize (base : BitVec 64) : Nat := 2 ^ (base.extractLsb' 60 4).toNat
/-- R298: the RA of a ring. -/
def ringBase (base : BitVec 64) : Nat := (base.extractLsb' 6 34).toNat * 64

/-- R307: is there room in a die's fault queue? -/
def State.fqRoom (s : State) (die : Nat) : Bool :=
  decide ((s.sysReg 0x011A die).toNat - (s.sysReg 0x0119 die).toNat < ringSize (s.sysReg 0x0118 die))

/-- R307: a record enters its die's ring at FQTAIL; `who` awaits its answer. -/
def State.enterRecord (s : State) (die : Nat) (ws : List (BitVec 64)) (who : Option Waiter) : State :=
  let k := (s.sysReg 0x011A die).toNat
  let base := s.sysReg 0x0118 die
  let s := s.setWords (raKey (ringBase base + 64 * (k % ringSize base))) ws
  let s := s.setSys 0x011A die (BitVec.ofNat 64 (k + 1))
  let s := match who with
    | some x => { s with frecs := s.frecs ++ [{ die := die, k := k, who := x, code := (ws.headD 0).toNat % 256 }] }
    | none => s
  match who with
  | some (.wave w) => s.modWave w fun x => { x with park := x.park.map fun p => { p with die := die, frec := k } }
  | some (.merge t) => { s with tasks := kmod s.tasks t fun t =>
      { t with merge := t.merge.map fun m => { m with frec := some (die, k) } } }
  | some (.cmd c) => { s with cmds := kmod s.cmds c fun c => { c with frec := some (die, k) } }
  | _ => s

/-- R307: a record is written, or held at its unit while the ring is full. -/
def State.writeRecord (s : State) (die : Nat) (ws : List (BitVec 64)) (who : Option Waiter) : State :=
  if s.fqRoom die && !(s.fqHeld.any fun h => h.die == die) then s.enterRecord die ws who
  else { s with fqHeld := s.fqHeld ++ [{ die := die, words := ws, who := who }] }

/-- R307: held records enter as room appears. -/
def State.flushRecords (s : State) : State :=
  s.fqHeld.foldl (fun s h => s.writeRecord h.die h.words h.who) { s with fqHeld := [] }

/-- The record of a wave's path, before what a trap adds (Table 8.7). -/
def State.waveRecord (s : State) (x : Wave) (pcb : Bool) : RecInfo :=
  let p := x.path pcb
  { ctx := x.ctx, core := x.core, slot := x.slot, wave := x.index, ctr := 0, depth := x.stack.length, spilled := false,
    path := if pcb then 1 else 0, half := 0, recov := false, primary := false,
    form := (s.sysReg 0x0201 x.core).getLsbD 0, detail := 0, code := 0, skid := 0, pc := p.pc, sib := 0,
    mask := p.mask, va := 0, info := 0, clk := s.clk - dget 0 s.coreReset x.core
    join := if (s.sysReg 0x0201 x.core).getLsbD 0 then (p.join.map (·.toNat)).getD 0 else 0 }

/-! ### Taking an exception (R183 to R185, R196, R197, R293) -/

/-- A trap with a code and failing lanes alone. -/
def Trap.of (code : Nat) (mask : BitVec 32) : Trap :=
  { code := code, detail := 0, ctr := 0, mask := mask, va := 0, info := 0, half := 0 }

/-- R293: a trap of a control core enters TVEC (its low 56 bits, whatever they are: DESIGN CHOICE, assumption 70), or stops the
core when one is already being handled. The return PC is `epc`: pc + 12 for TRAP and BRK, the faulting instruction otherwise; `n` is TRAP's or BRK's number. -/
def State.trapControl (s : State) (w : Nat) (pcb : Bool) (epc : Addr) (code n va : Nat) : State :=
  let c := w % 16
  let r := s.ctlRegs c
  if r.tcause.getLsbD 31 then (s.setCtl c { r with stopped := true }).raiseIrq 0
  else
    let s := s.setCtl c { r with
      tepc := epc.setWidth 64
      tcause := BitVec.ofNat 64 (2 ^ 31 + fieldAt code 16 8 + n % 65536)
      tva := BitVec.ofNat 64 (va % 2 ^ 56) }
    s.modWave w fun x => x.setPath pcb { x.path pcb with pc := r.tvec.setWidth 56, hold := .none }

/-- R197: engine commands of a block that have not started are cancelled, and their increments undone. -/
def State.cancelCmds (s : State) (keep : Cmd → Bool) : State :=
  let gone := s.cmds.filter fun e => !e.2.started && !keep e.2
  let s := { s with cmds := s.cmds.filter fun e => e.2.started || keep e.2 }
  gone.foldl (fun s e => s.modWave e.2.wave fun x =>
    { x with ctrs := x.ctrs.map fun c => (c.1, c.2.keepToks fun t => t.uid != e.1) }) s

/-- R197: a wave that is parked when its block is to halt stands at the parked instruction and issues nothing more; its park
awaits no reply. -/
def Wave.stopParked (x : Wave) (p : Park) : Wave :=
  let x : Wave := { x with stopped := true, skid := 0, lastPcb := p.pcb, park := none }
  match x.pend with
  | a :: _ =>
    if a.uid = p.uid then { x.setPath p.pcb { x.path p.pcb with pc := a.pc, hold := .none } with pend := [], undo := [] } else x
  | [] => x

/-- R197: a halt request for a block from one of its waves. The trapping wave issues nothing more; the others stop
within six instructions. A request that meets a block already stopping changes only the wave's own report; where the wave is the
one that trapped first, no record is PRIMARY any more. -/
def State.requestHalt (s : State) (w : Nat) (pcb : Bool) (t : Trap) : State :=
  let x := s.wave w
  match s.block? x.block with
  | none => s
  | some b =>
    let s := s.modWave w fun x =>
      { x with stopped := true, skid := if b.stopping then x.skid else 0, lastPcb := pcb, park := none, trap := some t }
    if b.stopping then s.modBlock x.block fun b => { b with primary := if b.primary = some w then none else b.primary }
    else
      let s := s.cancelCmds fun c => c.block != x.block
      let s := (blockWaves x.block b.nwaves).foldl (fun s v => match (s.wave v).park with
        | some p => s.modWave v fun y => y.stopParked p
        | none => s) s
      { s.modBlock x.block fun b => { b with
          stopping := true, primary := some w, halt := some t, haltClk := s.clk, haltForm := (s.sysReg 0x0201 x.core).getLsbD 0
          haltDraw := s.free } with
        free := s.free + b.nwaves }

/-- Taking an exception: R293 on a control core, R197 on a compute core. -/
def State.raise (s : State) (w : Nat) (pcb : Bool) (t : Trap) : State :=
  let x := s.wave w
  if x.super then s.trapControl w pcb (x.path pcb).pc t.code 0 t.va
  else s.requestHalt w pcb t

/-- R196: a recoverable fault parks the wave at an instruction, with a record that carries RECOV. For TRAP, `service` is
its reply register and its arguments, which the record carries in words 6 and 7 (assumption 16). -/
def State.parkWave (s : State) (w uid : Nat) (pcb : Bool) (pc : Addr) (t : Trap)
    (service : Option (Reg × BitVec 64 × BitVec 64)) : State :=
  let x := s.wave w
  let r : RecInfo := { s.waveRecord x pcb with
    recov := true, primary := true, code := t.code, detail := t.detail, pc := pc, mask := t.mask, va := t.va,
    info := t.info, half := t.half }
  let ws := match service with
    | some (_, a, b) => (recordWords r).take 6 ++ [a, b]
    | none => recordWords r
  let p : Park :=
    { uid := uid, code := t.code, va := t.va, mask := t.mask, pcb := pcb, service := service.map (·.1), info := t.info, words := ws
      die := 0, frec := 0 }
  (s.modWave w fun x => { x with park := some p }).writeRecord (dieOf x.core) ws (some (.wave w))

/-- R26: the cc in which a wave's next instruction issues. One that has issued nothing since its launch or resume has no STALL
distance to keep (R202). -/
def State.issueTime (s : State) (w : Nat) (f : Sched) : Nat :=
  if (s.wave w).rested then s.clk else max s.clk ((s.wave w).lastIssue + max f.stall.toNat 1)

/-- Taking an immediate exception at an instruction's issue: nothing else of it takes effect, but the clock has reached its
cc. -/
def State.raiseIssue (s : State) (w : Nat) (pcb : Bool) (f : Sched) (t : Trap) : State :=
  ({ s with clk := s.issueTime w f } : State).raise w pcb t

/-- R177, R293: return from a trap: INTRAP clears and the path continues at TEPC (its low 56 bits, whatever they are: DESIGN
CHOICE, assumption 70). -/
def State.returnFromTrap (s : State) (w : Nat) (pcb : Bool) : State :=
  let c := w % 16
  let r := s.ctlRegs c
  let s := s.setCtl c { r with tcause := r.tcause &&& ~~~(0x80000000#64) }
  s.modWave w fun x => x.goto pcb (r.tepc.setWidth 56)

/-! ### Rewinding (R220) -/

/-- One undo entry put back. -/
def Wave.restore (x : Wave) : Undo → Wave
  | .v r old bad => ({ x with v := putLanes x.v r 0xFFFFFFFF fun l => old.getD l 0 } : Wave).unheal (· / 32 == r) bad
  | .s k old bad => ({ x with s := dset 0 x.s k old } : Wave).unheal (· == sBad k) bad
  | .p k old bad => (x.setPred k old).unheal (· == pBad k) bad
  | .lfsr old => { x with lfsr := old }
  | .ctl a b st => { x with pca := a, pcb := b, stack := st }

/-- Does an access initialise the hurdle at an address (R126)? -/
def Acc.initAt (a : Acc) (va : Nat) : Bool := match a.op with
  | .hdlInit v _ => !v.getLsbD 31 && a.reqs.any (·.va == va)
  | _ => false

/-- The hurdle whose tracker entry an access has taken (R190). -/
def Acc.tookAt (a : Acc) : Option Nat := match a.op, a.reqs with
  | .hdlInit _ true, r :: _ => some r.va
  | _, _ => none

/-- An HDL.INIT holds the tracker entry of its hurdle from here on, or does not. -/
def Acc.setTook (a : Acc) (took : Bool) : Acc := match a.op with
  | .hdlInit v _ => { a with op := .hdlInit v took }
  | _ => a

/-- R190: a cancelled HDL.INIT gives back the tracker entry that it took, to another that waits to perform there, or to the
block. -/
def State.giveTracker (s : State) (bid va : Nat) : State :=
  match s.block? bid with
  | none => s
  | some b => match (blockWaves bid b.nwaves).find? fun v => (s.wave v).pend.any (·.initAt va) with
    | some v => s.modWave v fun x => { x with pend := x.pend.map fun a => if a.initAt va then a.setTook true else a }
    | none => s.modBlock bid fun b => { b with hurdles := b.hurdles.filter (· != va) }

/-- What a rewind to the access `a` does to its wave: the old values come back, newest first, and what is younger goes; an EXIT
younger than it is undone (R81). -/
def Wave.rewound (x : Wave) (a : Acc) : Wave :=
  let x := (x.undo.filter fun e => decide (a.uid < e.1)).foldl (fun x e => x.restore e.2) x
  { x with
    undo := x.undo.filter fun e => decide (e.1 ≤ a.uid)
    pend := x.pend.filter fun b => decide (b.uid ≤ a.uid)
    late := x.late.filter fun e => decide (e.uid ≤ a.uid)
    ctrs := x.ctrs.map fun c => (c.1, c.2.keepToks fun t => decide (t.uid ≤ a.uid))
    pca := a.ctl.1, pcb := a.ctl.2.1, stack := a.ctl.2.2
    ended := false, issued := a.nth, skid := x.skid - (x.issued - a.nth) }

/-- R220, steps 1 to 4: everything of the wave younger than the access `a` is cancelled, engine commands that have not started
and the tracker entries of HDL.INITs among it. -/
def State.rewind (s : State) (w : Nat) (a : Acc) : State :=
  let s := s.cancelCmds fun c => c.wave != w || decide (c.uid ≤ a.uid)
  let gone := ((s.wave w).pend.filter fun b => decide (a.uid < b.uid)).filterMap Acc.tookAt
  gone.foldl (fun s va => s.giveTracker (s.wave w).block va) (s.modWave w fun x => x.rewound a)

/-- R220, R197: a deferred fault that nothing services, or that meets a control core: the wave is rewound to the access
and stands at its instruction; then the exception is taken. SKID counts only what issued before it. -/
def State.raiseAt (s : State) (w : Nat) (a : Acc) (t : Trap) : State :=
  let s := s.rewind w a
  let s := s.modWave w fun x =>
    ({ x with pend := x.pend.filter fun b => decide (b.uid ≠ a.uid), skid := x.skid - 1 }).setPath a.pcb
      { x.path a.pcb with pc := a.pc, hold := .none }
  s.raise w a.pcb t

/-! ### Issue (R25 to R29) -/

/-- R25: the effective lane set of an instruction of a path. -/
def State.active (s : State) (x : Wave) (pcb : Bool) (f : Sched) : BitVec 32 :=
  let bits := x.readPred s.free (f.guard.toNat % 8)
  (x.path pcb).mask &&& (if f.guard.getLsbD 3 then ~~~bits else bits)

/-- The least `age` above every wave's: the youngest place in the order (R27). -/
def State.nextAge (s : State) : Nat := (s.waves.foldl (fun m e => max m e.2.age) 0) + 1

/-- R81: the divergence state goes to the undo log before a control instruction changes it. -/
def State.logCtl (s : State) (w uid : Nat) : State := s.modWave w fun x => x.log uid (.ctl x.pca x.pcb x.stack)

/-- R22, R29: the machine as an instruction reads it at its issue: the clock has reached its cc, results whose time has
come are written, and the latencies have run down by its STALL field. -/
def State.atIssue (s : State) (w : Nat) (f : Sched) : State :=
  let now := s.issueTime w f
  let x := (s.wave w).retire now
  { s.setWave w { x with
      late := dropLate (fun e => decide (e.rem = 0)) (x.late.map fun e => { e with rem := e.rem - f.stall.toNat }) [] } with
    clk := now }

/-- What an issue notes in its wave and path: the time (R26), the order of age (R27), and one more instruction issued
since a halt request (R197). -/
def Wave.issueNotes (x : Wave) (pcb : Bool) (now age : Nat) (halting : Bool) : Wave :=
  { x.setPath pcb { x.path pcb with last := now, since := now } with
    lastIssue := now, rested := false, issued := x.issued + 1, eligible := 0, lastPcb := pcb, age := age
    skid := if halting && !x.stopped then x.skid + 1 else x.skid }

/-- Is the block of a wave stopping (R197)? -/
def State.halting (s : State) (x : Wave) : Bool := match s.block? x.block with
  | some b => b.stopping
  | none => false

/-- What every issue does (R26 to R29): the state at issue, and in it the path and wave note the time, YLD makes the
wave the youngest, SIG counts up (`latency` cc pass to the completion of a fixed-latency instruction), and the
instruction takes the number `s.uid`. -/
def State.beginIssue (s : State) (w : Nat) (pcb : Bool) (f : Sched) (latency : Option Nat) : State :=
  let now := s.issueTime w f
  let r := s.atIssue w f
  let x := r.wave w
  let y := (x.issueNotes pcb now (if f.yld then r.nextAge else x.age) (s.halting x)).signal f.sig s.uid (latency.map (now + ·))
  { (r.modBlock x.block fun b => { b with wdog := 0, bark := false }).setWave w y with uid := s.uid + 1, free := s.free + 1 }

/-- The path moves to the next instruction (R75). -/
def State.advance (s : State) (w : Nat) (pcb : Bool) : State :=
  s.modWave w fun x => x.goto pcb ((x.path pcb).pc + 12)

end Sys2Proof.Machine
end

