-- ==== Sys2Proof/Machine/Xlat.lean ====
section
/-! DEFINITION. Arena windows and the core checks of R100, page tables and translation (R297 to R301), owner entries,
first touch and quota (R306, R211, R214), and the descriptors of R302. -/
namespace Sys2Proof.Machine

/-! ### Windows (R205, R206) -/

/-- The key of a context's window of an arena; `g` marks a GLOBAL arena (R113). -/
def winKey (ctx : Nat) (g : Bool) (id : Nat) : Nat := (ctx * 2 + (if g then 1 else 0)) * 4096 + id
/-- The context of a window key. -/
def winCtx (k : Nat) : Nat := k / 8192
/-- Is the window of a GLOBAL arena? -/
def winGlobal (k : Nat) : Bool := k / 4096 % 2 == 1
/-- The arena identifier of a window key. -/
def winId (k : Nat) : Nat := k % 4096
/-- The descriptor table that holds the arena of a window key: its context's, or ADTAB.64 (R298). -/
def winSpace (k : Nat) : Nat := if winGlobal k then 64 else winCtx k
/-- The mark of the reserved arena, which has no identifier (R297). -/
def reservedWin : Nat := 2 ^ 30

/-- Table 5.9: the fields of an attribute word. -/
def attrLease (a : BitVec 64) : Nat := if (a.extractLsb' 16 8).toNat = 0 then 32 else (a.extractLsb' 16 8).toNat
/-- DOM. -/
def attrDom (a : BitVec 64) : Nat := (a.extractLsb' 24 4).toNat
/-- MSET. -/
def attrMset (a : BitVec 64) : Nat := (a.extractLsb' 28 4).toNat
/-- FILL. -/
def attrFill (a : BitVec 64) : BitVec 32 := a.extractLsb' 32 32
/-- HOME. -/
def attrHome (a : BitVec 64) : Nat := (a.extractLsb' 9 3).toNat
/-- KIND: 0 HBM, 1 HOST, 2 PEER, 3 SCRATCH. -/
def attrKind (a : BitVec 64) : Nat := (a.extractLsb' 7 2).toNat
/-- SYNC. -/
def attrSync (a : BitVec 64) : Bool := a.getLsbD 13
/-- GLOBAL. -/
def attrGlobal (a : BitVec 64) : Bool := a.getLsbD 14

/-- R113: the handle of a window's arena. -/
def winHandle (k gen : Nat) : BitVec 64 :=
  BitVec.ofNat 64 ((if winGlobal k then 2 ^ 16 else 0) + gen % 16 * 2 ^ 12 + winId k)

/-- R297: the range of the reserved arena. -/
def inReserved (va : Nat) : Bool := decide (0x00FF000000000000 ≤ va) && decide (va ≤ 0x00FF00FFFFFFFFFF)
/-- R297: an RA inside the reserved region of its stack. -/
def raReserved (ra : Nat) : Bool :=
  decide (63000000000 ≤ ra % 2 ^ 36) && decide (ra % 2 ^ 36 < 64000000000)

/-- R204: the global range. -/
def inGlobal (va : Nat) : Bool := decide (0x00F0000000000000 ≤ va) && decide (va < 0x0100000000000000)

/-- The key of the arena-map leaf of an address in a context (R205). -/
def leafSlot (ctx va : Nat) : Nat := ctx * 2 ^ 40 + va / 65536
/-- Table 20.4: the leaf that marks a granule for a window's arena. -/
def leafWord (k : Nat) (rd wr : Bool) : BitVec 64 :=
  BitVec.ofNat 64 (2 ^ 63 + (if winGlobal k then 2 ^ 62 else 0) + (if rd then 2 ^ 61 else 0) + (if wr then 2 ^ 60 else 0) + winId k)
/-- The window that a leaf of a context names (Table 20.4). -/
def leafWin (ctx : Nat) (x : BitVec 64) : Nat := winKey ctx (x.getLsbD 62) (x.toNat % 4096)
/-- Does a leaf of a context name a window's arena? -/
def leafNames (ctx k : Nat) (x : BitVec 64) : Bool := x.getLsbD 63 && leafWin ctx x == k

/-- The window key under which a context's lost scratchpads stand (R134, R321): that of identifier 0, which no arena has. -/
def lostKey (ctx : Nat) : Nat := winKey ctx false 0

/-- R205: the window of the innermost arena that covers an address in a context, with the rights of the address's leaf, as
core checks see them. The first 64 KiB are never covered, only GLOBAL arenas cover the global range (R204), and no user
window covers a buffer arena (R257). -/
def State.cover (s : State) (ctx va : Nat) : Option (Nat × Win) :=
  let x := dget 0 s.leaves (leafSlot ctx va)
  let k := leafWin ctx x
  if va < 65536 ∨ 2 ^ 56 ≤ va ∨ x.getLsbD 63 = false ∨ winGlobal k ≠ inGlobal va then none
  else match kget s.wins k with
    | some w => if w.buffer ∨ w.state = .free then none else some (k, { w with rd := x.getLsbD 61, wr := x.getLsbD 60 })
    | none => none

/-! ### The core checks (R100) -/

/-- Who makes an access: context, core and privilege. -/
structure Who where
  ctx : Nat
  core : Nat
  super : Bool
  deriving DecidableEq, Repr

/-- The agent that a wave is (R328 for control cores). -/
def Wave.who (x : Wave) : Who := { ctx := x.ctx, core := x.core, super := x.super }

/-- R209: does the core lie inside a window's home instance? -/
def inHome (a : BitVec 64) (inst core : Nat) : Bool :=
  match attrHome a with
  | 2 => decide (core < 192) && decide (clusterOf core = inst)
  | 3 => decide (core < 192) && decide (sectionOf core = inst)
  | _ => true

/-- R24, R187: does a range of a block's SCRATCH arena, by offset, touch a divergence-stack region or the tail? -/
def scratchForbidden (n v len : Nat) : Bool :=
  let last := v + len - 1
  decide (0xBF00 ≤ v % 49152) || decide (0xBF00 ≤ last % 49152) || decide (v / 49152 ≠ last / 49152) ||
  decide (n * 49152 ≤ last)

/-- R24, R187: does a range of a SCRATCH window touch a divergence-stack region or the tail? -/
def State.scratchBad (s : State) (k : Nat) (w : Win) (va len : Nat) : Bool :=
  match kget s.wins (winKey (winCtx k) false w.sroot) with
  | some r => scratchForbidden r.nwaves (va - r.base) len
  | none => false

/-- R100: the check of one byte range against a window; the first failure as a trap code, in the order of the rule's
pseudocode after the alignment test. What reaches a lost scratchpad faults where it performs (R134). -/
def State.checkWin (s : State) (a : Who) (k : Nat) (w : Win) (va len : Nat) (reads writes : Bool) : Option Nat :=
  if w.lost then none
  else if w.state = .dropped then some 6
  else if w.base + w.size < va + len then some 4
  else if reads ∧ w.rd = false then some 4
  else if writes ∧ (w.state = .sealed ∨ w.wr = false) then some 4
  else if (attrKind w.attr == 3 && s.scratchBad k w va len) then some 4
  else if inHome w.attr w.inst a.core = false then some 5
  else none

/-- R100: the check of one byte range that a lane names: the window key and generation it passed with, or the code. -/
def State.checkRange (s : State) (a : Who) (va len align : Nat) (reads writes : Bool) : Except Nat (Nat × Nat) :=
  if va % align ≠ 0 then .error 3
  else if 2 ^ 56 ≤ va then .error 4
  else if inReserved va then
    if a.super ∧ raReserved (va % 2 ^ 40) ∧ raReserved ((va + len - 1) % 2 ^ 40) then .ok (reservedWin, 0) else .error 4
  else match s.cover a.ctx va with
    | none => .error 4
    | some (k, w) => match s.checkWin a k w va len reads writes with
      | some c => .error c
      | none => .ok (k, w.gen)

/-- The place of a code in the order in which R100 raises them: ALIGN, ARENA_GONE, ARENA_PERM, ARENA_SCOPE. -/
def faultRank : Nat → Nat
  | 3 => 0 | 6 => 1 | 4 => 2 | _ => 3

/-- R136, R258: where a wave's access to a range goes: the inherited view that holds it, or a partial overlap. -/
def State.viewOf (s : State) (x : Wave) (va len : Nat) : Except Nat (Option View) :=
  match s.block? x.block with
  | none => .ok none
  | some b => match kget s.tasks b.task with
    | none => .ok none
    | some t =>
      match t.views.find? fun v => v.inherited && decide (v.base < va + len) && decide (va < v.base + v.size) with
      | none => .ok none
      | some v => if v.base ≤ va ∧ va + len ≤ v.base + v.size then .ok (some v) else .error 4

/-- R100 for a wave's range, views redirected (R258): the address to use with its window key and generation. -/
def State.checkWave (s : State) (x : Wave) (va len align : Nat) (reads writes : Bool) : Except Nat (Nat × Nat × Nat) :=
  if va % align ≠ 0 then .error 3
  else match s.viewOf x va len with
    | .error c => .error c
    | .ok (some v) =>
      match kget s.wins v.bufWin with
      | none => .error 6
      | some w => match s.checkWin x.who v.bufWin w (v.buf + (va - v.base)) len reads writes with
        | some c => .error c
        | none => .ok (v.buf + (va - v.base), v.bufWin, w.gen)
    | .ok none => match s.checkRange x.who va len align reads writes with
      | .error c => .error c
      | .ok (k, g) => .ok (va, k, g)

/-- R100 over every range of an instruction: the ranges with their windows, or the trap: the first code of the rule's
order that any lane failed, with the mask of every failing lane. -/
def State.checkAll (s : State) (x : Wave) (align : Nat) (reads writes : Bool) (rs : List Req) : Except Trap (List Req) :=
  let outs := rs.map fun r => (r, s.checkWave x r.va r.len align reads writes)
  let bad := outs.filterMap fun o => match o.2 with
    | .error c => some (o.1, c)
    | .ok _ => none
  match bad with
  | [] => .ok (outs.filterMap fun o => match o.2 with
      | .ok (va, k, g) => some { o.1 with va := va, win := k, gen := g }
      | .error _ => none)
  | (_, c0) :: _ =>
    let code := bad.foldl (fun c e => if faultRank e.2 < faultRank c then e.2 else c) c0
    let mask := bad.foldl (fun m e => m ||| (1#32 <<< e.1.lane)) 0#32
    let va := match bad.find? fun e => e.2 == code with
      | some e => e.1.va
      | none => 0
    .error { Trap.of code mask with va := va % 2 ^ 56 }

/-! ### Descriptors (R302, Table 20.5) -/

/-- The key of word `i` of the descriptor of arena `id` of a table. -/
def State.descKey (s : State) (space id i : Nat) : Nat := raKey ((s.sysReg 0x0102 space).toNat + 64 * id + 8 * i)
/-- A descriptor word. -/
def State.desc (s : State) (space id i : Nat) : BitVec 64 := s.word (s.descKey space id i)
/-- A descriptor word written. -/
def State.setDesc (s : State) (space id i : Nat) (x : BitVec 64) : State := s.setWord (s.descKey space id i) x

/-- QUOTA of a descriptor. -/
def State.quota (s : State) (space id : Nat) : Nat := (s.desc space id 3).toNat / 2 ^ 32
/-- CHARGED of a descriptor. -/
def State.charged (s : State) (space id : Nat) : Nat := (s.desc space id 3).toNat % 2 ^ 32
/-- CHARGED written. -/
def State.setCharged (s : State) (space id n : Nat) : State :=
  s.setDesc space id 3 (BitVec.ofNat 64 (s.quota space id * 2 ^ 32 + n % 2 ^ 32))
/-- QUOTA written. -/
def State.setQuota (s : State) (space id q : Nat) : State :=
  s.setDesc space id 3 (BitVec.ofNat 64 (q % 2 ^ 32 * 2 ^ 32 + s.charged space id))

/-- An arena and its ancestors, innermost first, as (table, identifier) pairs (PARENT of Table 20.5). -/
def State.lineage (s : State) (ctx : Nat) : Nat → Nat → Nat → List (Nat × Nat)
  | 0, _, _ => []
  | fuel + 1, space, id =>
    let p := (s.desc space id 5).toNat % 2 ^ 17
    (space, id) :: (if p % 4096 = 0 then []
      else s.lineage ctx fuel (if 2 ^ 16 ≤ p then 64 else (if space = 64 then ctx else space)) (p % 4096))

/-- R214: one granule charged to an arena and every ancestor, or the identifier of the arena that refuses. -/
def State.charge (s : State) (k : Nat) : Except Nat State :=
  let ls := s.lineage (winCtx k) 4096 (winSpace k) (winId k)
  match ls.find? fun e => decide (s.quota e.1 e.2 < s.charged e.1 e.2 + 1) with
  | some e => .error e.2
  | none => .ok (ls.foldl (fun s e => s.setCharged e.1 e.2 (s.charged e.1 e.2 + 1)) s)

/-! ### Memory sets and page tables (R299 to R301) -/

/-- Set bits of a stack mask, lowest first. -/
def stacksOf (mask : Nat) : List Nat := (List.range 16).filter fun i => mask.testBit i
/-- log2 of the stack count of a memory set. -/
def State.msetLog (s : State) (m : Nat) : Nat := Nat.log2 (stacksOf (s.sysReg 0x0111 m).toNat).length
/-- R301: the stack that holds a byte of a granule. -/
def State.stackOf (s : State) (m va : Nat) : Nat :=
  let lg := s.msetLog m
  (stacksOf (s.sysReg 0x0111 m).toNat).getD (va / 4096 % 2 ^ lg) 0
/-- R301: the within-stack offset of a byte. -/
def State.offsetOf (s : State) (m addr va : Nat) : Nat :=
  addr % 2 ^ 24 * 4096 + va / 4096 % 16 / 2 ^ s.msetLog m * 4096 + va % 4096
/-- R301: the key of a byte of an HBM granule whose leaf holds ADDR. -/
def State.hbmKey (s : State) (m addr va : Nat) : Nat := s.stackOf m va * 2 ^ 36 + s.offsetOf m addr va

/-- R299: VA bits that index level 0 to 3. -/
def levelIndex (va level : Nat) : Nat := va / 2 ^ (46 - 10 * level) % 1024

/-- R299: the key of the level-3 entry of an address under a root register, or the level that is invalid. -/
def State.walk (s : State) (root : BitVec 64) (va : Nat) : Except Nat Nat :=
  let rec go : Nat → Nat → BitVec 64 → Except Nat Nat
    | 0, level, e => if e.getLsbD 63 then .ok (raKey ((e.extractLsb' 13 27).toNat * 8192 + 8 * levelIndex va level))
        else .error (level - 1)
    | n + 1, level, e =>
      if e.getLsbD 63 then
        go n (level + 1) (s.word (raKey ((e.extractLsb' 13 27).toNat * 8192 + 8 * levelIndex va level)))
      else .error (level - 1)
  go 3 0 root

/-- The page-table root that serves an address of a context (R298). -/
def State.ptRoot (s : State) (ctx va : Nat) : BitVec 64 := s.sysReg 0x0100 (if inGlobal va then 64 else ctx)
/-- The page-table leaf of an address; none where the walk fails, with the level. -/
def State.leafKey (s : State) (ctx va : Nat) : Except Nat Nat := s.walk (s.ptRoot ctx va) va
/-- Table 20.3: bytes of a page of size code PSZ. -/
def pageBytes : Nat → Nat
  | 0 => 65536 | 1 => 2097152 | 2 => 33554432 | _ => 1073741824
/-- R300: how far ADDR advances per granule of a page. -/
def State.addrStep (s : State) (tgt m : Nat) : Nat := if tgt = 0 then 16 / 2 ^ s.msetLog m else 1

/-- R6: entries that a memory base die's translation cache holds. -/
def transMax : Nat := 12288

/-- R300: an entry enters its die's translation cache; a full one first gives up an entry of the machine's choice. -/
def State.installTrans (s : State) (e : Trans) : State :=
  let held := s.trans.filter fun t => t.stack == e.stack
  if held.length < transMax then { s with trans := s.trans ++ [e] }
  else match held[Config.pick s.free % held.length]? with
    | some old => { s with trans := s.trans.filter (· != old) ++ [e], free := s.free + 1 }
    | none => { s with trans := s.trans ++ [e] }

/-- R300: the translation of an access at a memory base die: the leaf that serves it, from the translation cache or a
walk that installs one entry for the page; NOTPRESENT (8) and PERM_PAGE (9) with their INFO (R307). -/
def State.translate (s : State) (die ctx m va : Nat) (reads writes : Bool) : Except (Nat × Nat) (State × Trans) :=
  let c := if inGlobal va then 64 else ctx
  let perm (s : State) (e : Trans) : Except (Nat × Nat) (State × Trans) :=
    if (reads ∧ e.rd = false) ∨ (writes ∧ e.wr = false) then .error (9, 3 + (if writes then 4 else 0)) else .ok (s, e)
  match s.trans.find? fun e => e.stack == die && e.ctx == c && decide (e.base ≤ va) && decide (va < e.base + e.size) with
  | some e => perm s e
  | none => match s.leafKey ctx va with
    | .error l => .error (8, l + (if writes then 4 else 0))
    | .ok k =>
      let w := s.word k
      let tgt := (w.extractLsb' 61 2).toNat
      let addr := (w.extractLsb' 0 40).toNat
      if w.getLsbD 63 = false ∨ tgt = 3 ∨
          (tgt = 0 ∧ 63000000000 ≤ s.offsetOf m addr (va / 65536 * 65536 + 0xFFFF)) then
        .error (8, 3 + (if writes then 4 else 0))
      else
        let size := pageBytes (w.extractLsb' 56 2).toNat
        let base := va / size * size
        let e : Trans :=
          { stack := die, ctx := c, base := base, size := size, tgt := tgt, rd := w.getLsbD 60, wr := w.getLsbD 59
            ep := (w.extractLsb' 40 12).toNat, addr := (addr + 2 ^ 64 - (va - base) / 65536 * s.addrStep tgt m) % 2 ^ 40 }
        perm (s.installTrans e) e

/-- The ADDR of the granule of an address under a translation entry (R300). -/
def State.granuleAddr (s : State) (e : Trans) (m va : Nat) : Nat :=
  (e.addr + (va - e.base) / 65536 * s.addrStep e.tgt m) % 2 ^ 40

/-- The key of a byte behind a translation entry (R299, R301). -/
def State.transKey (s : State) (e : Trans) (m va : Nat) : Nat :=
  let a := s.granuleAddr e m va
  match e.tgt with
  | 0 => s.hbmKey m a va
  | 1 => hostKey (a * 65536 + va % 65536)
  | _ => peerKey e.ep (a * 65536 + va % 65536)

/-! ### Owner entries and first touch (R306, R211) -/

/-- The key of a word of the owner entry of an HBM byte (R306). -/
def ownKey (key i : Nat) : Nat :=
  raKey ((Config.ownBase (key / 2 ^ 36)).toNat + 16 * (key % 2 ^ 36 / 4096) + 8 * i)

/-- R306: does a fill of this address raise SYNONYM? -/
def State.synonym (s : State) (key ctx va : Nat) : Bool :=
  let w0 := s.word (ownKey key 0)
  let w1 := s.word (ownKey key 1)
  !w0.getLsbD 56 && (!w1.getLsbD 63 || (!w0.getLsbD 57 && decide ((w0.extractLsb' 58 6).toNat ≠ ctx)) ||
    decide ((w0.extractLsb' 16 40).toNat ≠ va / 65536))

/-- R306: is the granule backed for this arena and generation? -/
def State.backed (s : State) (key id gen : Nat) : Bool :=
  let w1 := s.word (ownKey key 1)
  w1.getLsbD 62 && decide ((w1.extractLsb' 58 4).toNat = gen) && decide ((w1.extractLsb' 0 12).toNat = id)

/-- R306: the table of the context that owns a frame, by word 0 of its owner entry. -/
def ownerSpace (w0 : BitVec 64) : Nat := if w0.getLsbD 57 then 64 else (w0.extractLsb' 58 6).toNat

/-- R218, R306: the window and generation for which a granule that an access reaches is backed: the access's own; for a frame
that the owner check exempts, those of the arena that covers the owner's granule, so that every mapping sees the same bytes. -/
def State.backer (s : State) (key ctx k : Nat) (w : Win) (gen : Nat) : Nat × Nat :=
  let w0 := s.word (ownKey key 0)
  if w.state = .sealed ∨ w0.getLsbD 56 then
    match s.cover (if w0.getLsbD 57 then ctx else (w0.extractLsb' 58 6).toNat) ((w0.extractLsb' 16 40).toNat * 65536) with
    | some (o, v) => if attrKind v.attr = 0 ∧ (v.state = .live ∨ v.state = .sealed) then (o, v.gen) else (k, gen)
    | none => (k, gen)
  else (k, gen)

/-- R211: is the granule of an HBM byte backed for an access? -/
def State.backedFor (s : State) (key ctx k : Nat) (w : Win) (gen : Nat) : Bool :=
  let (o, g) := s.backer key ctx k w gen
  s.backed key (winId o) g

/-- R211: is the granule of an HBM byte backed for another arena or generation than a line's? Nothing of the line goes there. -/
def State.backedOther (s : State) (key k : Nat) (w : Win) (gen : Nat) : Bool :=
  let w0 := s.word (ownKey key 0)
  (s.word (ownKey key 1)).getLsbD 62 &&
    !(s.backedFor key (winCtx k) k w gen && (w.state == .sealed || w0.getLsbD 56 || ownerSpace w0 == winSpace k))

/-- The sixteen 4 KiB pieces of a granule, by key. -/
def State.pieces (s : State) (m addr : Nat) : List Nat :=
  (List.range 16).map fun j => s.hbmKey m addr (j * 4096)

/-- The 64-bit pattern that fills an arena's granules: FILL twice, or FILLH and FILL for a W64 arena (R211), as its
descriptor holds them at the access's point (R302). -/
def State.fillWord (s : State) (k : Nat) : BitVec 64 :=
  let lo := attrFill (s.desc (winSpace k) (winId k) 4)
  (if (s.desc (winSpace k) (winId k) 6).getLsbD 62 then (s.desc (winSpace k) (winId k) 5).extractLsb' 32 32 else lo) ++ lo

/-- R211: a 4 KiB piece filled with a pattern. -/
def State.fillPiece (s : State) (key : Nat) (pat : BitVec 64) : State :=
  let s := s.clearBytes key 4096
  if pat = 0 then s else (List.range 512).foldl (fun s i => s.setWord (key + 8 * i) pat) s

/-- R306: the pieces of a granule record that it is backed for an arena and generation. -/
def State.setBacked (s : State) (keys : List Nat) (id gen : Nat) : State :=
  keys.foldl (fun s k =>
    let w1 := s.word (ownKey k 1)
    s.setWord (ownKey k 1) ((w1 &&& 0x8000000000000000#64) |||
      BitVec.ofNat 64 (2 ^ 62 + gen % 16 * 2 ^ 58 + id % 4096))) s

/-- R211, R214, R306: the first touch of a granule charges the arena and its ancestors, fills every piece and records
it; QUOTA (10) names the refusing arena. -/
def State.touch (s : State) (k gen m addr : Nat) : Except (Nat × Nat) State :=
  match s.charge k with
  | .error id => .error (10, id * 2 ^ 16)
  | .ok s =>
    let ps := s.pieces m addr
    .ok ((ps.foldl (fun s p => s.fillPiece p (s.fillWord k)) s).setBacked ps (winId k) gen)

/-! ### Sampling (R313) -/

/-- R313: an access reaches memory base die `die`; with SAMPN on, each N-th is sampled into the ring or counted as
dropped. -/
def State.sample (s : State) (die ctx : Nat) (glb : Bool) (va ty core : Nat) : State :=
  let n := (s.sysReg 0x0120 die).toNat % 2 ^ 32
  if n = 0 then s
  else
    let c := dget 0 s.sampled die + 1
    let s := { s with sampled := dset 0 s.sampled die (c % n) }
    if c < n then s
    else
      let base := s.sysReg 0x0121 die
      let head := (s.sysReg 0x0122 die).toNat
      let tail := (s.sysReg 0x0123 die).toNat
      if ringSize base ≤ tail - head then s.setSys 0x0124 die (s.sysReg 0x0124 die + 1)
      else
        let k := raKey (ringBase base + 32 * (tail % ringSize base))
        (s.setWords k [BitVec.ofNat 64 (fieldAt ctx 58 6 + (if glb then 2 ^ 57 else 0) + va % 2 ^ 56),
          BitVec.ofNat 64 (fieldAt ty 8 8 + fieldAt core 0 8), BitVec.ofNat 64 (s.clk / 2), 0]).setSys 0x0123 die
          (BitVec.ofNat 64 (tail + 1))

end Sys2Proof.Machine
end

