-- ==== Sys2Proof/Machine/Lines.lean ====
section
/-! DEFINITION. Lines and their coherence points: placement (R304, R329), fills (R300, R306, R211), timestamps
(R225, R226, R228), copies and leases, SYNC pushes (R234), exclusive ownership (R235), host halves (R322, R323),
poison (R337), watches (R129), write-back and invalidation. -/
namespace Sys2Proof.Machine

/-! ### Names of lines -/

/-- R217: the tag of a line: descriptor table, identifier, generation, VA. -/
def lineTag (wk gen va : Nat) : Nat := ((winSpace wk * 4096 + winId wk) * 16 + gen % 16) * 2 ^ 49 + va / 128 % 2 ^ 49
/-- The descriptor table of a tag. -/
def tagSpace (k : Nat) : Nat := k / 2 ^ 65
/-- The identifier of a tag. -/
def tagId (k : Nat) : Nat := k / 2 ^ 53 % 4096
/-- The generation of a tag. -/
def tagGen (k : Nat) : Nat := k / 2 ^ 49 % 16
/-- The VA of a tag's line. -/
def tagVa (k : Nat) : Nat := k % 2 ^ 49 * 128
/-- The name of a line of the reserved arena (R297). -/
def resTag (va : Nat) : Nat := 2 ^ 100 + va % 2 ^ 40 / 128
/-- The key of a cluster's L1 copy of a line. -/
def l1Key (cluster line : Nat) : Nat := cluster * 2 ^ 80 + line

/-- A 128-byte line that an access meets: 0 HBM, 1 HOST, 2 PEER, 3 SCRATCH, 4 reserved; its name; its window. -/
structure Loc where
  kind : Nat
  key : Nat
  wk : Nat
  va : Nat
  deriving DecidableEq, Repr

/-- The cluster whose L1 serves an agent; control cores and agents outside the cores have none. -/
def Who.cluster (a : Who) : Option Nat := if a.core < 192 then some (clusterOf a.core) else none

/-- The line that a checked range lies in. -/
def State.locOf (s : State) (r : Req) : Loc :=
  if r.win = reservedWin then { kind := 4, key := resTag r.va, wk := r.win, va := r.va / 128 * 128 }
  else
    let kind := match kget s.wins r.win with
      | some w => attrKind w.attr
      | none => 0
    { kind := kind, key := lineTag r.win r.gen r.va, wk := r.win, va := r.va / 128 * 128 }

/-- The distinct lines of an access. -/
def State.locsOf (s : State) (rs : List Req) : List Loc := (rs.map s.locOf).eraseDups

/-- A window that shows an arena, for a line that no access carries: the first context's. -/
def State.winOfTag (s : State) (key : Nat) : Option (Nat × Win) :=
  s.wins.find? fun e => winSpace e.1 == tagSpace key && winId e.1 == tagId key

/-! ### Placement (R304, R305, R329) -/

/-- R329: the placement in force for an arena: L2HM's value, with DOM in bits 11:8. -/
def State.placement (s : State) (wk : Nat) (attr : BitVec 64) : BitVec 64 :=
  (kget s.place (winSpace wk * 4096 + winId wk)).getD
    (s.sysReg 0x0110 (attrDom attr) ||| (BitVec.ofNat 64 (attrDom attr) <<< 8))

/-- R304: the xor of the fields of `lc` bits of a line number. -/
def hashFields (lc : Nat) : Nat → Nat → Nat
  | 0, _ => 0
  | n + 1, h => Nat.xor (h % 2 ^ lc) (hashFields lc n (h / 2 ^ lc))

/-- R304: the slice of a line under a placement. -/
def sliceOf (p : BitVec 64) (va : Nat) : Nat :=
  let base := (p.extractLsb' 56 7).toNat
  let lc := (p.extractLsb' 53 3).toNat
  if p.getLsbD 63 = false ∨ lc = 0 then base
  else base + Nat.xor (hashFields lc 49 (va % 2 ^ 56 / 128)) ((p.extractLsb' 0 7).toNat % 2 ^ lc)

/-- The slices that a placement spreads lines over. -/
def slicesOf (p : BitVec 64) : List Nat :=
  let lc := (p.extractLsb' 53 3).toNat
  (List.range (if p.getLsbD 63 then 2 ^ lc else 1)).map ((p.extractLsb' 56 7).toNat + ·)

/-- The home slice of a line. -/
def State.homeOf (s : State) (l : Loc) : Nat :=
  match kget s.wins l.wk with
  | some w => sliceOf (s.placement l.wk w.attr) l.va
  | none => 0

/-! ### Times (R225, R226, R228) -/

/-- An address of a SCRATCH arena as an offset into its block's range, with the context and the identifier that the block
received at launch (R187). -/
def State.scratchAt (s : State) (wk va : Nat) : Nat × Nat × Nat :=
  let ctx := winCtx wk
  let root := match kget s.wins wk with
    | some w => w.sroot
    | none => winId wk
  let base := match kget s.wins (winKey ctx false root) with
    | some r => r.base
    | none => 0
  (ctx, root, va - base)

/-- R316, R317: the RA of wave i's part of a saved image, for an offset into the block's range; none while the block holds
its slots. -/
def State.imageAt (s : State) (wk va : Nat) : Option (Nat × Nat) :=
  let (ctx, root, v) := s.scratchAt wk va
  if (s.desc ctx root 6).getLsbD 63 then
    some ((s.desc ctx root 7).toNat % 2 ^ 40 + 0x20000 * (v / 49152 + 1), v % 49152)
  else none

/-- R187, R303, R317: the key of the byte at an address of a SCRATCH arena: in the share of wave i's slot, or in the
saved image. -/
def State.scratchByte (s : State) (wk : Nat) (va : Nat) : Nat :=
  match s.imageAt wk va with
  | some (w, v) => raKey (w + v)
  | none =>
    let (ctx, root, v) := s.scratchAt wk va
    let w6 := s.desc ctx root 6
    match s.blocks.find? fun b => b.2.ctx == ctx && b.2.scratchWin == root && !b.2.away with
    | some (_, b) => scratchKey b.core (b.slots.getD (v / 49152) 0 * 49152 + v % 49152)
    | none => scratchKey (w6.extractLsb' 8 8).toNat ((w6.extractLsb' 16 24).toNat + v)

/-- R226: the name under which a line outside the slices keeps its times: a scratchpad's own line, whatever arena names
it, or a line of the reserved arena. -/
def State.timeSlot (s : State) (l : Loc) : Nat := if l.kind = 4 then l.key else s.scratchByte l.wk l.va / 128

/-- R303, R316: the key of the wts, before the rts, that a saved image keeps for a SCRATCH line. -/
def State.savedTimes (s : State) (l : Loc) : Option Nat :=
  if l.kind = 3 then (s.imageAt l.wk l.va).map fun p => raKey (p.1 + 0xC400 + 16 * (p.2 / 128)) else none

/-- wts and rts of a line. -/
def State.times (s : State) (l : Loc) : Nat × Nat :=
  if 3 ≤ l.kind then
    match s.savedTimes l with
    | some k => ((s.word k).toNat, (s.word (k + 8)).toNat)
    | none => dget (0, 0) s.ltime (s.timeSlot l)
  else match kget s.lines l.key with
    | some x => (x.wts, x.rts)
    | none => let b := dget 0 s.sliceBase (s.homeOf l); (b, b)

/-- R228: a slice raises its base to `b`. -/
def State.rebase (s : State) (slice b : Nat) : State :=
  if b ≤ dget 0 s.sliceBase slice then s
  else { s with
    sliceBase := dset 0 s.sliceBase slice b
    lines := s.lines.map fun e =>
      (e.1, if e.2.slice = slice then { e.2 with wts := max b e.2.wts, rts := max b e.2.rts } else e.2) }

/-- R228: a slice whose 20-bit offset of a time would overflow raises its base as little as it must. -/
def State.keepOffset (s : State) (slice t : Nat) : State := s.rebase slice (t - (2 ^ 20 - 1))

/-- A line takes its times. -/
def State.setTimes (s : State) (l : Loc) (wts rts : Nat) : State :=
  if 3 ≤ l.kind then
    match s.savedTimes l with
    | some k => (s.setWord k (BitVec.ofNat 64 wts)).setWord (k + 8) (BitVec.ofNat 64 rts)
    | none => { s with ltime := dset (0, 0) s.ltime (s.timeSlot l) (wts, rts) }
  else match kget s.lines l.key with
    | none => s
    | some x =>
      let s := { s with lines := kset s.lines l.key { x with wts := wts, rts := rts } }
      s.keepOffset x.slice rts

/-- R225, R226, Table 5.9: the lease that a load of a line grants. -/
def State.leaseOf (s : State) (l : Loc) : Nat :=
  if 3 ≤ l.kind then 0 else match kget s.wins l.wk with
    | some w => if attrSync w.attr then 0 else attrLease w.attr
    | none => 0

/-- Is a line of a SYNC arena? -/
def State.isSync (s : State) (l : Loc) : Bool :=
  decide (l.kind < 3) && (match kget s.wins l.wk with
    | some w => attrSync w.attr
    | none => false)

/-! ### Bytes -/

/-- The memory key of a byte that no slice caches. -/
def State.flatKey (s : State) (l : Loc) (va : Nat) : Nat :=
  if l.kind = 4 then raKey (va % 2 ^ 40) else s.scratchByte l.wk va

/-- Bytes of a line at its coherence point. -/
def State.readAt (s : State) (l : Loc) (va n : Nat) : List Byte :=
  if 3 ≤ l.kind then s.bytes (s.flatKey l va) n
  else match kget s.lines l.key with
    | some x => (x.data.drop (va % 128)).take n
    | none => List.replicate n 0

/-- A list with another list written over it from a position. -/
def overlay (old : List Byte) (at_ : Nat) (new : List Byte) : List Byte :=
  old.take at_ ++ new ++ old.drop (at_ + new.length)

/-- The numbers of the aligned 8-byte words that lie wholly inside a range. -/
def wholeWords (a n : Nat) : List Nat :=
  (List.range (n / 8)).filterMap fun i => if (a + 7) / 8 * 8 + 8 * (i + 1) ≤ a + n then some ((a + 7) / 8 + i) else none

/-- R322: a half of a HOST line stored to: owned first, then M. -/
def storeHalf (h : Nat × Nat) (upper : Bool) : Nat × Nat :=
  let h := if h.1 ≤ 1 then (2, 2) else h
  if upper then (h.1, 3) else (3, h.2)
/-- R322: every half that a store of `n` bytes from place `a` of a HOST line touches. -/
def storeHalves (h : Nat × Nat) (a n : Nat) : Nat × Nat :=
  let h := if a < 64 then storeHalf h false else h
  if 64 < a + n then storeHalf h true else h

/-- Bytes written into a line at its coherence point; whole words written lose their poison (R337). -/
def State.writeAt (s : State) (l : Loc) (va : Nat) (bs : List Byte) : State :=
  if 3 ≤ l.kind then
    let k := s.flatKey l va
    { s.setBytes k bs with poison := s.poison.filter fun p => !(wholeWords k bs.length).contains p }
  else { s with
    lines := kmod s.lines l.key fun x => { x with
      data := overlay x.data (va % 128) bs
      dirty := true
      halves := if l.kind = 1 then storeHalves x.halves (va % 128) bs.length else x.halves
      poison := x.poison.filter fun p => !(wholeWords (va % 128) bs.length).contains p } }

/-- Does a set of ranges, each a first byte and a length, hold every byte of an aligned 8-byte word? -/
def coversWord (rs : List (Nat × Nat)) (p : Nat) : Bool :=
  (List.range 8).all fun i => rs.any fun r => decide (r.1 ≤ 8 * p + i) && decide (8 * p + i < r.1 + r.2)

/-- R337: words of a line that the ranges of one store cover between them lose their poison. -/
def State.unpoison (s : State) (l : Loc) (rs : List Req) : State :=
  if 3 ≤ l.kind then
    if s.poison.isEmpty then s
    else { s with poison := s.poison.filter fun p => !coversWord (rs.map fun r => (s.flatKey l r.va, r.len)) p }
  else { s with lines := kmod s.lines l.key fun x => { x with
      poison := x.poison.filter fun p => !coversWord (rs.map fun r => (r.va % 128, r.len)) p } }

/-- R337: is a byte of a range poisoned? -/
def State.poisoned (s : State) (l : Loc) (va n : Nat) : Bool :=
  let words (k : Nat) : List Nat := (List.range ((k % 8 + n + 7) / 8)).map (k / 8 + ·)
  if 3 ≤ l.kind then
    if s.poison.isEmpty then false else (words (s.flatKey l va)).any s.poison.contains
  else match kget s.lines l.key with
    | some x => if x.poison.isEmpty then false else (words (va % 128)).any x.poison.contains
    | none => false

/-! ### Watches (R129) -/

/-- Every watch armed on a line fires. -/
def State.fireWatches (s : State) (key : Nat) : State :=
  { s with waves := s.waves.map fun e =>
      (e.1, if e.2.watches.any (fun t => t.2.armed && t.2.line == key) then
          { e.2 with watches := e.2.watches.map fun t =>
              (t.1, if t.2.armed && t.2.line == key then { t.2 with fired := true } else t.2) }
        else e.2) }

/-- Every watch armed on a line that `p` picks fires. -/
def State.fireWhere (s : State) (p : Nat → Bool) : State :=
  { s with waves := s.waves.map fun e =>
      (e.1, { e.2 with watches := e.2.watches.map fun t =>
        (t.1, if t.2.armed && p t.2.line then { t.2 with fired := true } else t.2) }) }

/-! ### Frames behind lines: frozen granules, write-back -/

/-- R310: the requests for a page that a migration has begun to copy wait. -/
def State.migrating (s : State) (wk va : Nat) : Bool :=
  match s.pageOp with
  | some p => decide (0 < p.moved) && decide (p.va ≤ va) && decide (va < p.va + p.size) &&
      (winGlobal wk || winCtx wk == p.ctx)
  | none => false

/-- R334: is the granule of an address frozen and not yet copied, so that a write, or the first touch of an arena or
generation that follows the frozen one there (R215), waits for the copy? -/
def State.frozenAt (s : State) (wk gen va : Nat) (wr : Bool) : Bool :=
  s.frozen.any fun f => f.copy.isNone && f.win / 4096 == winSpace wk && f.va == va / 65536 &&
    (wr || f.win % 4096 != winId wk || f.gen != gen)

/-- The context whose page tables serve a tag (R298: the global range has its own root). -/
def tagCtx (k : Nat) : Nat := tagSpace k % 64

/-- A line's 128 bytes, with their poison, written to memory at a key; the words are whole again (R337). -/
def State.putLine (s : State) (k : Nat) (x : Line) : State :=
  let ws := (List.range 16).map (k / 8 + ·)
  { s.setBytes k x.data with
    poison := (s.poison.filter fun p => !ws.contains p) ++ x.poison.map (k / 8 + ·)
    flaws := s.flaws.filter fun f => f / 4 != k / 128 }

/-- Data of a line written to its frame, host or peer memory under its present translation (R107, R300); `ask` says whether the
page must allow writes. What a frame holds for another arena stays (R211). -/
def State.writeOut (s : State) (key : Nat) (ask : Bool) : Except (Nat × Nat) State :=
  match kget s.lines key with
  | none => .ok s
  | some x =>
    if x.dirty = false then .ok s
    else match s.winOfTag key with
      | none => .ok s
      | some (wk, w) =>
        let m := attrMset w.attr
        let va := tagVa key
        let die := s.stackOf m va
        match s.translate die (tagCtx key) m va false ask with
        | .error e => .error e
        | .ok (s, e) =>
          let k := s.transKey e m va
          let s := if e.tgt = 0 ∧ s.backedOther k wk w (tagGen key) then s else s.putLine k x
          let s : State := { s with
            lines := kset s.lines key { x with dirty := false, halves := if x.halves = (0, 0) then (0, 0) else (2, 2) } }
          .ok (s.sample die (tagCtx key) (tagSpace key == 64) va 1 x.writer)

/-- R107: a line's write-back, which its page must allow. -/
def State.writeBack (s : State) (key : Nat) : Except (Nat × Nat) State := s.writeOut key true

/-- Every L1 copy of a line gone. -/
def State.dropCopies (s : State) (key : Nat) : State :=
  { s with l1 := s.l1.filter fun e => decide (e.1 % 2 ^ 80 ≠ key) }

/-- The largest time at which a line has been read or written, its sharers' reads among them (R225, R234). -/
def Line.lastTime (x : Line) : Nat := x.sharers.foldl (fun t q => max t q.2) (max x.wts x.rts)

/-- A line leaves its slice without write-back; the slice's base keeps its times (R228), those of its sharers among them
(R234). -/
def State.dropLine (s : State) (key : Nat) : State :=
  match kget s.lines key with
  | none => s
  | some x => ({ s with lines := kdel s.lines key } : State).rebase x.slice x.lastTime

/-- Does a tag name a line of a SYNC arena? -/
def State.syncTag (s : State) (key : Nat) : Bool := match s.winOfTag key with
  | some (_, w) => attrSync w.attr
  | none => false

/-- A line leaves its slice, a dirty one written back first. L1 copies keep serving until their leases end, so the slice's base
keeps the line's times; copies of a SYNC line have no lease and go with it. -/
def State.leaveSlice (s : State) (key : Nat) : Except (Nat × Nat) State :=
  match s.writeBack key with
  | .error e => .error e
  | .ok s => .ok (if s.syncTag key then (s.dropLine key).dropCopies key else s.dropLine key)

/-- R216, R217: is the tag of an ended generation, or of a dropped arena? -/
def State.deadTag (s : State) (key : Nat) : Bool :=
  match s.winOfTag key with
  | some (_, w) => decide (w.state = .dropped) || decide (w.state = .free) || decide (w.gen ≠ tagGen key)
  | none => true

/-- R107, R108, R216: eviction of a line: a dead one is discarded, a pinned one stays, another leaves its slice. The key of an L1
copy names that copy. -/
def State.evict (s : State) (key : Nat) : State :=
  match kget s.lines key with
  | none => { s with l1 := kdel s.l1 key }
  | some x =>
    if s.deadTag key then (s.dropLine key).dropCopies key
    else if x.pinned then s
    else match s.leaveSlice key with
      | .error _ => s
      | .ok s => s

/-- R6: the lines that an L2 slice (3 MiB) and an L1 slice (2 MiB) hold. -/
def sliceLines : Nat := 24576
/-- R6: the lines of a cluster's L1. -/
def l1Lines : Nat := 16384

/-- R6: a full slice gives up an unpinned line of the machine's choice before it takes another; it keeps the lines that the access
under way has met, named in `keep`. -/
def State.makeRoom (s : State) (slice : Nat) (keep : List Nat) : State :=
  let held := s.lines.filter fun e => e.2.slice == slice
  if held.length < sliceLines then s
  else
    let loose := held.filter fun e => !e.2.pinned && !keep.contains e.1
    match loose[Config.pick s.free % loose.length]? with
    | some e => ({ s with free := s.free + 1 } : State).evict e.1
    | none => s

/-- R6: a full L1 gives up a copy of the machine's choice before it takes another. -/
def State.makeL1Room (s : State) (c key : Nat) : State :=
  let held := s.l1.filter fun e => e.1 / 2 ^ 80 == c
  if held.length < l1Lines || held.any (fun e => e.1 == l1Key c key) then s
  else match held[Config.pick s.free % held.length]? with
    | some e => { s with l1 := kdel s.l1 e.1, free := s.free + 1 }
    | none => s

/-! ### Peer links (R241) -/

/-- The endpoint behind a PEER line. -/
def State.linkOf (s : State) (ctx m va : Nat) : Option Nat :=
  match s.translate (s.stackOf m va) ctx m va false false with
  | .ok (_, e) => if e.tgt = 2 then some e.ep else none
  | .error _ => none

/-- R241: a link's time follows the largest ts that it has served. -/
def State.noteLink (s : State) (ep ts : Nat) : State :=
  { s with eps := kmod s.eps ep fun e => { e with time := max e.time ts } }

/-- R241: the time that an access over a link takes at the peer: no smaller than the carried time, the link's time and the
line's bound there, which is the peer's own (a free value). -/
def State.remoteTime (s : State) (ep pts : Nat) : State × Nat :=
  let t := max pts (max (((kget s.eps ep).map (·.time)).getD 0) (Config.peerTime s.free))
  (({ s with free := s.free + 1 } : State).noteLink ep t, t)

/-! ### Fills (R211, R300, R306, R320) -/

/-- R337: an error of a kind at a stack is counted. -/
def State.countErr (s : State) (e : Nat) : State := { s with errs := dset 0 s.errs e (dget 0 s.errs e + 1) }
/-- R337: a corrected symbol of an HBM word is counted for its channel. -/
def State.countFlaw (s : State) (f : Nat) : State := s.countErr (f / 2 ^ 31 * 64 + Config.channelOf f % 32)
/-- R337: the corrected symbols among an HBM line's four words are counted. -/
def State.countFlaws (s : State) (k : Nat) : State := (s.flaws.filter fun f => f / 4 == k / 128).foldl State.countFlaw s

/-- R211, R214, R306: the granule of an HBM line that an access meets is charged and filled for the arena that it is backed for,
unless it is already. -/
def State.firstTouch (s : State) (a : Who) (l : Loc) (w : Win) (gen : Nat) (e : Trans) : Except (Nat × Nat) State :=
  let m := attrMset w.attr
  let k := s.transKey e m l.va
  if e.tgt = 0 ∧ l.kind = 0 ∧ s.backedFor k a.ctx l.wk w gen = false then
    let (o, g) := s.backer k a.ctx l.wk w gen
    s.touch o g m (s.granuleAddr e m l.va)
  else .ok s

/-- A line read from behind its slice on behalf of an access (R218); a store to a clean line asks the frame again. `pts` is the time
that goes over a peer's link (R241), `keep` the lines that the access has met. -/
def State.fill (s : State) (a : Who) (l : Loc) (w : Win) (gen : Nat) (rd wr : Bool) (ty pts : Nat) (keep : List Nat) :
    Except (Nat × Nat) State :=
  match kget s.lines l.key with
  | some x =>
    if wr = false ∨ x.dirty then .ok s
    else
      let m := attrMset w.attr
      let die := s.stackOf m l.va
      match s.translate die a.ctx m l.va false true with
      | .error e => .error e
      | .ok (s, _) => .ok (s.sample die a.ctx (winGlobal l.wk) l.va ty a.core)
  | none =>
    if l.kind = 1 ∧ s.linkUp = false then .error (8, 3 + (if wr then 4 else 0))
    else
      let m := attrMset w.attr
      let die := s.stackOf m l.va
      match s.translate die a.ctx m l.va rd wr with
      | .error e => .error e
      | .ok (s, e) =>
        let k := s.transKey e m l.va
        let s := s.sample die a.ctx (winGlobal l.wk) l.va ty a.core
        if e.tgt = 0 ∧ w.state ≠ .sealed ∧ s.synonym k a.ctx l.va then .error (7, if wr then 4 else 0)
        else
          match s.firstTouch a l w gen e with
          | .error e => .error (e.1, e.2 + (if wr then 4 else 0))
          | .ok s =>
            let slice := s.homeOf l
            let s := s.makeRoom slice keep
            let s := if e.tgt = 0 then s.countFlaws k else s
            let (s, t) := if e.tgt = 2 then s.remoteTime e.ep pts else (s, 0)
            let b := max t (dget 0 s.sliceBase slice)
            let x : Line :=
              { data := s.bytes k 128, dirty := false, pinned := false, wts := b, rts := b, sharers := [], owner := none
                slice := slice, poison := (List.range 16).filter fun i => s.poison.contains (k / 8 + i)
                halves := if l.kind = 1 then (if wr then (2, 2) else (1, 1)) else (0, 0) }
            .ok (({ s with lines := kset s.lines l.key x } : State).keepOffset slice b)

/-! ### Meeting the coherence point -/

/-- What one range of an access meets at its coherence point. -/
inductive Met where
  | ok
  | vanish
  | wait
  | fault (code info : Nat)
  deriving DecidableEq, Repr

/-- The TYPE of Table 20.11 of an access whose model code is `ty`: 5 is a merge's, 6 a RED's, 7 a SYSTEM-scope ATOM's or
CAS's, 8 a SYSTEM-scope RED's. -/
def sampleType : Nat → Nat
  | 5 => 3
  | 6 | 7 | 8 => 2
  | t => t
/-- Table 5.10: a RED returns nothing, so that it vanishes where an ATOM is replayed or faults. -/
def noReturn (ty : Nat) : Bool := ty == 6 || ty == 8
/-- Table 5.6: a SYSTEM-scope atomic executes behind the slice. -/
def behindSlice (ty : Nat) : Bool := ty == 7 || ty == 8

/-- R112: before an atomic executes behind its slice, the slice writes a dirty copy back; at a peer it meets the peer's own
bytes, at a time no smaller than the one that it carries (R241). -/
def State.goBehind (s : State) (a : Who) (l : Loc) (w : Win) (pts : Nat) : Except (Nat × Nat) State :=
  match s.writeBack l.key with
  | .error e => .error e
  | .ok s =>
    if l.kind ≠ 2 then .ok s
    else match s.translate (s.stackOf (attrMset w.attr) l.va) a.ctx (attrMset w.attr) l.va true true with
      | .error e => .error e
      | .ok (s, e) =>
        let (s, t) := s.remoteTime e.ep pts
        let s : State := { s with lines := kmod s.lines l.key fun x => { x with
          data := s.bytes (s.transKey e (attrMset w.attr) l.va) 128, rts := max x.rts t, wts := max x.wts t } }
        .ok (s.keepOffset (s.homeOf l) t)

/-- An access's line is in its slice, or ready for an atomic behind it, which reaches the die also where the slice holds the
line dirty (R313). -/
def State.reach (s : State) (a : Who) (l : Loc) (w : Win) (gen : Nat) (rd wr : Bool) (ty pts : Nat) (keep : List Nat) :
    Except (Nat × Nat) State :=
  let dirty := match kget s.lines l.key with
    | some x => x.dirty
    | none => false
  match s.fill a l w gen rd wr (sampleType ty) pts keep with
  | .error e => .error e
  | .ok s =>
    if behindSlice ty then
      let s := if dirty then s.sample (s.stackOf (attrMset w.attr) l.va) a.ctx (winGlobal l.wk) l.va (sampleType ty) a.core else s
      s.goBehind a l w pts
    else .ok s

/-- R246: a merge of a target holds every other access to its lines. -/
def State.mergeHolds (s : State) (wk va : Nat) : Bool :=
  s.tasks.any fun t => match t.2.merge with
    | some m => !m.queued && decide (m.base ≤ va + 127) && decide (va < m.base + m.size) &&
        (winGlobal wk || winCtx wk == m.ctx)
    | none => false

/-- R323: the snoops that an access to a SYSTEM-home device line must wait for. -/
def State.hostConflict (s : State) (w : Win) (l : Loc) (wr : Bool) : Bool :=
  if attrHome w.attr = 5 ∧ l.kind = 0 then
    let h := dget (0, 0) s.hostHalf l.key
    if wr then h != (0, 0) else h.1 == 2 || h.2 == 2
  else false

/-- R134, R321: does an address lie in a scratchpad that its block's core has lost? -/
def State.lostAt (s : State) (ctx va : Nat) : Bool := match s.cover ctx va with
  | some (_, w) => w.lost
  | none => false

/-- R313: an access to a saved scratchpad reaches the die of its image. -/
def State.sampleImage (s : State) (a : Who) (l : Loc) (ty : Nat) : State := match s.imageAt l.wk l.va with
  | some (ra, _) => s.sample (ra % 2 ^ 40 / 2 ^ 36) a.ctx (winGlobal l.wk) l.va ty a.core
  | none => s

/-- R334: a write that meets a frozen granule asks for its copy. -/
def State.askCopy (s : State) (wk va : Nat) : State :=
  let q := (winSpace wk, va / 65536)
  { s with asked := if s.asked.contains q then s.asked else s.asked ++ [q] }

/-- One range of an access reaches its coherence point: Table 5.10, the holds of R246, R310, R323 and R334, the faults of
Table 5.11, and that of an access that needs the bridge while the link is down (R320). `ty` is the access's code
(`sampleType`). A refusal by a slice that is not the home under the placement in force (R329) changes nothing and is replayed to the home, which is where this step stands. An identifier that has
passed to an arena elsewhere names nothing at the range: its arena is gone. `pts` is the access's time, `keep` the lines that it has
met. -/
def State.meet (s : State) (a : Who) (ty pts : Nat) (rd wr : Bool) (keep : List Nat) (r : Req) : State × Req × Met :=
  let sty := sampleType ty
  let back := rd && !noReturn ty
  if r.win = reservedWin then
    let s := s.sample (r.va % 2 ^ 40 / 2 ^ 36) a.ctx true r.va sty a.core
    (s, r, if rd && s.poisoned (s.locOf r) r.va r.len then .fault 17 0 else .ok)
  else if s.lostAt a.ctx r.va then (s, r, .fault 8 (3 + (if wr then 4 else 0)))
  else match kget s.wins r.win with
    | none => (s, r, if back then .fault 6 0 else .vanish)
    | some w =>
      if w.state = .dropped ∨ w.state = .free ∨ r.va < w.base ∨ w.base + w.size ≤ r.va then (s, r, if back then .fault 6 0 else .vanish)
      else if w.lost then (s, r, .fault 8 (3 + (if wr then 4 else 0)))
      else if w.gen ≠ r.gen ∧ back = false then (s, r, .vanish)
      else
        let r := { r with gen := w.gen }
        let l := s.locOf r
        if ty ≠ 5 ∧ s.mergeHolds r.win l.va then (s, r, .wait)
        else if l.kind = 3 then (s.sampleImage a l sty, r, if rd && s.poisoned l r.va r.len then .fault 17 0 else .ok)
        else if s.migrating r.win r.va then (s, r, .wait)
        else if s.hostConflict w l wr && !s.linkUp then (s, r, .fault 8 (3 + (if wr then 4 else 0)))
        else if s.hostConflict w l wr then
          let q := 2 * l.key + (if wr then 1 else 0)
          ({ s with hostAck := if s.hostAck.contains q then s.hostAck else s.hostAck ++ [q] }, r, .wait)
        else if s.frozenAt r.win r.gen r.va wr then (s.askCopy r.win r.va, r, .wait)
        else match s.reach a l w r.gen rd wr ty pts keep with
          | .error e => (s, r, .fault e.1 e.2)
          | .ok s => (s, r, if rd && s.poisoned l r.va r.len then .fault 17 0 else .ok)

/-- Every range of an access meets its coherence point, in order; the slices keep the lines met, named in `keep`. -/
def State.meetAll (s : State) (a : Who) (ty pts : Nat) (rd wr : Bool) (keep : List Nat) : List Req → State × List (Req × Met)
  | [] => (s, [])
  | r :: rs =>
    let (s, r, m) := s.meet a ty pts rd wr keep r
    let (s, t) := s.meetAll a ty pts rd wr ((s.locOf r).key :: keep) rs
    (s, (r, m) :: t)

/-! ### Performing (R225, R234, R235) -/

/-- The time that one line requires of an access at its coherence point. -/
def State.bound (s : State) (l : Loc) (wr : Bool) : Nat :=
  let (wts, rts) := s.times l
  if wr then (if s.isSync l then max wts rts + 1 else rts + 1) else wts

/-- R225: the one time of an access over its lines. -/
def State.tsOf (s : State) (pts : Nat) (wr : Bool) (ls : List Loc) : Nat :=
  ls.foldl (fun t l => max t (s.bound l wr)) pts

/-- R235: before a slice serves another cluster, it recalls an exclusively held line. -/
def State.recall (s : State) (l : Loc) (c : Option Nat) : State :=
  { s with lines := kmod s.lines l.key fun x => if x.owner = c then x else { x with owner := none } }

/-- A line's update by a load at `ts`: the lease, and an L1 copy for the agent's cluster (R225, R234). -/
def State.loadTimes (s : State) (a : Who) (copy : Bool) (ts : Nat) (l : Loc) : State :=
  let (wts, rts) := s.times l
  let s := s.recall l a.cluster
  let sync := s.isSync l
  let rts' := max rts (ts + s.leaseOf l)
  let s := if sync then s else s.setTimes l wts rts'
  match a.cluster, kget s.lines l.key with
  | some c, some x =>
    if copy = false ∨ 3 ≤ l.kind ∨ x.poison ≠ [] then (if sync then s.setTimes l wts (max rts ts) else s)
    else
      let s := s.makeL1Room c l.key
      let s := { s with l1 := kset s.l1 (l1Key c l.key) { data := x.data, wts := wts, rts := rts', held := false } }
      if sync then { s with lines := kmod s.lines l.key fun y => { y with sharers := kset y.sharers c (max ts (dget 0 y.sharers c)) } }
      else s
  | _, _ => if sync then s.setTimes l wts (max rts ts) else s

/-- R234: a SYNC line's sharers hold its value of time `ts`. -/
def State.freshCopies (s : State) (ts : Nat) (l : Loc) : State :=
  if s.isSync l then
    match kget s.lines l.key with
    | some x => { s with l1 := s.l1.map fun e =>
        (e.1, if e.1 % 2 ^ 80 = l.key then { data := x.data, wts := ts, rts := ts, held := false, poison := x.poison } else e.2) }
    | none => s
  else s

/-- A line's update by a write at `ts`, or by a read-modify-write that leaves it as it is (`wrote` false); the watches on a line
written fire. -/
def State.writeTimes (s : State) (a : Who) (wrote : Bool) (ts : Nat) (l : Loc) : State :=
  let s := (s.recall l a.cluster).setTimes l ts ts
  let s : State := if wrote then { s.fireWatches l.key with lines := kmod s.lines l.key fun x => { x with writer := a.core } } else s
  s.freshCopies ts l

/-- R234: has the agent's cluster applied a pushed value of a SYNC line whose store has not performed? A load there waits for
the update's time. -/
def State.copyHeld (s : State) (a : Who) (ls : List Loc) : Bool := match a.cluster with
  | none => false
  | some c => ls.any fun l => s.isSync l && (match kget s.l1 (l1Key c l.key) with
    | some y => y.held
    | none => false)

/-- R225, l1hit: may the agent's cluster serve a line to a load at `pts`? -/
def State.l1Hit (s : State) (a : Who) (pts : Nat) (l : Loc) : Option Copy :=
  match a.cluster with
  | none => none
  | some c => if 3 ≤ l.kind then none else match kget s.l1 (l1Key c l.key) with
    | some y => if y.held then none else if s.isSync l ∨ pts ≤ y.rts then some y else none
    | none => none

/-- A load all of whose lines hit in L1 at one time within every lease. -/
def State.l1All (s : State) (a : Who) (pts : Nat) (rs : List Req) : Option (Nat × List (Req × List Byte)) :=
  let ls := s.locsOf rs
  if rs.isEmpty then none
  else if ls.all fun l => (s.l1Hit a pts l).isSome then
    let cs := ls.filterMap fun l => (s.l1Hit a pts l).map fun y => (l, y)
    let ts := cs.foldl (fun t c => max t c.2.wts) pts
    if cs.all fun c => s.isSync c.1 || decide (ts ≤ c.2.rts) then
      some (ts, rs.map fun r =>
        let l := s.locOf r
        (r, match s.l1Hit a pts l with
          | some y => (y.data.drop (r.va % 128)).take r.len
          | none => []))
    else none
  else none

/-- R234: an L1 hit on a SYNC copy moves the cluster's read time. -/
def State.noteSyncRead (s : State) (a : Who) (ts : Nat) (ls : List Loc) : State :=
  match a.cluster with
  | none => s
  | some c => ls.foldl (fun s l =>
      if s.isSync l then { s with lines := kmod s.lines l.key fun y => { y with sharers := kset y.sharers c (max ts (dget 0 y.sharers c)) } }
      else s) s

/-- R234: the clusters whose copies of SYNC lines a write must first push to. -/
def State.syncSharers (s : State) (ls : List Loc) : List Nat :=
  (ls.flatMap fun l => if s.isSync l then
      (match kget s.lines l.key with
        | some x => x.sharers.map (·.1)
        | none => [])
    else []).eraseDups

/-- R234: a sharer applies a pushed value and returns its read time. -/
def State.ackLine (s : State) (c : Nat) (l : Loc) : State :=
  if s.isSync l then
    match kget s.lines l.key with
    | none => s
    | some x =>
      let t := dget 0 x.sharers c
      { s with
        lines := kset s.lines l.key { x with rts := max x.rts t, sharers := kdel x.sharers c }
        l1 := kmod s.l1 (l1Key c l.key) fun y => { y with held := true } } |>.keepOffset x.slice t
  else s

/-- R234: a SYNC line that an acknowledged access has not changed: its copies serve again, and their clusters share it. -/
def State.unhold (s : State) (l : Loc) : State :=
  let cs := (s.l1.filter fun e => e.1 % 2 ^ 80 == l.key && e.2.held).map (·.1 / 2 ^ 80)
  cs.foldl (fun (s : State) c => { s with
    l1 := kmod s.l1 (l1Key c l.key) fun y => { y with held := false }
    lines := kmod s.lines l.key fun x => { x with sharers := kset x.sharers c (dget 0 x.sharers c) } }) s

/-- R234, for an agent other than a wave: every sharer's acknowledgement is gathered at once. -/
def State.ackAll (s : State) (ls : List Loc) : State :=
  (s.syncSharers ls).foldl (fun s c => ls.foldl (fun s l => s.ackLine c l) s) s

/-- After a SYNC store has performed, the clusters that acknowledged share the line again. -/
def State.reshare (s : State) (cs : List Nat) (ts : Nat) (ls : List Loc) : State :=
  ls.foldl (fun s l => if s.isSync l then
      cs.foldl (fun s c => match kget s.l1 (l1Key c l.key) with
        | some _ => { s with lines := kmod s.lines l.key fun x => { x with sharers := kset x.sharers c ts } }
        | none => s) s
    else s) s

/-! ### Invalidation -/

/-- Lines and L1 copies whose tag `p` picks are gone, without write-back (R104, R118, R119). -/
def State.killLines (s : State) (p : Nat → Bool) : State :=
  let s := (s.lines.filter fun e => p e.1).foldl (fun s e => s.dropLine e.1) s
  { s with l1 := s.l1.filter fun e => !p (e.1 % 2 ^ 80) }

/-- The largest time of the lines that `p` picks (R242). -/
def State.maxTime (s : State) (p : Nat → Bool) : Nat :=
  s.lines.foldl (fun t e => if p e.1 then max t e.2.lastTime else t) 0

/-- The largest time of the lines of a SCRATCH arena, at scratchpads or in a saved image (R242). -/
def State.scratchTime (s : State) (k : Nat) (w : Win) : Nat :=
  (List.range (w.size / 128)).foldl (fun t i =>
    let q := s.times { kind := 3, key := 0, wk := k, va := w.base + 128 * i }
    max t (max q.1 q.2)) 0

/-- R242, R248: no access of the lines that `p` picks has a later place below `ts`: the lines that slices hold have been read
at it, and the bases of the slices, for the lines that they do not hold, stand there (assumption 74). -/
def State.closeTimes (s : State) (p : Nat → Bool) (ts : Nat) : State :=
  (List.range 128).foldl (fun s i => s.rebase i ts)
    { s with lines := s.lines.map fun e => (e.1, if p e.1 then { e.2 with rts := max e.2.rts ts } else e.2) }

/-- R104: LD.LAST acts on a line it read: dead copies everywhere, the line's own data lost when dirty; SEALED, SYNC
and SCRATCH lines are spared as the rule says. -/
def State.lastUse (s : State) (l : Loc) : State :=
  if 3 ≤ l.kind ∨ s.isSync l then s
  else match kget s.lines l.key, kget s.wins l.wk with
    | some x, some w =>
      if x.dirty ∧ w.state = .sealed then s
      else ((s.dropLine l.key).dropCopies l.key).fireWatches l.key
    | none, some _ =>
      if s.l1.any (fun e => e.1 % 2 ^ 80 = l.key) then (s.dropCopies l.key).fireWatches l.key else s
    | _, _ => s

end Sys2Proof.Machine
end

