-- ==== Sys2Proof/Machine/Access.lean ====
section
/-! DEFINITION. Accesses: how a wave's instruction names its byte ranges and enters the in-flight access table
(R99 to R102, R219), and how loads, stores, reductions, atomics and compare-and-swaps perform (R111, R121, R222). -/
namespace Sys2Proof.Machine

/-! ### Performing byte ranges -/

/-- How an access fared at its coherence points: held, waiting for SYNC acknowledgements, or performed at one time
with the values read, the ranges left over, and the fault of the lowest faulting lane. -/
inductive Perf where
  | hold (s : State)
  | push (s : State) (cs : List Nat)
  | done (s : State) (ts : Nat) (out : List (Req × Nat)) (left : List Req) (fault : Option Reply)

/-- What performing one range does: the new state, the value read, and whether it wrote. -/
abbrev RangeOp := State → Req → State × Nat × Bool

/-- A range read. -/
def readOp : RangeOp := fun s r => (s, ofBytes (s.readAt (s.locOf r) r.va r.len), false)
/-- A range stored to. -/
def storeOp : RangeOp := fun s r => (s.writeAt (s.locOf r) r.va (toBytes r.len r.dat.toNat), 0, true)

/-- R111: the ranges of an access, in order, each seeing the ones before it; and the lines written. -/
def runOps (op : RangeOp) : State → List Req → State × List (Req × Nat) × List Loc
  | s, [] => (s, [], [])
  | s, r :: rs =>
    let (s, v, wrote) := op s r
    let (s, out, ls) := runOps op s rs
    (s, (r, v) :: out, if wrote then s.locOf r :: ls else ls)

/-- R121, R307: the reply of a deferred fault: the code and address of the lowest faulting lane, and the mask of the
lanes that have not performed. -/
def faultOf (bad : List (Req × Nat × Nat)) : Option Reply :=
  match bad with
  | [] => none
  | b :: bs =>
    let low := bs.foldl (fun m x => if x.1.lane < m.1.lane then x else m) b
    some { code := low.2.1, va := low.1.va % 2 ^ 56, info := low.2.2
           mask := (b :: bs).foldl (fun m x => m ||| (1#32 <<< x.1.lane)) 0 }

/-- R241: the time of an access that goes to a PEER line's endpoint goes over the link. -/
def State.noteFill (s : State) (a : Who) (l : Loc) (ts : Nat) : State :=
  match kget s.wins l.wk with
  | none => s
  | some w => match s.linkOf a.ctx (attrMset w.attr) l.va with
    | some ep => s.noteLink ep ts
    | none => s

/-- R225: the ranges of an access perform at one time, at their coherence points. `rd` and `wr` say what it does,
`copy` whether its lines enter the cluster's L1, `acked` the acknowledgements a wave's SYNC store has gathered
(none: the agent gathers them at once). -/
def State.performRanges (s : State) (a : Who) (pts ty : Nat) (rd wr copy : Bool) (acked : Option (List Nat)) (rs : List Req)
    (op : RangeOp) : Perf :=
  let s0 := s
  let (s, ms) := s.meetAll a ty pts rd wr [] rs
  if ms.any fun m => m.2 == .wait then .hold s
  else
    let bad := ms.filterMap fun m => match m.2 with
      | .fault c i => some (m.1, c, i)
      | _ => none
    let lanes := bad.map fun b => b.1.lane
    let good := (ms.filter fun m => m.2 == .ok && !lanes.contains m.1.lane).map (·.1)
    let left := (ms.filter fun m => m.2 != .vanish && lanes.contains m.1.lane).map (·.1)
    let ls := s.locsOf good
    let cs := if wr then s.syncSharers ls else []
    if acked.isSome && !cs.isEmpty then .push s cs
    else
      let s := if acked.isNone && wr then s.ackAll ls else s
      let ts := s.tsOf pts wr ls
      let (s, out, wl) := runOps op s good
      let wl := wl.eraseDups
      let s := if wr && !rd then ls.foldl (fun s l => s.unpoison l (good.filter fun r => s.locOf r == l)) s else s
      let s := ls.foldl (fun s l => if wr then s.writeTimes a (wl.contains l) ts l else s.loadTimes a copy ts l) s
      let s := if wr then s.reshare (acked.getD cs) ts ls else s
      let s := if wr then (s.locsOf (ms.map (·.1))).foldl (fun s l => if ls.contains l then s else s.unhold l) s else s
      let s := ls.foldl (fun (s : State) l =>
        if l.kind = 2 ∧ (behindSlice ty ∨ (kget s0.lines l.key).isNone) then s.noteFill a l ts else s) s
      .done s ts out left (faultOf bad)

/-- R337: does a load's range read poison from its cluster's L1 copy? -/
def State.copyPoisoned (s : State) (a : Who) (pts : Nat) (r : Req) : Bool := match s.l1Hit a pts (s.locOf r) with
  | some y => !y.poison.isEmpty && ((List.range ((r.va % 8 + r.len + 7) / 8)).map (r.va % 128 / 8 + ·)).any y.poison.contains
  | none => false

/-- A load: from L1 where every line hits, else at the coherence points. -/
def State.performLoad (s : State) (a : Who) (pts ty : Nat) (copy : Bool) (rs : List Req) : Perf :=
  if s.copyHeld a (s.locsOf rs) then .hold s
  else match s.l1All a pts rs with
  | some (ts, out) =>
    let bad := (out.filter fun o => s.copyPoisoned a pts o.1).map fun o => (o.1, 17, 0)
    let lanes := bad.map fun b => b.1.lane
    .done (s.noteSyncRead a ts (s.locsOf rs)) ts ((out.filter fun o => !lanes.contains o.1.lane).map fun o => (o.1, ofBytes o.2))
      ((out.filter fun o => lanes.contains o.1.lane).map (·.1)) (faultOf bad)
  | none => s.performRanges a pts ty true false copy none rs readOp

/-! ### Reductions and atomics (Table 5.5, R111) -/

/-- The format of Table 2.1 that a type of Table 5.5 reduces in. -/
def atomFmt : Nat → Nat
  | 0 => 8 | 1 => 11 | 2 => 9 | 3 => 12 | 4 => 0 | 5 => 2 | 6 => 1 | 7 => 11 | _ => 12

/-- R111: the new contents for operation `op` on old contents `m` with operand `y`. -/
def atomNew (ty op m y : Nat) : Nat :=
  let w := if ty = 2 ∨ ty = 3 ∨ ty = 8 then 64 else 32
  let m := m % 2 ^ w
  let y := y % 2 ^ w
  match op with
  | 6 => y
  | 7 => if y ≤ m then 0 else m + 1
  | _ => reduce (atomFmt ty) op m y

/-- A reduction or atomic on one range. -/
def atomOp (ty op : Nat) : RangeOp := fun s r =>
  let l := s.locOf r
  let m := ofBytes (s.readAt l r.va r.len)
  (s.writeAt l r.va (toBytes r.len (atomNew ty op m r.dat.toNat)), m, true)

/-- Compare-and-swap on one range: `dat` is the expected value, `alt` the new one. -/
def casOp : RangeOp := fun s r =>
  let l := s.locOf r
  let m := ofBytes (s.readAt l r.va r.len)
  if m = r.dat.toNat % 2 ^ (8 * r.len) then (s.writeAt l r.va (toBytes r.len r.alt.toNat), m, true) else (s, m, false)

/-- Table 5.6, R235, R112: where an atomic has executed: a BLOCK- or CLUSTER-scope one on an HBM line that is not SYNC
has taken the line for its cluster; the result of a SYSTEM-scope one is in memory. -/
def State.scopeEffect (s : State) (a : Who) (sc : Nat) (ls : List Loc) : State :=
  ls.foldl (fun s l =>
    if l.kind = 0 ∧ s.isSync l = false ∧ (sc = 1 ∨ sc = 2) then
      ({ s with lines := kmod s.lines l.key fun x => { x with owner := a.cluster } })
    else if sc = 5 ∧ l.kind < 3 then
      match s.writeBack l.key with
      | .ok s => s
      | .error _ => s
    else s) s

/-! ### Results of loads -/

/-- R101: a loaded element of `len` bytes extended. -/
def extend (sgn : Bool) (len v : Nat) : BitVec 64 :=
  if sgn then (BitVec.ofNat (8 * len) v).signExtend 64 else BitVec.ofNat 64 v

/-- A value written to an S register when it arrives (R30): no undo entry (R219), and no reader sees the contents from
before an earlier fixed-latency write any more (R29). -/
def Wave.landU (x : Wave) (d : Reg) (v : BitVec 64) : Wave :=
  if isS d then
    ({ x with s := dset 0 x.s d.toNat v, late := x.late.filter fun e => e.reg != d.toNat } : Wave).heal (· == sBad d.toNat)
  else x

/-- A predicate written when its value arrives (R30). -/
def Wave.landP (x : Wave) (n : Nat) (v : BitVec 32) : Wave :=
  ({ x.setPred n v with late := x.late.filter fun e => e.reg != 256 + n } : Wave).heal (· == pBad n)

/-- The value of element (idx, lane) of a load's data. -/
def gotAt (got : List (Nat × BitVec 128)) (idx lane : Nat) : Option (BitVec 128) :=
  (got.find? fun g => g.1 = 32 * idx + lane).map (·.2)

/-- R101, R102, R103, R30: the lanes of a load's destination written at once: register D + i, word k of element (i, lane); a
queue port pushes into the FIFO that it was bound to at issue, behind the pushes of ports S and V in that cc (R133). -/
def State.landV (s : State) (w : Nat) (fifo : Option Nat) (d : Reg) (bytes : Nat) (sgn : Bool) (got : List (Nat × BitVec 128)) : State :=
  let words := max 1 (bytes / 4)
  let val (i k l : Nat) : Option (BitVec 32) := (gotAt got i l).map fun (v : BitVec 128) =>
    if bytes < 4 then (extend sgn bytes v.toNat).setWidth 32 else (v >>> (32 * k)).setWidth 32
  if isV d then
    let count := (got.foldl (fun m g => max m (g.1 / 32)) 0) + 1
    s.modWave w fun x => ({ x with
      late := x.late.filter fun e => !(decide (d.toNat ≤ e.reg) && decide (e.reg < d.toNat + count * words))
      v := (List.range count).foldl (fun t i => (List.range words).foldl (fun t k =>
        (List.range 32).foldl (fun t l => match val i k l with
          | some b => dset 0 t (32 * (d.toNat + i * words + k) + l) b
          | none => t) t) t) x.v } : Wave).heal fun q =>
        decide (d.toNat ≤ q / 32) && decide (q / 32 < d.toNat + count * words) && (gotAt got ((q / 32 - d.toNat) / words) (q % 32)).isSome
  else if isQ d then
    match fifo with
    | some f =>
      let e := (List.range 32).map fun l => (val 0 0 l).getD 0
      s.modBlock (s.wave w).block fun b => { b with mpush := b.mpush ++ [(f, e)] }
    | none => s
  else s

/-- R133: the pushes of port M in a cc enter their FIFOs when it ends. -/
def Block.flushPush (b : Block) : Block :=
  if b.mpush.isEmpty then b
  else { b with mpush := [], fifos := b.mpush.foldl (fun t e => dset [] t e.1 (dget [] t e.1 ++ [e.2])) b.fifos }

/-- Entries of a block's FIFO, with those that accesses of the block have still to push (R21, R132). -/
def State.fifoLoad (s : State) (bid f : Nat) : Nat :=
  match s.block? bid with
  | none => 0
  | some b => (dget [] b.fifos f).length + (b.mpush.filter (·.1 == f)).length +
      ((blockWaves bid b.nwaves).flatMap fun w => (s.wave w).pend.filter fun a => a.fifo == some f).length

/-- The queue port that an access pushes to when its data arrives. -/
def AccOp.pushes : AccOp → Option Reg
  | .loadV d .. => if isQ d then some d else none
  | .atom _ _ _ d scalar => if isQ d && !scalar then some d else none
  | .cas _ _ d scalar => if isQ d && !scalar then some d else none
  | _ => none

/-! ### Issuing an access (R99, R100, R219) -/

/-- R99: the effective address of a lane: the base, uniform or a pair's, plus the offset. -/
def State.ea (s : State) (x : Wave) (a : Reg) (off : BitVec 20) (l : Nat) : Nat :=
  (s.readL64 x a l + off.signExtend 64).toNat

/-- R99: a term added to an effective address, modulo 2^64. -/
def eaAdd (e : Nat) (k : Int) : Nat := (BitVec.ofInt 64 ((e : Int) + k)).toNat

/-- A byte range not yet checked. -/
def mkReq (lane idx va len : Nat) (dat : BitVec 128) : Req :=
  { lane := lane, idx := idx, va := va, len := len, win := 0, gen := 0, dat := dat, alt := 0 }

/-- The active lanes of a mask, ascending. -/
def lanesOf (m : BitVec 32) : List Nat := (List.range 32).filter fun l => m.getLsbD l

/-- The mask of an access's ranges. -/
def reqMask (rs : List Req) : BitVec 32 := rs.foldl (fun m r => m ||| (1#32 <<< r.lane)) 0

/-- R219: the access enters the in-flight access table, with the control state it would be rewound to. -/
def State.enqueue (s : State) (w : Nat) (pcb : Bool) (pc : Addr) (op : AccOp) (mask : BitVec 32) (uni : Bool)
    (rs second : List Req) : State :=
  s.modWave w fun x => { x with
    pend := x.pend ++ [{ uid := s.uid - 1, nth := x.issued, pc := pc, pcb := pcb, mask := mask, uni := uni
                         ctl := (x.pca, x.pcb, x.stack), half := 0, op := op, reqs := rs, second := second, got := [], reply := none
                         wait := false, acks := none
                         fifo := op.pushes.bind fun d => (s.fifoOf x d).map (·.1) }] }

/-- An access instruction issues: its ranges are checked (R100), the queue ports among `pops` pop, and it is pending,
its ranges cut by `cut`; or the check's trap is taken and nothing changes. A uniform instruction's one address fails for
every active lane (R184). -/
def State.issueAcc (s : State) (w : Nat) (pcb : Bool) (f : Sched) (op : AccOp) (mask : BitVec 32) (uni : Bool) (align : Nat)
    (rd wr : Bool) (rs second : List Req) (pops : List Reg) (cut : List Req → List Req) : State :=
  let x := s.wave w
  match s.checkAll x align rd wr (rs ++ second) with
  | .error t => s.raiseIssue w pcb f (if uni then { t with mask := mask } else t)
  | .ok cs =>
    let pc := (x.path pcb).pc
    (((s.beginIssue w pcb f none).popPorts x pops).advance w pcb).enqueue w pcb pc op mask uni
      (cut (cs.take rs.length)) (cs.drop rs.length)

/-- An access that is checked where it performs, or not at all, issues. -/
def State.issueFree (s : State) (w : Nat) (pcb : Bool) (f : Sched) (op : AccOp) (mask : BitVec 32) : State :=
  let pc := ((s.wave w).path pcb).pc
  ((s.beginIssue w pcb f none).advance w pcb).enqueue w pcb pc op mask true [] []

/-! ### The head of a wave's accesses -/

/-- The oldest unperformed access of a wave. -/
def Wave.head (x : Wave) : Option Acc := x.pend.head?

/-- The head replaced. -/
def Wave.setHead (x : Wave) (a : Acc) : Wave := { x with pend := a :: x.pend.drop 1 }

/-- R219, R28: the head has performed: it leaves the table, undo entries older than the next unperformed access are
freed, the wave's time follows, and the instruction completes. -/
def State.finishHead (s : State) (w ts : Nat) : State :=
  s.modWave w fun x =>
    match x.pend with
    | [] => x
    | a :: rest =>
      let x : Wave := { x with
        pend := rest
        undo := (match rest with
          | [] => []
          | b :: _ => x.undo.filter fun e => decide (b.uid < e.1))
        pts := max x.pts ts }
      x.complete a.uid 0 0 0

/-- The head has met a fault in some ranges: those are left, and the reply is on its way (R121, R220). -/
def State.faultHead (s : State) (w ts : Nat) (a : Acc) (left : List Req) (got : List (Nat × BitVec 128)) (r : Reply) : State :=
  let r := if a.uni then { r with mask := a.mask } else r
  s.modWave w fun x => { x.setHead { a with reqs := left, got := got, reply := some r, wait := false, acks := none } with
    pts := max x.pts ts }

/-- The head is held at its coherence point. -/
def State.holdHead (s : State) (w : Nat) (a : Acc) : State := s.modWave w fun x => x.setHead { a with wait := true }

/-- R234: the head's SYNC store waits for these clusters. -/
def State.pushHead (s : State) (w : Nat) (a : Acc) (cs : List Nat) : State :=
  let gave := match a.acks with
    | some p => p.2
    | none => []
  s.modWave w fun x => x.setHead { a with acks := some (cs, gave), wait := false }

/-- Values read, keyed for `gotAt`. -/
def gotOf (out : List (Req × Nat)) : List (Nat × BitVec 128) :=
  out.map fun o => (32 * o.1.idx + o.1.lane, BitVec.ofNat 128 o.2)

/-- The acknowledgements that a wave's store has gathered. -/
def Acc.gathered (a : Acc) : Option (List Nat) := some (match a.acks with
  | some p => p.2
  | none => [])

/-- Does the head still wait for acknowledgements? -/
def Acc.unacked (a : Acc) : Bool := match a.acks with
  | some (_ :: _, _) => true
  | _ => false

/-- R101: what a scalar load's destination takes. -/
def landScalar (x : Wave) (d : Reg) (sgn : Bool) (len : Nat) (v : BitVec 128) : Wave :=
  if len = 16 then (x.landU d (v.setWidth 64)).landU (d + 1) ((v >>> 64).setWidth 64)
  else x.landU d (extend sgn len v.toNat)

/-- A load at the head performs, LD.LAST at its lines' coherence points (R104); `land` writes its destination when all of its data has arrived. -/
def State.performHeadLoad (s : State) (w : Nat) (a : Acc) (last : Bool) (land : State → List (Nat × BitVec 128) → State) : State :=
  let x := s.wave w
  match if last then s.performRanges x.who x.pts 0 true false false none a.reqs readOp else s.performLoad x.who x.pts 0 true a.reqs with
  | .hold s => s.holdHead w a
  | .push s cs => s.pushHead w a cs
  | .done s ts out left fault =>
    let got := a.got ++ gotOf out
    let s := if last then (s.locsOf (out.map (·.1))).foldl (fun s l => s.lastUse l) s else s
    match fault with
    | some r => s.faultHead w ts a left got r
    | none => (land s got).finishHead w ts

/-- A store at the head performs; ST.PAIR then stands for its second half (R105). -/
def State.performHeadStore (s : State) (w : Nat) (a : Acc) : State :=
  let x := s.wave w
  if a.unacked then s
  else match s.performRanges x.who x.pts 1 false true false a.gathered a.reqs storeOp with
  | .hold s => s.holdHead w a
  | .push s cs => s.pushHead w a cs
  | .done s ts _ left fault =>
    match fault with
    | some r => s.faultHead w ts a left [] r
    | none =>
      if a.second.isEmpty then s.finishHead w ts
      else s.modWave w fun x => { x.setHead { a with reqs := a.second, second := [], half := 1, acks := none, wait := false } with
        pts := max x.pts ts }

/-- A reduction (`red`), atomic or compare-and-swap at the head performs. A HOST line's SYSTEM scope needs the link (R320). -/
def State.performHeadAtom (s : State) (w : Nat) (a : Acc) (red : Bool) (sc : Nat) (op : RangeOp)
    (land : State → List (Nat × BitVec 128) → State) : State :=
  let x := s.wave w
  if a.unacked then s
  else
    let ls := s.locsOf a.reqs
    if sc = 5 ∧ s.linkUp = false ∧ ls.any (fun l => l.kind == 1) then
      s.faultHead w x.pts a a.reqs a.got { code := 8, va := (a.reqs.headD (mkReq 0 0 0 0 0)).va, mask := reqMask a.reqs, info := 7 }
    else
      let ty := if sc = 5 then (if red then 8 else 7) else if red then 6 else 2
      match s.performRanges x.who x.pts ty true true false a.gathered a.reqs op with
      | .hold s => s.holdHead w a
      | .push s cs => s.pushHead w a cs
      | .done s ts out left fault =>
        let s := s.scopeEffect x.who sc (s.locsOf (out.map (·.1)))
        let got := a.got ++ gotOf out
        match fault with
        | some r => s.faultHead w ts a left got r
        | none => (land s got).finishHead w ts

/-- R110: the old values of an atomic into its destination: an S register, extended as its type says, an S pair, or
lanes. -/
def landAtom (w : Nat) (fifo : Option Nat) (d : Reg) (ty : Nat) (scalar : Bool) (len : Nat) (s : State)
    (got : List (Nat × BitVec 128)) : State :=
  if scalar then
    match gotAt got 0 0 with
    | some v => s.modWave w fun x => landScalar x d (decide (ty = 0)) len v
    | none => s
  else s.landV w fifo d len false got

/-! ### Prefetch, pins and write-back (R107, R108) -/

/-- The lines of a byte range, by their first bytes. -/
def rangeLines (va len : Nat) : List Nat := (List.range ((va % 128 + len + 127) / 128)).map fun i => va / 128 * 128 + 128 * i

/-- R107: PREF of one line: skipped unless its check passes and its page is present and backed, and where an access would have to
wait for a merge, a migration or the host (R246, R310, R323); no timestamp moves but the copy's own. -/
def State.prefetch (s : State) (x : Wave) (l1 : Bool) (va : Nat) : State :=
  match s.checkWave x va 1 1 true false with
  | .error _ => s
  | .ok (va, k, g) =>
    let r : Req := { mkReq 0 0 va 1 0 with win := k, gen := g }
    let l := s.locOf r
    if 3 ≤ l.kind then s
    else match kget s.wins k with
      | none => s
      | some w =>
        let m := attrMset w.attr
        let present : Bool := (kget s.lines l.key).isSome || (match s.translate (s.stackOf m va) x.ctx m l.va true false with
          | .error _ => false
          | .ok (s', e) => e.tgt != 0 || s'.backedFor (s'.transKey e m l.va) x.ctx k w g)
        if present && !(s.mergeHolds k l.va || s.migrating k l.va || s.hostConflict w l false) then
          match s.fill x.who l w g true false 0 0 [] with
          | .error _ => s
          | .ok s => if l1 then s.loadTimes x.who true (s.times l).1 l else s
        else s

/-- R108: the pinned lines of a slice. -/
def State.pinCount (s : State) (slice : Nat) : Nat := (s.lines.filter fun e => e.2.pinned && e.2.slice == slice).length

/-- R107, R108: one line pinned after its fill, within its slice's limit. -/
def State.pinLine (s : State) (key : Nat) : State :=
  match kget s.lines key with
  | some x => if x.pinned ∨ 12288 ≤ s.pinCount x.slice then s else { s with lines := kset s.lines key { x with pinned := true } }
  | none => s

end Sys2Proof.Machine
end

