-- ==== Sys2Proof/Machine/Hurdle.lean ====
section
/-! DEFINITION. Hurdles (R125 to R128, R190): the word, arrivals, charges and flips, and the waves they release. -/
namespace Sys2Proof.Machine

/-- The fields of a hurdle word (Table 6.2). -/
structure Hurdle where
  tlimit : Nat
  overrun : Bool
  phase : Bool
  arr : Nat
  acnt : Int
  pend : Int
  deriving DecidableEq, Repr

/-- Table 6.2: the fields of the 16 bytes of a hurdle. -/
def hurdleOf (v : Nat) : Hurdle :=
  { tlimit := v / 2 ^ 96 % 2 ^ 32, overrun := v.testBit 65, phase := v.testBit 64, arr := v / 2 ^ 48 % 2 ^ 16
    acnt := (v / 2 ^ 32 % 2 ^ 16 : Nat) - (if v.testBit 66 then 65536 else 0)
    pend := (v % 2 ^ 32 : Nat) - (if v.testBit 31 then 2 ^ 32 else 0) }

/-- Table 6.2: the 16 bytes of a hurdle as a number. -/
def Hurdle.toNat (h : Hurdle) : Nat :=
  h.tlimit % 2 ^ 32 * 2 ^ 96 + (if h.acnt < 0 then 2 ^ 66 else 0) + (if h.overrun then 2 ^ 65 else 0) +
  (if h.phase then 2 ^ 64 else 0) + h.arr % 2 ^ 16 * 2 ^ 48 + (h.acnt % 65536).toNat * 2 ^ 32 + (h.pend % (2 ^ 32 : Nat)).toNat

/-- R127, flip_test: the hurdle after it, and the hurdle as it stood at each flip. -/
def flipTest : Nat → Hurdle → Hurdle × List Hurdle
  | 0, h => (h, [])
  | n + 1, h =>
    if h.acnt ≤ 0 ∧ h.pend ≤ 0 then
      if h.arr = 0 then
        let h' := { h with phase := !h.phase, overrun := true }
        (h', [h'])
      else
        let h' := { h with phase := !h.phase, acnt := h.acnt + h.arr }
        let (e, fs) := flipTest n h'
        (e, h' :: fs)
    else (h, [])

/-- A bound on the flips of one test: ACNT lies above −65,537 and ARR is at least 1. -/
def flipFuel : Nat := 65537

/-- R127: arrive. -/
def Hurdle.arrive (h : Hurdle) : Hurdle × List Hurdle :=
  let a := h.acnt - 1
  flipTest flipFuel { h with acnt := max (-65536) a, overrun := h.overrun || decide (a < 0) }

/-- R127: an addition to PEND, held at 2^31 − 1 with OVERRUN. -/
def Hurdle.expect (h : Hurdle) (n : Nat) : Hurdle :=
  let p := h.pend + n
  if p ≤ 2147483647 then { h with pend := p } else { h with pend := 2147483647, overrun := true }

/-- R127: one charged byte. -/
def Hurdle.chargeByte (h : Hurdle) : Hurdle × List Hurdle :=
  let p := h.pend - 1
  flipTest flipFuel { h with pend := max (-2147483648) p, overrun := h.overrun || decide (p < 0) }

/-- R127: c charged bytes, one at a time. -/
def Hurdle.charge : Nat → Hurdle → Hurdle × List Hurdle
  | 0, h => (h, [])
  | c + 1, h =>
    let (h, fs) := h.chargeByte
    let (h, gs) := Hurdle.charge c h
    (h, fs ++ gs)

/-- R126: HDL.INIT. -/
def Hurdle.init (b : BitVec 64) : Hurdle :=
  let arr := max (b.toNat % 65536) 1
  { tlimit := b.toNat / 2 ^ 32, overrun := false, phase := false, arr := arr, acnt := arr, pend := 0 }

/-! ### Waiters (R128) -/

/-- A path held on instruction `uid` stands at it again, and its increment is undone. -/
def State.standAt (s : State) (w : Nat) (pcb : Bool) (uid : Nat) : State :=
  s.modWave w fun x =>
    let x := x.setPath pcb { x.path pcb with pc := (x.path pcb).pc - 12, hold := .none }
    { x with ctrs := x.ctrs.map fun c => (c.1, c.2.keepToks fun t => t.uid != uid) }

/-- A held path is released, its instruction completes and its time follows `ts`. -/
def State.release (s : State) (w : Nat) (pcb : Bool) (uid ts : Nat) : State :=
  s.modWave w fun x => ({ (x.holdPath pcb .none) with pts := max x.pts ts } : Wave).complete uid 0 0 0

/-- `g` of a wave's path that the divergence stack holds at place `i` (R77), which stands in PCA's place meanwhile; a trap
of it is one of a spilled path (R185). -/
def State.atSpilled (s : State) (w i : Nat) (g : State → State) : State :=
  let x := s.wave w
  match x.stack.drop i with
  | .path p :: _ =>
    (g (s.modWave w fun y => { y with pca := p })).modWave w fun y => { y with
      stack := y.stack.set i (.path y.pca), pca := x.pca
      spill := if x.trap.isNone && y.trap.isSome then some i else y.spill }
  | _ => s

/-- `g` of every path of a wave that its divergence stack holds; `hit` picks those it can change. -/
def State.eachSpilled (s : State) (w : Nat) (hit : Path → Bool) (g : State → State) : State :=
  (List.range (s.wave w).stack.length).foldl (fun s i => match (s.wave w).stack.drop i with
    | .path p :: _ => if hit p then s.atSpilled w i g else s
    | _ => s) s

/-- `g` of every path of a wave: PCA, PCB, and those that are spilled. -/
def State.eachPath (s : State) (w : Nat) (hit : Path → Bool) (g : State → Bool → State) : State :=
  (g (g s false) true).eachSpilled w hit fun s => g s false

/-- Is a path held on the hurdle? -/
def Path.heldOn (p : Path) (va : Nat) : Bool :=
  match p.hold with
  | .hdlWait _ hva _ _ _ _ => hva == va
  | _ => false

/-- Every path of a wave, those that its divergence stack holds among them. -/
def Wave.paths (x : Wave) : List Path :=
  x.pca :: x.pcb :: x.stack.filterMap fun
    | .path p => some p
    | .frame _ _ => none

/-- One path held on a hurdle meets its flips, or OVERRUN. -/
def State.meetFlip (s : State) (w : Nat) (pcb : Bool) (va ts : Nat) (flips : List Hurdle) (final : Hurdle) : State :=
  match ((s.wave w).path pcb).hold with
  | .hdlWait uid hva parity true _ mask =>
    if hva ≠ va then s
    else if flips.any fun h => h.phase != parity && !h.overrun then s.release w pcb uid ts
    else if final.overrun then (s.standAt w pcb uid).raise w pcb (Trap.of 13 mask)
    else if final.phase != parity then s.release w pcb uid ts
    else s
  | _ => s

/-- Is a wave's block saved (R200)? -/
def State.waveAway (s : State) (x : Wave) : Bool := match s.block? x.block with
  | some b => b.away
  | none => false

/-- The waves that a hurdle word of a context holds, after a change to it. -/
def State.hurdleChanged (s : State) (ctx va ts : Nat) (flips : List Hurdle) (final : Hurdle) : State :=
  (s.waves.filter fun e => e.2.ctx == ctx && !e.2.super && !s.waveAway e.2).foldl (fun s e =>
    s.eachPath e.1 (·.heldOn va) fun s q => s.meetFlip e.1 q va ts flips final) s

/-- R126: HDL.INIT ends the waits on its hurdle with HURDLE_TIMEOUT. -/
def State.initTraps (s : State) (ctx va : Nat) : State :=
  let hit (s : State) (w : Nat) (pcb : Bool) : State :=
    match ((s.wave w).path pcb).hold with
    | .hdlWait uid hva _ true _ mask =>
      if hva = va then (s.standAt w pcb uid).raise w pcb (Trap.of 14 mask) else s
    | _ => s
  (s.waves.filter fun e => e.2.ctx == ctx && !e.2.super).foldl (fun s e => s.eachPath e.1 (·.heldOn va) fun s q => hit s e.1 q) s

/-- An indivisible change of a hurdle word by any agent, at one time. -/
def State.hurdleWord (s : State) (a : Who) (pts ty : Nat) (r : Req) (g : Hurdle → Hurdle) : Perf :=
  let op : RangeOp := fun s r =>
    let l := s.locOf r
    let v := ofBytes (s.readAt l r.va 16)
    (s.writeAt l r.va (toBytes 16 (g (hurdleOf v)).toNat), v, true)
  s.performRanges a pts ty true true false none [r] op

/-- Such a change, and what its flips release (R127, R128). -/
def State.hurdleRmw (s : State) (a : Who) (pts ty : Nat) (r : Req) (g : Hurdle → Hurdle × List Hurdle) : Perf :=
  match s.hurdleWord a pts ty r fun h => (g h).1 with
  | .done s ts out left fault =>
    match out with
    | [(r, v)] =>
      let (h, fs) := g (hurdleOf v)
      .done (s.hurdleChanged a.ctx r.va ts fs h) ts out left fault
    | _ => .done s ts out left fault
  | p => p

/-- R127, R161: an engine charges a hurdle with bytes that have performed; a hurdle whose arena is gone takes nothing
(Table 5.10). -/
def State.chargeHurdle (s : State) (a : Who) (pts : Nat) (r : Req) (bytes : Nat) : Perf := s.hurdleRmw a pts 3 r (Hurdle.charge bytes)

/-- R126, R161: is an engine operation in flight that charges the hurdle? -/
def State.charging (s : State) (ctx va : Nat) : Bool :=
  s.cmds.any fun c => c.2.ctx == ctx && !c.2.finished && decide (c.2.d1.toNat = va) && (match c.2.op with
    | .copy .. | .coll .. | .net .. => true
    | _ => false)

/-- R190: a hurdle that an HDL.INIT of the block has initialised keeps its tracker entry: none of the block's INITs there that
have still to perform gives it back any more. -/
def State.keepTracker (s : State) (bid va : Nat) : State :=
  match s.block? bid with
  | none => s
  | some b => (blockWaves bid b.nwaves).foldl (fun s w =>
      if (s.wave w).pend.any (·.initAt va) then
        s.modWave w fun x => { x with pend := x.pend.map fun a => if a.initAt va then a.setTook false else a }
      else s) s

/-- HDL.INIT at the head of a wave's accesses: RELEASE when b[31] is set (R126). A RELEASE gives the tracker entry to an INIT of the
block that has still to perform at the address (R190). -/
def State.performHdlInit (s : State) (w : Nat) (a : Acc) (b : BitVec 64) : State :=
  let x := s.wave w
  match a.reqs with
  | [r] =>
    if b.getLsbD 31 then
      let held := s.waves.any fun e => e.2.ctx == x.ctx && e.2.paths.any fun p => p.heldOn r.va
      if held || s.charging x.ctx r.va then s.holdHead w a
      else
        match s.performRanges x.who x.pts 2 true true false none [r] readOp with
        | .done s ts _ _ none =>
          (s.giveTracker x.block r.va).finishHead w ts
        | .done s ts _ left (some f) => s.faultHead w ts a left [] f
        | .hold s => s.holdHead w a
        | .push s _ => s.holdHead w a
    else
      match s.hurdleWord x.who x.pts 2 r fun _ => Hurdle.init b with
      | .done s ts _ _ none => ((s.initTraps x.ctx r.va).keepTracker x.block r.va).finishHead w ts
      | .done s ts _ left (some f) => s.faultHead w ts a left [] f
      | .hold s => s.holdHead w a
      | .push s _ => s.holdHead w a
  | _ => s.finishHead w x.pts

/-- HDL.EXPECT and HDL.ARRIVE at the head (R126, R127). -/
def State.performHdlAdd (s : State) (w : Nat) (a : Acc) (g : Hurdle → Hurdle × List Hurdle) : State :=
  let x := s.wave w
  match a.reqs with
  | [r] =>
    match s.hurdleRmw x.who x.pts 2 r g with
    | .done s ts _ _ none => s.finishHead w ts
    | .done s ts _ left (some f) => s.faultHead w ts a left [] f
    | .hold s => s.holdHead w a
    | .push s _ => s.holdHead w a
  | _ => s.finishHead w x.pts

/-- HDL.TEST at the head (R128). -/
def State.performHdlTest (s : State) (w : Nat) (a : Acc) (d : Reg) (parity : Bool) : State :=
  let x := s.wave w
  match s.performLoad x.who x.pts 0 false a.reqs with
  | .done s ts out left fault =>
    match fault with
    | some f => s.faultHead w ts a left [] f
    | none =>
      let h := hurdleOf ((out.map (·.2)).headD 0)
      if h.overrun then s.raiseAt w a (Trap.of 13 a.mask)
      else (s.modWave w fun x => x.landP d.toNat (if h.phase != parity then 0xFFFFFFFF else 0)).finishHead w ts
  | .hold s => s.holdHead w a
  | .push s _ => s.holdHead w a

/-- The path that an HDL.WAIT holds, wherever it stands by now (R77), changed. -/
def Wave.modWaiter (x : Wave) (uid : Nat) (g : Path → Path) : Wave :=
  let f (p : Path) : Path := match p.hold with
    | .hdlWait u _ _ _ _ _ => if u = uid then g p else p
    | _ => p
  { x with
    pca := f x.pca, pcb := f x.pcb
    stack := x.stack.map fun
      | .path p => .path (f p)
      | r => r }

/-- HDL.WAIT at the head: its first read (R128). It leaves the table; its path stays held until the flip, and the
instruction completes at the release. -/
def State.performHdlWait (s : State) (w : Nat) (a : Acc) (parity : Bool) : State :=
  let x := s.wave w
  match s.performLoad x.who x.pts 0 false a.reqs with
  | .done s ts out left fault =>
    match fault with
    | some f => s.faultHead w ts a left [] f
    | none =>
      let h := hurdleOf ((out.map (·.2)).headD 0)
      let va := match a.reqs with
        | r :: _ => r.va
        | [] => 0
      if h.overrun then s.raiseAt w a (Trap.of 13 a.mask)
      else if h.phase != parity then
        (s.modWave w fun x => x.modWaiter a.uid fun p => { p with hold := .none }).finishHead w ts
      else
        s.modWave w fun x =>
          let limit := if h.tlimit = 0 then none else some (h.tlimit * 1024)
          let rest := x.pend.drop 1
          { (x.modWaiter a.uid fun p => { p with hold := .hdlWait a.uid va parity true limit a.mask }) with
            pend := rest, pts := max x.pts ts
            undo := (match rest with
              | [] => []
              | b :: _ => x.undo.filter fun e => decide (b.uid < e.1)) }
  | .hold s => s.holdHead w a
  | .push s _ => s.holdHead w a

end Sys2Proof.Machine
end

