-- ==== Sys2Proof/Machine/Arenas.lean ====
section
/-! DEFINITION. The arena instructions at their points (R113 to R119, R206 to R216), publishing windows (AMINV, R302),
and the drop lists. -/
namespace Sys2Proof.Machine

/-! ### Naming arenas -/

/-- R113: the window that a handle names in a context, while the arena is live or sealed in that generation. -/
def State.arenaOf (s : State) (ctx : Nat) (h : BitVec 64) : Option (Nat × Win) :=
  if h.extractLsb' 17 47 ≠ 0 then none
  else
    let k := winKey ctx (h.getLsbD 16) (h.toNat % 4096)
    match kget s.wins k with
    | some w =>
      if w.lost = false ∧ (w.state = .live ∨ w.state = .sealed) ∧ w.gen = (h.extractLsb' 12 4).toNat then some (k, w) else none
    | none => none

/-- R114: the core's own refusals of an arena instruction: `ends` for RESET and DROP, `quota` for QUOTA and NEW,
`sealing` for SEAL. The SCRATCH arena of a launch never leaves LIVE (R213), so that SEAL is refused with it (assumption
71). -/
def State.arenaPerm (s : State) (x : Wave) (h : BitVec 64) (ends quota sealing : Bool) : Bool :=
  match s.arenaOf x.ctx h with
  | none => false
  | some (k, w) =>
    ((ends || quota) && !x.super && winGlobal k) || ((ends || sealing) && attrKind w.attr == 3 && w.sroot == winId k) ||
    ((ends || sealing) && w.root)

/-- The handle bits that name a window's arena as a parent. -/
def arenaName (k : Nat) : Nat := (if winGlobal k then 65536 else 0) + winId k
/-- The name in a parent handle, without its generation. -/
def parentName (p : Nat) : Nat := p / 65536 % 2 * 65536 + p % 4096

/-- The live children of an arena in its table, each by one window of it, whichever context's. -/
def State.children (s : State) (k : Nat) : List Nat :=
  let kids := (s.wins.filter fun e => !e.2.lost && (e.2.state == .live || e.2.state == .sealed) && e.2.parent != 0 &&
    parentName e.2.parent == arenaName k && winSpace e.1 == winSpace k && winId e.1 != winId k).map (·.1)
  (kids.map winId).eraseDups.filterMap fun i => kids.find? fun q => winId q == i

/-- R118, R119: the live descendants of an arena, as window keys, with itself first. -/
def State.subtree (s : State) : Nat → Nat → List Nat
  | 0, k => [k]
  | n + 1, k => k :: (s.children k).flatMap (s.subtree n)

/-- The depth to which arenas can nest: one per identifier of a context's table and of ADTAB.64. -/
def nestLimit : Nat := 8190

/-- Every context's window of an arena changed. -/
def State.modArena (s : State) (k : Nat) (g : Win → Win) : State :=
  { s with wins := s.wins.map fun e => (e.1, if winSpace e.1 = winSpace k ∧ winId e.1 = winId k then g e.2 else e.2) }

/-- Does a tag belong to an arena? -/
def tagOf (k : Nat) (t : Nat) : Bool := decide (t < 2 ^ 100) && tagSpace t == winSpace k && tagId t == winId k

/-! ### Descriptors as hardware writes them (Table 20.5) -/

/-- STATE, GEN and BASE of word 0. -/
def descWord0 (st gen base : Nat) : BitVec 64 := BitVec.ofNat 64 (st * 2 ^ 62 + gen % 16 * 2 ^ 58 + base % 2 ^ 56)
/-- STATE's code. -/
def ArenaState.code : ArenaState → Nat
  | .free => 0 | .live => 1 | .sealed => 2 | .dropped => 3
/-- STATE of a code. -/
def arenaStateOf : Nat → ArenaState
  | 0 => .free | 1 => .live | 2 => .sealed | _ => .dropped

/-- Word 0 written from a window. -/
def State.putDesc0 (s : State) (k : Nat) (w : Win) : State :=
  s.setDesc (winSpace k) (winId k) 0 (descWord0 w.state.code w.gen w.base)

/-- The bump pointer. -/
def State.bump (s : State) (k : Nat) : Nat := (s.desc (winSpace k) (winId k) 2).toNat % 2 ^ 56
/-- The bump pointer written. -/
def State.setBump (s : State) (k b : Nat) : State := s.setDesc (winSpace k) (winId k) 2 (BitVec.ofNat 64 b)

/-- R114, R116: the point of an arena instruction: a write to the arena's descriptor, so that the points of one arena
are ordered. -/
def State.arenaPoint (s : State) (k pts : Nat) : State × Nat :=
  let l : Loc := { kind := 4, key := resTag (s.descKey (winSpace k) (winId k) 0), wk := reservedWin, va := 0 }
  let ts := max pts ((s.times l).2 + 1)
  (s.setTimes l ts ts, ts)

/-! ### The arena map (Tables 20.2, 20.4) -/

/-- R205: the map leaf of an address in a context. -/
def State.mapLeaf (s : State) (ctx va : Nat) : Option Nat :=
  match s.walk (s.sysReg 0x0101 ctx) va with
  | .ok k => some k
  | .error _ => none

/-- The map leaf of an address as memory holds it; zero where the map has none. -/
def State.leafAt (s : State) (ctx va : Nat) : BitVec 64 := match s.mapLeaf ctx va with
  | some key => s.word key
  | none => 0

/-- A map leaf as core checks see it. -/
def State.showLeaf (s : State) (ctx va : Nat) (x : BitVec 64) : State :=
  { s with leaves := dset 0 s.leaves (leafSlot ctx va) x }

/-- A map leaf that hardware writes: in memory, where the map has one, and for core checks at once. -/
def State.storeLeaf (s : State) (ctx va : Nat) (x : BitVec 64) : State :=
  (match s.mapLeaf ctx va with
    | some key => s.setWord key x
    | none => s).showLeaf ctx va x

/-- R302: the leaves of a child's range in a context. Each granule keeps the rights of the leaf that marked it for the
parent; `rd` and `wr` stand for those of a granule that the map leaves out. -/
def State.writeLeaves (s : State) (ctx k base size : Nat) (rd wr : Bool) : State :=
  (List.range (size / 65536)).foldl (fun s i =>
    let va := base + 65536 * i
    let x := s.leafAt ctx va
    s.storeLeaf ctx va (if x.getLsbD 63 then leafWord k (x.getLsbD 61) (x.getLsbD 60) else leafWord k rd wr)) s

/-- R205: the innermost live arena of a context whose range holds an address: the one with the most ancestors. -/
def State.innermost (s : State) (ctx va : Nat) : Option Nat :=
  let live := s.wins.filter fun e => winCtx e.1 == ctx && !e.2.lost && (e.2.state == .live || e.2.state == .sealed) &&
    decide (e.2.base ≤ va) && decide (va < e.2.base + e.2.size)
  (live.foldl (fun (b : Option (Nat × Nat)) e =>
    let n := (s.lineage ctx nestLimit (winSpace e.1) (winId e.1)).length
    match b with
    | some (_, m) => if m < n then some (e.1, n) else b
    | none => some (e.1, n)) none).map (·.1)

/-- The granules of an arena's range that are still marked for it in a context. -/
def State.marked (s : State) (ctx k : Nat) (w : Win) : List Nat :=
  ((List.range (w.size / 65536)).map (w.base / 65536 + ·)).filter fun g => leafNames ctx k (dget 0 s.leaves (leafSlot ctx (65536 * g)))

/-- R277, R302: granules still marked for an arena that passes to FREE take its innermost live ancestor's mark. -/
def State.revertLeaves (s : State) (ctx : Nat) (k : Nat) (w : Win) : State :=
  let r : State := { s with wins := kdel s.wins k }
  (s.marked ctx k w).foldl (fun s g =>
    let x := dget 0 s.leaves (leafSlot ctx (65536 * g))
    s.storeLeaf ctx (65536 * g) (match r.innermost ctx (65536 * g) with
      | some p => leafWord p (x.getLsbD 61) (x.getLsbD 60)
      | none => 0)) s

/-- R302: the leaves that name an arena in a context, read again for core checks: those of its range and those that named
it before. -/
def State.publishLeaves (s : State) (ctx k base size : Nat) : State :=
  let old := (s.leaves.filter fun e => e.1 / 2 ^ 40 == ctx && leafNames ctx k e.2).map (·.1 % 2 ^ 40)
  let gs := ((List.range (size % 2 ^ 56 / 65536)).map (base / 65536 + ·)).filter fun g => leafNames ctx k (s.leafAt ctx (65536 * g))
  (old ++ gs).foldl (fun s g => s.showLeaf ctx (65536 * g) (s.leafAt ctx (65536 * g))) s

/-! ### AMINV (R205, R302, R329) -/

/-- The root SCRATCH identifier of an arena: itself when it has no parent, else its parent's. -/
def State.scratchRoot (s : State) (ctx id parent : Nat) : Nat :=
  if parent = 0 then id else match kget s.wins (winKey ctx (decide (65536 ≤ parent)) (parent % 4096)) with
    | some p => p.sroot
    | none => id

/-- One context's window of an arena, read again from its descriptor and its map leaves. A context holds a window of a
GLOBAL arena once a leaf of it names the arena (R113). -/
def State.publish (s : State) (ctx : Nat) (g : Bool) (id : Nat) : State :=
  let k := winKey ctx g id
  let sp := winSpace k
  let d0 := s.desc sp id 0
  let st := arenaStateOf (d0.extractLsb' 62 2).toNat
  let base := d0.toNat % 2 ^ 56
  let size := (s.desc sp id 1).toNat
  let leaf := s.leafAt ctx base
  let s := s.publishLeaves ctx k base size
  let d5 := s.desc sp id 5
  let parent := d5.toNat % 2 ^ 17
  let attr := s.desc sp id 4
  let old := kget s.wins k
  if st = .free then { s with wins := kdel s.wins k }
  else if g && old.isNone && !(s.leaves.any fun e => e.1 / 2 ^ 40 == ctx && leafNames ctx k e.2) then s
  else
    let w : Win :=
      { gen := (d0.extractLsb' 58 4).toNat, state := st, base := base, size := size, attr := attr
        rd := if leafNames ctx k leaf then leaf.getLsbD 61 else (old.map (·.rd)).getD false
        wr := if leafNames ctx k leaf then leaf.getLsbD 60 else (old.map (·.wr)).getD false
        inst := (s.desc sp id 6).toNat % 256, parent := parent
        buffer := (old.map (·.buffer)).getD false
        root := decide (parent = 0) && attrKind attr != 3 && !g
        sroot := s.scratchRoot ctx id parent, nwaves := (old.map (·.nwaves)).getD 0, lost := false }
    { s with wins := kset s.wins k w }

/-- The largest base of some slices. -/
def State.baseTime (s : State) (slices : List Nat) : Nat := slices.foldl (fun t i => max t (dget 0 s.sliceBase i)) 0

/-- R305: lines that a placement change homes elsewhere are written back and leave their slices, which lie among `old`; those among
`new` take no time below the change's, which is answered. The lines that the old slices no longer hold have their times in those
slices' bases (R228). -/
def State.moveLines (s : State) (pick : Nat → Bool) (old new : List Nat) : State × Nat :=
  let ts := max (s.maxTime pick) (s.baseTime old) + 1
  let moved := s.lines.filter fun e => pick e.1 && (match s.winOfTag e.1 with
    | some (k, w) => decide (sliceOf (s.placement k w.attr) (tagVa e.1) ≠ e.2.slice)
    | none => false)
  let s := moved.foldl (fun s e =>
    let home := match s.winOfTag e.1 with
      | some (k, w) => sliceOf (s.placement k w.attr) (tagVa e.1)
      | none => e.2.slice
    match s.leaveSlice e.1 with
    | .ok s => s
    | .error _ => { s with lines := kmod s.lines e.1 fun x => { x with slice := home } }) s
  (new.foldl (fun s i => s.rebase i ts) s, ts)

/-- R329: the placement in force of an arena becomes its descriptor's DOM with that register's present value. -/
def State.placeArena (s : State) (k : Nat) (attr : BitVec 64) : State :=
  let p := s.sysReg 0x0110 (attrDom attr) ||| (BitVec.ofNat 64 (attrDom attr) <<< 8)
  { s with place := kset s.place (winSpace k * 4096 + winId k) p }

/-- AMINV at its point: every window of the arena is read again, and a stored DOM takes effect (R205, R302, R329); with the time of
the placement change that this makes, 0 for none. No arena has identifier 0. -/
def State.aminvArena (s : State) (v : BitVec 64) : State × Nat :=
  let ctx := (v.extractLsb' 58 6).toNat
  let g := v.getLsbD 57
  let id := v.toNat % 4096
  if id = 0 then (s, 0)
  else
  let ctxs := if g then (List.range 64).filter fun c => (s.sysReg 0x0101 c).getLsbD 63 || (kget s.wins (winKey c true id)).isSome
    else [ctx]
  let s := ctxs.foldl (fun s c => s.publish c g id) s
  match ctxs.findSome? fun c => (kget s.wins (winKey c g id)).map fun w => (winKey c g id, w) with
  | none => (s, 0)
  | some (k, w) =>
    let now := s.placement k w.attr
    if (now.extractLsb' 8 4).toNat = attrDom w.attr ∧ (kget s.place (winSpace k * 4096 + winId k)).isSome then (s, 0)
    else
      let s := s.placeArena k w.attr
      s.moveLines (tagOf k) (slicesOf now) (slicesOf (s.placement k w.attr))

/-! ### NEW, ALLOC, QUOTA, INFO -/

/-- Table 5.9: the order of homes from narrow to wide; none for a code that is no home. -/
def homeRank : Nat → Option Nat
  | 2 => some 0 | 3 => some 1 | 0 => some 2 | 5 => some 3 | _ => none

/-- Table 5.9, Table 10.2, R319: does an attribute word break a condition of NEW? A control core lies in no cluster and no
section: a CLUSTER or SECTION home that it asks for is refused as no home of its own (DESIGN CHOICE, assumption 72). -/
def State.attrBad (s : State) (x : Wave) (pk : Nat) (p : Win) (t : BitVec 64) : Bool :=
  let kind := attrKind t
  let part := s.sysReg 0x0205 x.ctx
  decide (t.toNat % 128 ≠ 0) || t.getLsbD 12 || t.getLsbD 15 || attrGlobal t != winGlobal pk || (attrGlobal t && !x.super) ||
  kind != attrKind p.attr || (attrSync t && kind != 0) ||
  ((kind == 1 || kind == 2) && attrHome t != 5) || (kind == 3 && attrFill t != 0) ||
  (match homeRank (attrHome t), homeRank (attrHome p.attr) with
    | some a, some b => decide (b < a) || (decide (a < 2) && decide (192 ≤ x.core))
    | _, _ => true) ||
  !part.getLsbD (attrDom t) || !part.getLsbD (16 + attrMset t)

/-- R116: the lowest FREE identifier of a table. -/
def State.freeId (s : State) (sp : Nat) : Option Nat :=
  ((List.range 4095).map (· + 1)).find? fun i => (s.desc sp i 0).extractLsb' 62 2 == 0

/-- The highest FREE identifier of a table: the one that a launch's SCRATCH arena takes, so that ARENA.NEW meets the low
ones free (DEDUCED from Table 15.2; assumption 19). -/
def State.topId (s : State) (sp : Nat) : Option Nat :=
  ((List.range 4095).map (4095 - ·)).find? fun i => (s.desc sp i 0).extractLsb' 62 2 == 0

/-- Table 20.5: SOFF and SCORE of a SCRATCH arena whose first byte lies at an offset into its block's range: the core of the block
and the place in its scratchpad, as the descriptor of the block's own SCRATCH arena gives them. -/
def State.scratchPlace (s : State) (ctx root v : Nat) : Nat :=
  let w6 := (s.desc ctx root 6).toNat
  match s.blocks.find? fun b => b.2.ctx == ctx && b.2.scratchWin == root && !b.2.away with
  | some (_, b) => fieldAt (b.slots.getD (v / 49152) 0 * 49152 + v % 49152) 16 24 + fieldAt b.core 8 8
  | none => fieldAt (w6 / 2 ^ 16 % 2 ^ 24 + v) 16 24 + fieldAt (w6 / 2 ^ 8) 8 8

/-- Table 20.5: the descriptors of a block's SCRATCH arenas show where their bytes stand: in a saved image, or at its core. -/
def State.showScratch (s : State) (ctx root : Nat) (img : Option Nat) : State :=
  let base := match kget s.wins (winKey ctx false root) with
    | some r => r.base
    | none => 0
  (s.wins.filter fun e => winCtx e.1 == ctx && !winGlobal e.1 && attrKind e.2.attr == 3 && e.2.sroot == root && !e.2.lost).foldl (fun s e =>
    let w6 := s.desc ctx (winId e.1) 6
    match img with
    | some i => (s.setDesc ctx (winId e.1) 6 (w6 ||| 0x8000000000000000#64)).setDesc ctx (winId e.1) 7 (BitVec.ofNat 64 i)
    | none => (s.setDesc ctx (winId e.1) 6 (BitVec.ofNat 64 (w6.toNat % 256 + s.scratchPlace ctx root (e.2.base - base)))).setDesc ctx
        (winId e.1) 7 0) s

/-- R116: the range, parent and attributes of a new arena written to its descriptor, its leaves and its windows; its quota is
its size, cut to 32 bits of granules (assumption 75). -/
def State.makeArena (s : State) (x : Wave) (pk : Nat) (p : Win) (id base size : Nat) (t : BitVec 64) : State :=
  let k := winKey x.ctx (winGlobal pk) id
  let sp := winSpace k
  let gen := ((s.desc sp id 0).extractLsb' 58 4).toNat
  let inst := match attrHome t with
    | 2 => clusterOf x.core
    | 3 => sectionOf x.core
    | _ => 0
  let handle := (winHandle pk p.gen).toNat
  let spot := if attrKind t = 3 then match kget s.wins (winKey x.ctx false p.sroot) with
      | some r => s.scratchPlace x.ctx p.sroot (base - r.base)
      | none => 0
    else 0
  let s := s.setWords (s.descKey sp id 0) [descWord0 1 gen base, BitVec.ofNat 64 size, BitVec.ofNat 64 base,
    BitVec.ofNat 64 (size / 65536 * 2 ^ 32), t, BitVec.ofNat 64 handle, BitVec.ofNat 64 (inst + spot), 0]
  let holders := (s.wins.filter fun e => winSpace e.1 == winSpace pk && winId e.1 == winId pk).map (·.1)
  let s := holders.foldl (fun s h =>
    let rights := (kget s.wins h).getD p
    let w : Win :=
      { gen := gen, state := .live, base := base, size := size, attr := t, rd := rights.rd, wr := rights.wr, inst := inst
        parent := handle, buffer := false, root := false
        sroot := if attrKind t = 3 then p.sroot else 0, nwaves := 0, lost := false }
    let s := s.writeLeaves (winCtx h) k base size rights.rd rights.wr
    { s with wins := kset s.wins (winKey (winCtx h) (winGlobal pk) id) w }) s
  s.placeArena k t

/-- ARENA.NEW at its point (R116). -/
def State.performNew (s : State) (w : Nat) (a : Acc) (pn : Nat) (d : Reg) (h size t : BitVec 64) : State :=
  let x := s.wave w
  match s.arenaOf x.ctx h with
  | none => s.faultHead w x.pts a [] [] { code := 6, va := 0, mask := a.mask, info := 0 }
  | some (pk, p) =>
    let (s, ts) := s.arenaPoint pk x.pts
    let base := (s.bump pk + 65535) / 65536 * 65536
    let sp := winSpace pk
    let fail (r : Nat) : State :=
      (s.modWave w fun x => ((x.landU d 0).landU (d + 1) (BitVec.ofNat 64 r)).landP pn 0).finishHead w ts
    if s.attrBad x pk p t ∨ size = 0 ∨ size.toNat % 65536 ≠ 0 then fail 1
    else if p.state = .sealed then fail 2
    else match s.freeId sp with
      | none => fail 3
      | some id =>
        if p.base + p.size < base + size.toNat then fail 4
        else
          let s := s.makeArena x pk p id base size.toNat t
          let s := s.setBump pk (base + size.toNat)
          let gen := ((s.desc sp id 0).extractLsb' 58 4).toNat
          (s.modWave w fun x => ((x.landU d (winHandle (winKey x.ctx (winGlobal pk) id) gen)).landU (d + 1)
            (BitVec.ofNat 64 base)).landP pn 0xFFFFFFFF).finishHead w ts

/-- ARENA.ALLOC at its point (R116). -/
def State.performAlloc (s : State) (w : Nat) (a : Acc) (pn aln : Nat) (d : Reg) (h size : BitVec 64) : State :=
  let x := s.wave w
  match s.arenaOf x.ctx h with
  | none => s.faultHead w x.pts a [] [] { code := 6, va := 0, mask := a.mask, info := 0 }
  | some (k, win) =>
    let (s, ts) := s.arenaPoint k x.pts
    let n := (size.toNat + 127) / 128 * 128
    let al := 2 ^ (aln + 7)
    let p := (s.bump k + al - 1) / al * al
    if win.base + win.size < p + n then
      (s.modWave w fun x => (x.landU d 0).landP pn 0).finishHead w ts
    else
      ((s.setBump k (p + n)).modWave w fun x => (x.landU d (BitVec.ofNat 64 p)).landP pn 0xFFFFFFFF).finishHead w ts

/-- ARENA.QUOTA at its point (R115, R116). A quota of 2^32 granules or more is cut to the descriptor's 32 bits, as is NEW's
size in granules (DESIGN CHOICE, assumption 75). -/
def State.performQuota (s : State) (w : Nat) (a : Acc) (d : Reg) (h q : BitVec 64) : State :=
  let x := s.wave w
  match s.arenaOf x.ctx h with
  | none => s.faultHead w x.pts a [] [] { code := 6, va := 0, mask := a.mask, info := 0 }
  | some (k, _) =>
    let (s, ts) := s.arenaPoint k x.pts
    let c := s.charged (winSpace k) (winId k)
    ((s.setQuota (winSpace k) (winId k) q.toNat).modWave w fun x => x.landU d (BitVec.ofNat 64 c)).finishHead w ts

/-- Table 5.8: the value that ARENA.INFO selects. -/
def State.infoOf (s : State) (k : Nat) (w : Win) (sel : Nat) : BitVec 64 :=
  let sp := winSpace k
  let id := winId k
  match sel with
  | 0 => winHandle k w.gen
  | 1 => BitVec.ofNat 64 w.base
  | 2 => BitVec.ofNat 64 w.size
  | 3 => BitVec.ofNat 64 (s.bump k)
  | 4 => BitVec.ofNat 64 (s.quota sp id)
  | 5 => BitVec.ofNat 64 (s.charged sp id)
  | 6 => (s.desc sp id 4 &&& ~~~(0x8000#64)) ||| (if w.state = .sealed then 0x8000#64 else 0)
  | _ => BitVec.ofNat 64 w.parent

/-- ARENA.INFO at its point (R115, Table 5.8). -/
def State.performInfo (s : State) (w : Nat) (sel pn : Nat) (d : Reg) (va : BitVec 64) : State :=
  let x := s.wave w
  let found := if inReserved va.toNat then none else match s.cover x.ctx va.toNat with
    | some (k, win) => if win.lost = false ∧ (win.state = .live ∨ win.state = .sealed) then some (k, win) else none
    | none => none
  match found with
  | some (k, win) =>
    let (s, ts) := s.arenaPoint k x.pts
    (s.modWave w fun x => (x.landU d (s.infoOf k win sel)).landP pn 0xFFFFFFFF).finishHead w ts
  | none => (s.modWave w fun x => (x.landU d 0).landP pn 0).finishHead w x.pts

/-! ### SEAL, RESET, DROP -/

/-- R117: does an agent other than the sealing wave hold an unperformed write that passed its check against one of the
arenas? -/
def State.writersOf (s : State) (w : Nat) (ks : List Nat) : Bool :=
  let hit (r : Req) : Bool := ks.any fun k => winSpace k == winSpace r.win && winId k == winId r.win
  s.waves.any fun e => e.1 != w && e.2.pend.any fun a => (match a.op with
    | .store | .red .. | .atom .. | .cas .. => true
    | .hdlInit .. | .hdlExpect _ | .hdlArrive _ => true
    | _ => false) && ((a.reqs ++ a.second).any hit)

/-- Every dirty line of the arenas written back, or the fault of the first that cannot be. -/
def State.flushLines (s : State) (pick : Nat → Bool) : Except (Nat × Nat × Nat) State :=
  (s.lines.filter fun e => e.2.dirty && pick e.1).foldl (fun acc e => match acc with
    | .error e => .error e
    | .ok s => match s.writeBack e.1 with
      | .error (c, i) => .error (c, i, tagVa e.1)
      | .ok s => .ok s) (.ok s)

/-- R242: the largest time of any line of the arenas, at slices and scratchpads; the bases of the slices that home them keep the times
of the lines that these no longer hold (R228). -/
def State.arenaTime (s : State) (ks : List Nat) : Nat :=
  ks.foldl (fun t k => match kget s.wins k with
    | some w => max t (if attrKind w.attr = 3 then s.scratchTime k w else s.baseTime (slicesOf (s.placement k w.attr)))
    | none => t) (s.maxTime fun t => ks.any fun k => tagOf k t)

/-- ARENA.SEAL at its point (R117). -/
def State.performSeal (s : State) (w : Nat) (a : Acc) (h : BitVec 64) : State :=
  let x := s.wave w
  match s.arenaOf x.ctx h with
  | none => s.faultHead w x.pts a [] [] { code := 6, va := 0, mask := a.mask, info := 0 }
  | some (k, _) =>
    let ks := s.subtree nestLimit k
    if s.writersOf w ks then s.holdHead w a
    else match s.flushLines fun t => ks.any fun k => tagOf k t with
      | .error (c, i, va) => s.faultHead w x.pts a [] [] { code := c, va := va, mask := a.mask, info := i }
      | .ok s =>
        let ts := max x.pts (s.arenaTime ks + 1)
        let s := ks.foldl (fun s k =>
          let s := s.modArena k fun v => { v with state := .sealed }
          let s := s.setDesc (winSpace k) (winId k) 4 (s.desc (winSpace k) (winId k) 4 ||| 0x8000#64)
          match kget s.wins k with
          | some v => s.putDesc0 k v
          | none => s) s
        let (s, ts) := s.arenaPoint k ts
        s.finishHead w ts

/-- R216: entries in a slice's drop list. -/
def State.dropCount (s : State) (slice : Nat) : Nat := (s.drops.filter fun e => e.left.contains slice).length
/-- R216: has every slice's list room for `n` entries? -/
def State.dropRoom (s : State) (n : Nat) : Bool := (List.range 128).all fun i => decide (s.dropCount i + n ≤ 256)
/-- R118: is a generation of an arena still in some list? -/
def State.dropListed (s : State) (k gen : Nat) : Bool :=
  s.drops.any fun e => e.win == winSpace k * 4096 + winId k && e.gen == gen
/-- R331: the cc of a lap: 64 slots of 64 uc. -/
def lapCc : Nat := 8192
/-- An entry appended to every slice's list. -/
def State.dropAppend (s : State) (k gen : Nat) : State :=
  { s with drops := s.drops ++ [{ win := winSpace k * 4096 + winId k, gen := gen, lap := s.clk / lapCc, left := List.range 128 }] }
/-- R277: may the slices retire an entry: has the first whole lap after it ended? An access that passed its check before
the entry has performed by then (assumption 73). -/
def State.dropRipe (s : State) (e : Drop) : Bool :=
  decide (e.lap + 2 ≤ s.clk / lapCc) && !(s.waves.any fun x => x.2.pend.any fun a => (a.reqs ++ a.second).any fun r =>
    winSpace r.win * 4096 + winId r.win == e.win && r.gen == e.gen)

/-- R118, R119, R214, R215: one arena's lines and watches at the end of a generation. -/
def State.endLines (s : State) (k gen : Nat) : State :=
  let p (t : Nat) : Bool := tagOf k t && tagGen t == gen
  (s.fireWhere p).killLines p

/-- R214: what an arena has charged goes back to every ancestor. -/
def State.refund (s : State) (k : Nat) : State :=
  let c := s.charged (winSpace k) (winId k)
  let up := (s.lineage (winCtx k) 4096 (winSpace k) (winId k)).drop 1
  (up.foldl (fun s e => s.setCharged e.1 e.2 (s.charged e.1 e.2 - c)) s).setCharged (winSpace k) (winId k) 0

/-- R119: one arena marked dropped. -/
def State.dropOne (s : State) (k : Nat) : State :=
  match kget s.wins k with
  | none => s
  | some v =>
    let s := (s.endLines k v.gen).dropAppend k v.gen
    let s := s.modArena k fun v => { v with state := .dropped }
    s.putDesc0 k { v with state := .dropped }

/-- ARENA.RESET at its point (R118, R216, R242). -/
def State.performReset (s : State) (w : Nat) (a : Acc) (d : Reg) (h : BitVec 64) : State :=
  let x := s.wave w
  match s.arenaOf x.ctx h with
  | none => s.faultHead w x.pts a [] [] { code := 6, va := 0, mask := a.mask, info := 0 }
  | some (k, v) =>
    let ks := s.subtree nestLimit k
    let gen := (v.gen + 1) % 16
    if 256 < ks.length then s.faultHead w x.pts a [] [] { code := 4, va := 0, mask := a.mask, info := 0 }
    else if s.dropListed k gen ∨ s.dropRoom ks.length = false then s.holdHead w a
    else
      let ts := max x.pts (s.arenaTime ks + 1)
      let (s, ts) := s.arenaPoint k ts
      let s := s.refund k
      let s := (ks.drop 1).foldl (fun s k => s.dropOne k) s
      let s := (s.endLines k v.gen).dropAppend k v.gen
      let s := s.modArena k fun v => { v with gen := gen }
      let s := ((s.putDesc0 k { v with gen := gen }).setBump k v.base).closeTimes (tagOf k) ts
      (s.modWave w fun x => x.landU d (winHandle k gen)).finishHead w ts

/-- ARENA.DROP at its point (R119, R216, R242). -/
def State.performDrop (s : State) (w : Nat) (a : Acc) (h : BitVec 64) : State :=
  let x := s.wave w
  match s.arenaOf x.ctx h with
  | none => s.faultHead w x.pts a [] [] { code := 6, va := 0, mask := a.mask, info := 0 }
  | some (k, _) =>
    let ks := s.subtree nestLimit k
    if 256 < ks.length then s.faultHead w x.pts a [] [] { code := 4, va := 0, mask := a.mask, info := 0 }
    else if s.dropRoom ks.length = false then s.holdHead w a
    else
      let ts := max x.pts (s.arenaTime ks + 1)
      let (s, ts) := s.arenaPoint k ts
      let s := s.refund k
      (ks.foldl (fun s k => s.dropOne k) s).finishHead w ts

/-- R306: the owner entries of the granules that are backed, by the keys of their words 1: B stands in a word's last byte. -/
def State.backedEntries (s : State) : List Nat :=
  (List.range 16).flatMap fun st =>
    let lo := (Config.ownBase st).toNat
    let hi := lo + 16 * (63000000000 / 4096)
    (s.mem.filter fun c => decide (lo ≤ c.1) && decide (c.1 < hi) && (c.1 - lo) % 16 == 15 && c.2.getLsbD 6).map (·.1 - 7)

/-- R306: does an owner entry, by its words 0 and 1, record a granule backed for an arena and generation? -/
def ownerBacks (name gen : Nat) (w0 w1 : BitVec 64) : Bool :=
  ownerSpace w0 == name / 4096 && (w1.extractLsb' 58 4).toNat == gen && (w1.extractLsb' 0 12).toNat == name % 4096

/-- R306: B clears for every granule whose owner entry, by its words 0 and 1, `p` picks. -/
def State.clearB (s : State) (p : BitVec 64 → BitVec 64 → Bool) : State :=
  s.backedEntries.foldl (fun s k =>
    let w1 := s.word k
    if p (s.word (k - 8)) w1 then s.setWord k (w1 &&& 0x8000000000000000#64) else s) s

/-- R306: B clears for every granule that an entry's arena and generation backed. -/
def State.clearBacked (s : State) (name gen : Nat) : State := s.clearB (ownerBacks name gen)

/-- R306: the granules backed for an arena and generation, by address ÷ 64 KiB, from the owner tables. -/
def State.backedGranules (s : State) (name gen : Nat) : List Nat :=
  (s.backedEntries.filterMap fun k =>
    if ownerBacks name gen (s.word (k - 8)) (s.word k) then some ((s.word (k - 8)).extractLsb' 16 40).toNat else none).eraseDups

/-- R277: granules of HBM that a freed arena gives back to its ancestor are untouched: none is backed, and no line of them is left. -/
def State.untouch (s : State) (sp : Nat) (gs : List Nat) : State :=
  if gs.isEmpty then s
  else (s.clearB fun w0 _ => ownerSpace w0 == sp && gs.contains (w0.extractLsb' 16 40).toNat).killLines
    fun t => decide (t < 2 ^ 100) && tagSpace t == sp && gs.contains (tagVa t / 65536)

/-- R213, R302, R306: an identifier none of whose entries is left passes to FREE; B clears for its granules, and the
granules still marked for it revert and are untouched (R277). -/
def State.freeArena (s : State) (name : Nat) : State :=
  let ks := (s.wins.filter fun e => winSpace e.1 * 4096 + winId e.1 == name && e.2.state == .dropped)
  if s.drops.any fun e => e.win == name then s
  else ks.foldl (fun s e =>
    let gs := s.marked (winCtx e.1) e.1 e.2
    let s := s.revertLeaves (winCtx e.1) e.1 e.2
    let s := if attrKind e.2.attr = 0 then s.untouch (winSpace e.1) gs else s
    let s := s.putDesc0 e.1 { e.2 with state := .free }
    { s with wins := kdel s.wins e.1, place := kdel s.place name }) s

end Sys2Proof.Machine
end

