-- ==== Sys2Proof/Machine/Halts.lean ====
section
/-! DEFINITION. The end of a halt (R185, R197): once the accesses of a stopping block have performed, its records are
written and it stands halted. -/
namespace Sys2Proof.Machine

/-- The PC of the instruction at which a path stands: a held path's is the one that holds it. -/
def Path.standing (p : Path) : Addr := match p.hold with
  | .none => p.pc
  | _ => p.pc - 12

/-- R197, step 3: every access that the waves of a stopping block have retired has performed. -/
def State.drained (s : State) (bid : Nat) (b : Block) : Bool :=
  (blockWaves bid b.nwaves).all fun w => (s.wave w).pend.isEmpty && (s.wave w).park.isNone

/-- What a wave's halt records share: the trap's own fields on the path that trapped, the block's code on the others. -/
def State.haltInfo (s : State) (b : Block) (w : Nat) (x : Wave) (pcb : Bool) (t : Trap) : RecInfo :=
  let p := x.path pcb
  let own := x.trap.isSome && x.spill.isNone && pcb == x.lastPcb
  { s.waveRecord x pcb with
    pc := p.standing, code := t.code, detail := t.detail, primary := own && b.primary == some w, skid := x.skid
    mask := if own then t.mask else p.mask, va := if own then t.va else 0, info := if own then t.info else 0
    half := if own then t.half else 0, ctr := if own then t.ctr else 0
    clk := b.haltClk - dget 0 s.coreReset x.core, form := b.haltForm
    join := if b.haltForm then (p.join.map (·.toNat)).getD 0 else 0 }

/-- The PATH records of a divergence stack, from top to bottom, with their places. -/
def stackPaths (st : List DivRec) : List (Path × Nat) := st.zipIdx.filterMap fun e => match e.1 with
  | .path p => some (p, e.2)
  | .frame _ _ => none

/-- The record of a spilled path of a wave of a halted block; the trap's own fields where it is the one that trapped. -/
def State.spillInfo (s : State) (b : Block) (w : Nat) (x : Wave) (e : Path × Nat) (t : Trap) : RecInfo :=
  let r := { s.haltInfo b w { x with trap := none } false t with
    path := 2, spilled := true, pc := e.1.standing, mask := e.1.mask
    join := if b.haltForm then (e.1.join.map (·.toNat)).getD 0 else 0 }
  if x.trap.isSome && x.spill == some e.2 then
    { r with primary := b.primary == some w, mask := t.mask, va := t.va, info := t.info, half := t.half, ctr := t.ctr }
  else r

/-- R185: the records of one wave of a halted block: one for the path reported in FOLDED (the one that trapped, or the one that
issued last), one for each path in SPLIT. -/
def State.haltRecords (s : State) (b : Block) (w : Nat) (x : Wave) (t : Trap) : List RecInfo :=
  if b.haltForm then
    let live := ([false, true].filter fun q => (x.path q).live).map fun q => s.haltInfo b w x q t
    let st := (stackPaths x.stack).map fun e => s.spillInfo b w x e t
    let masks := (([false, true].filter fun q => (x.path q).live).map fun q => (x.path q).mask) ++ (stackPaths x.stack).map (·.1.mask)
    (live ++ st).zipIdx.map fun (e : RecInfo × Nat) => { e.1 with sib := (masks.eraseIdx e.2).foldl (· ||| ·) 0 }
  else match (stackPaths x.stack).find? fun e => x.trap.isSome && x.spill == some e.2 with
    | some e => [s.spillInfo b w x e t]
    | none => [s.haltInfo b w x x.lastPath t]

/-- Words of a save area, from an offset. -/
def State.putImage (s : State) (img off : Nat) (ws : List (BitVec 64)) : State := s.setWords (raKey (img + off)) ws

/-- R316: copies of a halted block's trap records: each wave's first, then its later ones in its 17 slots. -/
def State.saveRecords (s : State) (img bid : Nat) (b : Block) : State :=
  (s.liveWaves bid).foldl (fun s w =>
    let x := s.wave w
    let rs := s.haltRecords b w x (x.trap.getD (b.halt.getD (Trap.of 0 0)))
    rs.zipIdx.foldl (fun s r =>
      s.putImage img (if r.2 = 0 then 0x500 + 64 * x.index else 0x19000 + 1088 * x.index + 64 * (r.2 - 1)) (recordWords r.1)) s) s

/-- R316: a block that halts while it is saved has its state (Table 12.3's code in word 6) and its records in its image. -/
def State.noteHalt (s : State) (bid : Nat) (b : Block) : State :=
  match (kget s.tasks b.task).bind (·.saved) with
  | some v => if b.away then (s.putImage v.img 0x30 [6]).saveRecords v.img bid b else s
  | none => s

/-- R185, R197, steps 4 and 5: the engine commands that have not started are cancelled, the records of a drained block are
written, and it stands halted, its task HALTED. -/
def State.finishHalt (s : State) (bid : Nat) : State :=
  match s.block? bid with
  | none => s
  | some b =>
    if b.stopping = false ∨ b.halted ∨ s.drained bid b = false then s
    else
      let t := b.halt.getD (Trap.of 0 0)
      let s := s.cancelCmds fun c => c.block != bid
      let s := (s.liveWaves bid).foldl (fun s w =>
        let x := s.wave w
        let s := (s.haltRecords b w x (x.trap.getD t)).foldl (fun s r => s.writeRecord (dieOf x.core) (recordWords r) none) s
        s.modWave w fun y => { y with stopped := true }) s
      { (s.noteHalt bid b).modBlock bid fun b => { b with halted := true } with
        tasks := kmod s.tasks b.task fun t => { t with state := .halted } }

end Sys2Proof.Machine
end

