-- ==== Sys2Proof/Machine/Tasks.lean ====
section
/-! DEFINITION. Nodes, bins and the distributor (R249 to R255), the life of a task (R256, R134, R139, R200, R315),
views, buffers, batons and merges (R136, R257 to R262, R281). -/
namespace Sys2Proof.Machine

/-! ### Node definition fields (Table 12.1) -/

/-- A field of a definition word. -/
def Node.field (n : Node) (i lo width : Nat) : Nat := ((n.words.getD i 0).toNat / 2 ^ lo) % 2 ^ width
/-- ENTRY. -/
def Node.entry (n : Node) : Nat := n.field 0 0 56
/-- HURDLES. -/
def Node.hurdles (n : Node) : Nat := n.field 1 40 6
/-- ARRAYS. -/
def Node.arrays (n : Node) : Nat := n.field 1 37 3
/-- NWAVES. -/
def Node.nwaves (n : Node) : Nat := n.field 1 32 5
/-- ROLES, wave `i`. -/
def Node.role (n : Node) (i : Nat) : Role :=
  match n.field 1 (2 * i) 2 with
  | 0 => .vector | 1 => .copy | _ => .matrix
/-- TIMER. -/
def Node.timer (n : Node) : Nat := n.field 2 32 32
/-- COAL as a count. -/
def Node.coal (n : Node) : Nat := n.field 2 16 9 + 1
/-- RECSIZE. -/
def Node.recSize (n : Node) : Nat := n.field 2 0 16
/-- NODE. -/
def Node.number (n : Node) : Nat := n.field 3 48 10
/-- BINCAP. -/
def Node.binCap (n : Node) : Nat := n.field 3 32 16
/-- PGROUP. -/
def Node.pgroup (n : Node) : Nat := n.field 7 40 4

/-- R252: new records in the bin. -/
def Node.occupancy (n : Node) : Nat := (n.bin.filter fun r => r.resume.isNone).length

/-- R135, R251: the node that a handle names in a context. -/
def State.nodeOf (s : State) (ctx : Nat) (h : BitVec 64) : Option Node :=
  if h.toNat < 1024 then match kget s.nodes h.toNat with
    | some n => if n.ctx = ctx then some n else none
    | none => none
  else none

/-! ### Bins (R252, R253) -/

/-- A new record enters a bin; its sequence number. -/
def State.binRecord (s : State) (node : Nat) (bytes : List Byte) (ts : Nat) (spawn : Option Nat) : State :=
  { s with nodes := kmod s.nodes node fun n => { n with
      bin := n.bin ++ [{ seq := n.nextSeq, bytes := bytes, ts := ts, entered := s.clk / 2, spawn := spawn, resume := none }]
      nextSeq := n.nextSeq + 1 } }

/-- R252, R256: a resume record enters a bin. -/
def State.binResume (s : State) (t : Nat) : State :=
  match kget s.tasks t with
  | none => s
  | some k =>
    { s with
      nodes := kmod s.nodes k.node fun n => { n with
        bin := n.bin ++ [{ seq := k.seq, bytes := [], ts := k.ts, entered := s.clk / 2, spawn := none, resume := some t }] }
      tasks := kset s.tasks t { k with state := if k.state = .ending then .ending else .ready } }

/-- What the head of a bin would place next (R253, R254). -/
inductive Head where
  | none
  | resume (t : Nat)
  | spawn (r : BinRec) (t : Nat)
  | batch (rs : List BinRec)

/-- R253: the run of ENQ and host records at the front. -/
def runOf : Nat → List BinRec → List BinRec
  | 0, _ => []
  | _, [] => []
  | n + 1, r :: rs => if r.spawn.isSome then [] else r :: runOf n rs

/-- R253, R254: the head of a bin. -/
def Node.headTask (n : Node) : Head :=
  match n.bin.find? fun r => r.resume.isSome with
  | some r => match r.resume with
    | some t => .resume t
    | none => .none
  | none => match n.bin with
    | [] => .none
    | r :: _ => match r.spawn with
      | some t => .spawn r t
      | none =>
        let run := runOf n.coal n.bin
        let behind : Bool := match (n.bin.drop run.length).head? with
          | some r => r.spawn.isSome
          | none => false
        if (decide (run.length = n.coal) || behind || n.expired) then .batch run else .none

/-! ### Placement (R254, R255) -/

/-- The blocks standing on a core. -/
def State.blocksOn (s : State) (core : Nat) : List (Nat × Block) := s.blocks.filter fun b => b.2.core == core && !b.2.away

/-- R191: what has been freed on a core in this uc: not available before the next. -/
def State.justFreed (s : State) (core : Nat) : List Freed := s.freed.filter fun f => f.core == core && f.uc == s.clk / 2

/-- The free slots of a core, ascending. -/
def State.freeSlots (s : State) (core : Nat) : List Nat :=
  (List.range 16).filter fun i => !((s.blocksOn core).any fun b => b.2.slots.contains i) &&
    !((s.justFreed core).any fun f => f.slots.contains i)

/-- R188: the lowest free run of `n` arrays of a core. -/
def State.freeArrays (s : State) (core n : Nat) : Option Nat :=
  let busy (a : Nat) : Bool :=
    ((s.blocksOn core).any fun b => decide (b.2.arrayBase ≤ a) && decide (a < b.2.arrayBase + b.2.arrayCount)) ||
    (s.justFreed core).any fun f => decide (f.arrayBase ≤ a) && decide (a < f.arrayBase + f.arrayCount)
  (List.range 4).find? fun a => decide (a + n ≤ 4) && (List.range n).all fun i => !busy (a + i)

/-- The inherited views of a task. -/
def Task.inherited (t : Task) : List View := t.views.filter (·.inherited)

/-- View-table entries in use on a core. -/
def State.viewsUsed (s : State) (core : Nat) : Nat :=
  (s.blocksOn core).foldl (fun n b => n + (match kget s.tasks b.2.task with
    | some t => t.inherited.length
    | none => 0)) 0

/-- R325: may a core take work? -/
def State.coreOpen (s : State) (core : Nat) : Bool :=
  (s.sysReg 0x0208 (clusterOf core)).toNat / 4 % 4 == 0 && !(s.vacates.any fun v => v.cores.contains core)

/-- R255: does a core have all that a task of a node needs? -/
def State.fits (s : State) (n : Node) (views : Nat) (core : Nat) : Bool :=
  s.coreOpen core && decide (n.nwaves ≤ (s.freeSlots core).length) &&
  (n.arrays == 0 || (s.freeArrays core n.arrays).isSome) &&
  decide ((s.blocksOn core).foldl (fun k b => k + b.2.hurdleMax) 0 + (s.justFreed core).foldl (fun k f => k + f.hurdles) 0 +
    n.hurdles ≤ 32) &&
  decide (s.viewsUsed core + views ≤ 32)

/-- R255: the allowed cores in the order of the search. -/
def Node.searchOrder (n : Node) : List Nat :=
  let cs := (List.range 192).filter n.cores.contains
  match n.lastCore with
  | none => cs
  | some c => cs.filter (fun k => decide (c < k)) ++ cs.filter (fun k => decide (k ≤ c))

/-- R279: the base of a task's SCRATCH arena. -/
def scratchBaseOf (node seq : Nat) : Nat := 0x00E0000000000000 + 2 ^ 20 * (2 ^ 16 * node + seq % 2 ^ 16)
/-- R187: the size of a block's SCRATCH arena. -/
def scratchSize (n : Nat) : Nat := (n * 49152 + 65535) / 65536 * 65536

/-- R279: is the SCRATCH range of a new task still covered? -/
def State.scratchBusy (s : State) (node seq : Nat) : Bool :=
  s.blocks.any fun b => b.2.node == node && b.2.scratchBase == scratchBaseOf node seq

/-- A number no task has. -/
def State.nextTask (s : State) : Nat := (s.tasks.foldl (fun m e => max m e.1) 0) + 1
/-- A number no block has. -/
def State.nextBlock (s : State) : Nat :=
  s.tasks.foldl (fun m e => match e.2.block with
    | some b => max m (b + 1)
    | none => m) ((s.blocks.foldl (fun m e => max m e.1) 0) + 1)

/-- R132: the entries of a batch after its header: each record in 128-byte entries. -/
def batchEntries (size : Nat) (rs : List BinRec) : List (List (BitVec 32)) :=
  rs.flatMap fun r => (List.range ((size + 127) / 128)).map fun i =>
    (List.range 32).map fun l => BitVec.ofNat 32 (ofBytes ((r.bytes.drop (128 * i + 4 * l)).take 4))

/-- R132: the header entry. -/
def headerEntry (count size node : Nat) : List (BitVec 32) :=
  [BitVec.ofNat 32 count, BitVec.ofNat 32 size, BitVec.ofNat 32 node] ++ List.replicate 29 0

/-- R208: the SCRATCH arena of a launched block, if an identifier is free. -/
def State.giveScratch (s : State) (ctx id node seq n core soff : Nat) : State :=
  let base := scratchBaseOf node seq
  let size := scratchSize n
  let gen := ((s.desc ctx id 0).extractLsb' 58 4).toNat
  let attr : BitVec 64 := BitVec.ofNat 64 (3 * 128)
  let k := winKey ctx false id
  let s := s.setWords (s.descKey ctx id 0) [descWord0 1 gen base, BitVec.ofNat 64 size, BitVec.ofNat 64 base, 0, attr, 0,
    BitVec.ofNat 64 (soff * 65536 + core * 256), 0]
  let w : Win :=
    { gen := gen, state := .live, base := base, size := size, attr := attr, rd := true, wr := true, inst := 0, parent := 0
      buffer := false, root := false, sroot := id, nwaves := n, lost := false }
  let s := s.writeLeaves ctx k base size true true
  { s with wins := kset s.wins k w }

/-- The launch wave `i` of a block (Table 1.5, R188, R189, R227). -/
def launchWave (n : Node) (b core slot i arr ctx pts age : Nat) : Wave :=
  { Wave.launch with
    pca := { live := true, pc := BitVec.ofNat 56 n.entry, mask := 0xFFFFFFFF, join := none, last := 0, hold := .none }
    pts := pts, age := age, role := n.role i
    array := if n.role i = .matrix then
        some (arr + ((List.range i).filter fun j => n.role j == .matrix).length) else none
    core := core, slot := slot, index := i, block := b, ctx := ctx }

/-- R187, R189, R132, R208: a new task starts on a core. -/
def State.launch (s : State) (node : Nat) (n : Node) (core : Nat) (tid : Nat) (t : Task) (recs : List BinRec) (id : Nat) : State :=
  let slots := (s.freeSlots core).take n.nwaves
  let b := s.nextBlock
  let arr := (s.freeArrays core n.arrays).getD 0
  let entries := headerEntry recs.length n.recSize node :: batchEntries n.recSize recs
  let age := s.nextAge
  let s := slots.foldl (fun (s : State) i => s.clearBytes (scratchKey core (i * 49152)) 49152) s
  let s := s.giveScratch n.ctx id node t.seq n.nwaves core ((slots.headD 0) * 49152)
  let blk : Block :=
    { core := core, slots := slots, node := node, task := tid, seq := t.seq, ctx := n.ctx, nwaves := n.nwaves
      scratchWin := id, scratchBase := scratchBaseOf node t.seq, bars := [], fifos := [(0, entries.take 16)], binds := [(0, 0)]
      mpush := [], refill := entries.drop 16, hurdles := [], hurdleMax := n.hurdles, arrayBase := arr, arrayCount := n.arrays, halt := none
      haltClk := 0, haltForm := false
      haltDraw := 0, primary := none, halted := false, stopping := false, wdog := 0, bark := false, vacating := false, away := false
      ept := 0, tender := none }
  let waves := (List.range n.nwaves).foldl (fun ws i =>
    kset ws (16 * b + i) (launchWave n b core (slots.getD i 0) i arr n.ctx (t.ts + 1) (age + i))) s.waves
  let arrays := (List.range n.arrays).foldl (fun as i => kset as (4 * core + arr + i) ArraySt.fresh) s.arrays
  { s with
    waves := waves, arrays := arrays, blocks := kset s.blocks b blk
    tasks := kset s.tasks tid { t with state := .running, block := some b } }

/-! ### Saving and resuming a block (R200, R315 to R317) -/

/-- The RAs of a die's save areas (SVPOOL). -/
def State.saveAreas (s : State) (die : Nat) : List Nat :=
  let p := s.sysReg 0x0203 die
  let base := (p.extractLsb' 17 23).toNat * 0x20000
  (List.range (p.extractLsb' 52 12).toNat).map fun i => base + i * 0x220000

/-- SVFREE and the lowest free area. -/
def State.freeAreas (s : State) (die : Nat) : List Nat := (s.saveAreas die).filter fun a => !s.saveUse.contains a

/-- Table 21.2: C0 to C11 of a wave in a save area. -/
def State.saveCtrs (s : State) (img : Nat) (x : Wave) : State :=
  (List.range 12).foldl (fun s i =>
    let c := x.ctr i
    s.setWord (raKey (img + 0x20000 * (x.index + 1) + 0xC2A0 + 8 * i))
      (BitVec.ofNat 64 (c.count % 64 + (if c.err then 256 else 0) + fieldAt c.reason 16 8))) s

/-- The 8-byte word of a wave's part of a save area, from the part's key, that holds what a key of `Wave.bad` names. -/
def imageWord (base k : Nat) : Nat :=
  if k < 8192 then (base + 0x10000 + 4 * k) / 8 else if k < 8448 then (base + 0xC100 + 8 * (k - 8384)) / 8 else (base + 0xC280 + 4 * (k - 8448)) / 8

/-- What a word of a wave's part of a save area holds of its registers, as keys of `Wave.bad`. -/
def imageKeys (base p : Nat) : List Nat :=
  let o := 8 * p - base
  if 8 * p < base then [] else if 0x10000 ≤ o ∧ o < 0x16000 then [(o - 0x10000) / 4, (o - 0x10000) / 4 + 1]
  else if 0xC100 ≤ o ∧ o < 0xC280 then [8384 + (o - 0xC100) / 8]
  else if 0xC280 ≤ o ∧ o < 0xC2A0 then [8448 + (o - 0xC280) / 4, 8449 + (o - 0xC280) / 4]
  else []

/-- R337: what is poisoned of a wave's registers as its saved image holds them: of a poisoned word, what was poisoned at the save,
or else all of it. -/
def Wave.imageBad (x : Wave) (poison : List Nat) (base : Nat) : List Nat :=
  poison.flatMap fun p =>
    let ks := imageKeys base p
    if (ks.filter x.bad.contains).isEmpty then ks else ks.filter x.bad.contains

/-- Table 21.2: one wave's part of a save area; a watch's 16 bytes hold its line, then its armed bit (assumption 26). -/
def State.saveWave (s : State) (img : Nat) (b : Block) (x : Wave) : State :=
  let w := 0x20000 * (x.index + 1)
  let s := s.copyBytes (scratchKey b.core (x.slot * 49152)) (raKey (img + w)) 49152
  let s := (s.clearBytes (raKey (img + w + 0xC000)) 0x4000).clearBytes (raKey (img + w + 0x10000)) 24576
  let s : State := { s with poison := s.poison ++ (x.bad.map (imageWord (raKey (img + w)))).eraseDups }
  let s := x.s.foldl (fun s e => s.setWord (raKey (img + w + 0xC100 + 8 * (e.1 - 192))) e.2) s
  let s := (List.range 8).foldl (fun s i => s.setBytes (raKey (img + w + 0xC280 + 4 * i)) (toBytes 4 (x.pred i).toNat)) s
  let s := s.saveCtrs img x
  let s := s.putImage img (w + 0xC300) [x.lfsr, BitVec.ofNat 64 x.pts]
  let s := (List.range 4).foldl (fun s i =>
    let t := dget Watch.off x.watches i
    s.putImage img (w + 0xC310 + 16 * i) [BitVec.ofNat 64 (tagVa t.line), if t.armed then 1 else 0]) s
  let s := match x.park with
    | some p => s.putImage img (w + 0xC380) p.words
    | none => s
  let s := (List.range 384).foldl (fun s i =>
    let t := dget (0, 0) s.ltime (scratchKey b.core (x.slot * 49152 + 128 * i) / 128)
    if t = (0, 0) then s
    else s.putImage img (w + 0xC400 + 16 * i) [BitVec.ofNat 64 t.1, BitVec.ofNat 64 t.2]) s
  x.v.foldl (fun s e => s.setBytes (raKey (img + w + 0x10000 + 4 * e.1)) (toBytes 4 e.2.toNat)) s

/-- Table 21.2: the image of a block in its save area; how the fields of a row stand in its bytes is the model's choice where the
table does not say (assumption 26). -/
def State.saveImage (s : State) (img : Nat) (bid : Nat) (b : Block) (t : Task) : State :=
  let s := s.clearBytes (raKey img) 0x20000
  let roles := (List.range b.nwaves).foldl (fun n i => n + 4 ^ i * (match (s.wave (16 * bid + i)).role with
    | .vector => 0 | .copy => 1 | .matrix => 2)) 0
  let st := match t.state with
    | .halted => 6 | .ending => 4 | _ => 2
  let s := s.putImage img 0 [BitVec.ofNat 64 b.node, BitVec.ofNat 64 b.seq, BitVec.ofNat 64 b.nwaves, BitVec.ofNat 64 roles,
    BitVec.ofNat 64 b.arrayCount, BitVec.ofNat 64 b.scratchWin, BitVec.ofNat 64 st, 0]
  let s := (List.range 4).foldl (fun s i =>
    let r := dget Barrier.zero b.bars i
    s.setWord (raKey (img + 0x40 + 8 * i)) (BitVec.ofNat 64 (r.phase + fieldAt r.arrivals 8 8 + fieldAt r.n 16 8))) s
  let s := (List.range 8).foldl (fun s i =>
    s.setWord (raKey (img + 0x80 + 8 * i)) (BitVec.ofNat 64 ((match kget b.binds i with
      | some f => 16 + f
      | none => 0) + fieldAt (dget [] b.fifos i).length 8 8))) s
  let s := b.hurdles.zipIdx.foldl (fun s h => s.putImage img (0x100 + 16 * h.2) [BitVec.ofNat 64 h.1, 1]) s
  let s := t.views.zipIdx.foldl (fun s v => s.putImage img (0x300 + 64 * v.2) [BitVec.ofNat 64 v.1.base,
    BitVec.ofNat 64 v.1.size, BitVec.ofNat 64 (v.1.fmt + 32 * v.1.op + (if v.1.inherited then 256 else 0)),
    BitVec.ofNat 64 v.1.buf, BitVec.ofNat 64 v.1.cursor]) s
  let s := (List.range b.arrayCount).foldl (fun s i =>
    let a := dget ArraySt.fresh s.arrays (4 * b.core + b.arrayBase + i)
    s.setWord (raKey (img + 0x900 + 8 * i)) (BitVec.ofNat 64 ((if a.tagres then 1 else 0) + (if a.poison then 2 else 0) +
      fieldAt a.chain 8 8 + (if a.member then 65536 else 0)))) s
  let s := b.fifos.foldl (fun s f => f.2.zipIdx.foldl (fun s e =>
    s.setBytes (raKey (img + 0x1000 + 2048 * f.1 + 128 * e.2)) ((e.1.take 32).flatMap fun x => toBytes 4 x.toNat)) s) s
  (blockWaves bid b.nwaves).foldl (fun s w => s.saveWave img b (s.wave w)) (if b.halted then s.saveRecords img bid b else s)

/-- R134, R315: a block is saved into an area; its core gets back slots, arrays, trackers and view-table entries. -/
def State.saveBlock (s : State) (bid img : Nat) : State :=
  match s.block? bid with
  | none => s
  | some b0 => match kget s.tasks b0.task with
    | none => s
    | some t =>
      let b := b0.flushPush
      let s := s.saveImage img bid b t
      let arrs := (List.range b.arrayCount).map fun i => dget ArraySt.fresh s.arrays (4 * b.core + b.arrayBase + i)
      let s := s.showScratch b.ctx b.scratchWin (some img)
      let s := (blockWaves bid b.nwaves).foldl (fun s w => s.modWave w fun x => { x with undo := [], late := [] }) s
      { s with
        saveUse := s.saveUse ++ [img]
        arrays := s.arrays.filter fun e => decide (e.1 < 4 * b.core + b.arrayBase) || decide (4 * b.core + b.arrayBase + b.arrayCount ≤ e.1)
        blocks := kset s.blocks bid { b with away := true, slots := [], vacating := false, wdog := 0, bark := false }
        tasks := kset s.tasks b.task { t with
          saved := some { arrays := arrs, img := img, conds := [] }
          state := if t.state = .running then .saved else t.state } }

/-- The words of a table in memory, read back: entries that hold no byte are zero. -/
def State.loadTbl (s : State) (base n bytes : Nat) : Tbl Nat :=
  let hits := ((s.mem.filter fun c => decide (base ≤ c.1) && decide (c.1 < base + n * bytes)).map fun c => (c.1 - base) / bytes).eraseDups
  hits.foldl (fun t i => kset t i (ofBytes (s.bytes (base + i * bytes) bytes))) []

/-- A counter as a saved image holds it (R316): the error bit and the reason, and as many increments as its count says; one that
only the image counts never completes. -/
def Ctr.fromImage (c : Ctr) (v : Nat) : Ctr :=
  { c with
    toks := (c.toks ++ List.replicate 64 ({ uid := 2 ^ 64, done := false, err := 0, info := 0, pts := 0, due := none } : Token)).take (v % 64)
    err := v.testBit 8, reason := v / 65536 % 256 }

/-- A park record as a saved image holds it (R200, R316); one whose words are zero parks nothing. -/
def Park.fromImage (p : Park) (ws : List (BitVec 64)) : Option Park :=
  if ws.all (· == 0) then none
  else if p.service.isSome then some { p with words := ws }
  else some { p with
    words := ws, code := (ws.getD 0 0).toNat % 256, va := (ws.getD 3 0).toNat % 2 ^ 56, mask := (ws.getD 2 0).setWidth 32
    info := (ws.getD 4 0).toNat % 2 ^ 32 }

/-- R200 to R202: one wave as it resumes on a core: registers, counters and park record from the image, watches fired, STALL
distances elapsed, limits counting again, age new; which of its paths issued less recently (R26) is as it was. -/
def State.resumeWave (s : State) (img core slot arr age : Nat) (b : Block) (x : Wave) : Wave :=
  let w := raKey (img + 0x20000 * (x.index + 1))
  let path (p : Path) : Path := { p with since := s.clk }
  { x with
    s := (s.loadTbl (w + 0xC100) 48 8).map fun e => (e.1 + 192, BitVec.ofNat 64 e.2)
    p := (((s.loadTbl (w + 0xC280) 7 4)).map fun e => (e.1, BitVec.ofNat 32 e.2))
    v := (s.loadTbl (w + 0x10000) 6144 4).map fun e => (e.1, BitVec.ofNat 32 e.2)
    lfsr := s.word (w + 0xC300), pts := (s.word (w + 0xC308)).toNat
    watches := x.watches.map fun t => (t.1, if t.2.armed then { t.2 with fired := true } else t.2)
    pca := path x.pca, pcb := path x.pcb
    stack := x.stack.map fun
      | .path p => .path (path p)
      | r => r
    ctrs := (List.range 12).foldl (fun t i => dset Ctr.zero t i ((x.ctr i).fromImage (s.word (w + 0xC2A0 + 8 * i)).toNat)) x.ctrs
    park := x.park.bind fun p => p.fromImage ((List.range 8).map fun i => s.word (w + 0xC380 + 8 * i))
    bad := x.imageBad s.poison w
    rested := true, eligible := 0, age := age
    core := core, slot := slot
    array := x.array.map fun a => a - b.arrayBase + arr }

/-- The save area of a wave's block, while the block is saved. -/
def State.imageOf (s : State) (x : Wave) : Option Nat :=
  match s.block? x.block with
  | some b => if b.away then ((kget s.tasks b.task).bind (·.saved)).map (·.img) else none
  | none => none

/-- R134: a completion for a wave of a saved block is applied to its saved counter image. -/
def State.noteImage (s : State) (w : Nat) : State :=
  match s.imageOf (s.wave w) with
  | some img => s.saveCtrs img (s.wave w)
  | none => s

/-- An S register written in the saved image of a wave whose block is away (R176, R316). -/
def State.noteReg (s : State) (w : Nat) (d : Reg) (v : BitVec 64) : State :=
  match s.imageOf (s.wave w) with
  | some img => if isS d then
      s.setWord (raKey (img + 0x20000 * ((s.wave w).index + 1) + 0xC100 + 8 * (d.toNat - 192))) v else s
  | none => s

/-- R200, R227: the wts and rts of a resumed wave's SCRATCH lines come back with its share. -/
def State.loadTimesOf (s : State) (img core slot index : Nat) : State :=
  let base := raKey (img + 0x20000 * (index + 1) + 0xC400)
  (List.range 384).foldl (fun s i =>
    let t := ((s.word (base + 16 * i)).toNat, (s.word (base + 16 * i + 8)).toNat)
    { s with ltime := dset (0, 0) s.ltime (scratchKey core (slot * 49152 + 128 * i) / 128) t }) s

/-- Does a path hold at a YIELD? -/
def Path.atYield (p : Path) : Bool := p.live && (match p.hold with
  | .yield .. => true
  | _ => false)

/-- R134: does every live wave of a block hold at a YIELD? -/
def State.yielded (s : State) (bid : Nat) : Bool :=
  !(s.liveWaves bid).isEmpty && (s.liveWaves bid).all fun w => (s.wave w).pca.atYield || (s.wave w).pcb.atYield

/-- A path at a YIELD goes on after it. -/
def State.leaveYield (s : State) (w : Nat) (pcb : Bool) : State :=
  let p := (s.wave w).path pcb
  match p.hold with
  | .yield uid .. => if p.live then s.release w pcb uid 0 else s
  | _ => s

/-- R134: a block that YIELD saved goes on after its YIELDs. -/
def State.leaveYields (s : State) (bid : Nat) : State :=
  if s.yielded bid then (s.liveWaves bid).foldl (fun s w => (s.leaveYield w false).leaveYield w true) s else s

/-- R263, step by step: the pacer's move in one group. -/
def State.pacerMove (s : State) (g : Nat) : State :=
  let ns := s.nodes.filter fun e => e.2.pgroup == g
  let excess (e : Nat × Node) : Nat := e.2.occupancy - e.2.field 7 0 16
  let recv := ns.foldl (fun b e =>
    if 0 < excess e then match b with
      | some c => if excess c < excess e then some e else b
      | none => some e
    else b) (none : Option (Nat × Node))
  match recv with
  | none => s
  | some r =>
    let allowed (c : Nat) : Bool := (r.2.words.getD (4 + c / 64) 0).getLsbD (c % 64)
    let donors := ns.filter fun e => e.1 != r.1 && decide (e.2.occupancy < e.2.field 7 16 16) &&
      decide (e.2.field 7 32 8 < e.2.cores.length) && e.2.cores.any allowed
    let donor := donors.foldl (fun b e => match b with
      | some c => if e.2.occupancy < c.2.occupancy then some e else b
      | none => some e) (none : Option (Nat × Node))
    match donor with
    | none => s
    | some d => match ((List.range 192).filter fun c => d.2.cores.contains c && allowed c).head? with
      | none => s
      | some c =>
        let s := { s with nodes := kmod s.nodes d.1 fun n => { n with cores := n.cores.filter (· != c) } }
        { s with nodes := kmod s.nodes r.1 fun n => { n with cores := n.cores ++ [c] } }

/-! ### Views and buffers (R136, R137, R257, R258) -/

/-- R257: the lowest address of a pool at which `size` bytes lie free. -/
def State.poolRange (s : State) (ctx : Nat) (pk : Nat) (p : Win) (size : Nat) : Option Nat :=
  let bufs := s.wins.filter fun e => winCtx e.1 == ctx && e.2.buffer && parentName e.2.parent == arenaName pk
  let free (x : Nat) : Bool := decide (p.base ≤ x) && decide (x + size ≤ p.base + p.size) &&
    bufs.all fun e => decide (x + size ≤ e.2.base) || decide (e.2.base + e.2.size ≤ x)
  let cands := p.base :: bufs.map fun e => e.2.base + e.2.size
  (cands.filter free).foldl (fun m x => match m with
    | some y => some (min x y)
    | none => some x) none

/-- R257: a buffer arena for one view of a spawned child, with the child's entry for it; none while the pool has no
room or no identifier is free. It takes the lowest free identifier of the context, as ARENA.NEW does (DESIGN CHOICE, assumption
19). -/
def State.makeBuffer (s : State) (ctx : Nat) (v : View) : Option (State × View) :=
  let pk := dget 0 s.pools ctx
  match kget s.wins pk, s.freeId ctx with
  | some p, some id =>
    let size := (v.size + 65535) / 65536 * 65536
    match s.poolRange ctx pk p size with
    | none => none
    | some base =>
      let ident := identityOf v.fmt v.op
      let w64 := v.fmt == 9 || v.fmt == 12
      let attr : BitVec 64 := BitVec.ofNat 64 (ident % 2 ^ 32 * 2 ^ 32 + attrMset p.attr * 2 ^ 28 + attrDom p.attr * 2 ^ 24)
      let gen := ((s.desc ctx id 0).extractLsb' 58 4).toNat
      let handle := (winHandle pk p.gen).toNat
      let fillh : BitVec 32 := if w64 then BitVec.ofNat 32 (ident / 2 ^ 32) else 0
      let s := s.setWords (s.descKey ctx id 0) [descWord0 1 gen base, BitVec.ofNat 64 size, BitVec.ofNat 64 base,
        BitVec.ofNat 64 (size / 65536 * 2 ^ 32), attr, BitVec.ofNat 64 (fillh.toNat * 2 ^ 32 + handle),
        BitVec.ofNat 64 (if w64 then 2 ^ 62 else 0), 0]
      let k := winKey ctx false id
      let w : Win :=
        { gen := gen, state := .live, base := base, size := size, attr := attr, rd := true, wr := true, inst := 0
          parent := handle, buffer := true, root := false, sroot := 0, nwaves := 0, lost := false }
      let s := (({ s with wins := kset s.wins k w } : State).writeLeaves ctx k base size true true).placeArena k attr
      some (s, { v with inherited := true, buf := base, bufWin := k, cursor := 0 })
  | _, _ => none

/-- Buffers for every view, or none. -/
def State.makeBuffers (s : State) (ctx : Nat) : List View → Option (State × List View)
  | [] => some (s, [])
  | v :: vs => match s.makeBuffer ctx v with
    | none => none
    | some (s, v) => match s.makeBuffers ctx vs with
      | none => none
      | some (s, vs) => some (s, v :: vs)

/-- R135: a checked range cut into aligned 8-byte ranges under the same window. -/
def splitReq (r : Req) : List Req :=
  (List.range (r.len / 8)).map fun i => { r with idx := i, va := r.va + 8 * i, len := 8 }

/-- R135: the ranges of a record of the size that its node has by now, checked again where that is not the size of the issue. -/
def State.recordReqs (s : State) (x : Wave) (a : Acc) (n : Node) (ea : Nat) : Except Trap (List Req) :=
  if a.reqs.foldl (fun t r => t + r.len) 0 = n.recSize then .ok a.reqs
  else match s.checkAll x 8 true false [mkReq 0 0 ea n.recSize 0] with
    | .error t => .error { t with mask := a.mask }
    | .ok rs => .ok (rs.flatMap splitReq)

/-- ENQ and SPAWN at the head, whose record lies at `ea`: the record read, and the bin takes it (R135). -/
def State.performEnq (s : State) (w : Nat) (a0 : Acc) (spawn : Bool) (d : Reg) (h : BitVec 64) (ea : Nat) : State :=
  let x := s.wave w
  match s.nodeOf x.ctx h with
  | none => s.faultHead w x.pts a0 [] [] { code := 11, va := 0, mask := a0.mask, info := 0 }
  | some n => match s.recordReqs x a0 n ea with
  | .error t => s.raiseAt w a0 t
  | .ok rs =>
    let a := { a0 with reqs := rs }
    if n.binCap ≤ n.occupancy then s.holdHead w a
    else
      let parent := (s.block? x.block).map (·.task)
      let views := if spawn then match parent with
          | some p => ((kget s.tasks p).map (·.views)).getD []
          | none => []
        else []
      match s.makeBuffers x.ctx views with
      | none => s.holdHead w a
      | some (s', vs) =>
        match s.performLoad x.who x.pts 0 false a.reqs with
        | .hold s => s.holdHead w a
        | .push s _ => s.holdHead w a
        | .done s ts out left fault =>
          let got := a.got ++ gotOf out
          match fault with
          | some r => s.faultHead w ts a left got r
          | none =>
            let bytes := (List.range (n.recSize / 8)).flatMap fun i => toBytes 8 ((gotAt got i 0).getD 0).toNat
            let s := if spawn then match s.makeBuffers x.ctx views with
                | some (s, _) => s
                | none => s'
              else s
            let s := if spawn then
                let tid := s.nextTask
                let ord := match parent with
                  | some p => ((kget s.tasks p).map (·.children)).getD 0
                  | none => 0
                let t : Task :=
                  { node := h.toNat, seq := n.nextSeq, parent := parent, ordinal := ord, children := 0, state := .binned
                    views := vs, block := none, saved := none, merge := none, merged := 0, ts := ts }
                let s : State := { s with tasks := kset s.tasks tid t }
                let s : State := match parent with
                  | some p => { s with tasks := kmod s.tasks p fun t => { t with children := ord + 1 } }
                  | none => s
                s.binRecord h.toNat bytes ts (some tid)
              else s.binRecord h.toNat bytes ts none
            (s.modWave w fun x => x.landU d (BitVec.ofNat 64 n.nextSeq)).finishHead w ts

/-- The task of a wave. -/
def State.taskOf (s : State) (x : Wave) : Option (Nat × Task) :=
  match s.block? x.block with
  | some b => (kget s.tasks b.task).map fun t => (b.task, t)
  | none => none

/-- VIEW.DECL at its point (R137); a.reqs holds the range's start, checked under R100. -/
def State.performViewDecl (s : State) (w : Nat) (a : Acc) (fmt op pn : Nat) (d : Reg) (size : BitVec 64) : State :=
  let x := s.wave w
  match s.taskOf x, a.reqs with
  | some (tid, t), r :: _ =>
    let bad := match kget s.wins r.win with
      | some k => decide (k.base + k.size < r.va + size.toNat) || attrSync k.attr || attrKind k.attr == 3 || winGlobal r.win
      | none => true
    let reason := if 8 ≤ t.views.length then 1
      else if t.views.any fun v => decide (v.base < r.va + size.toNat) && decide (r.va < v.base + v.size) then 2
      else if bad then 3 else 0
    if reason ≠ 0 then
      (s.modWave w fun x => (x.landU d (BitVec.ofNat 64 reason)).landP pn 0).finishHead w x.pts
    else
      let n := t.views.length
      let v : View :=
        { base := r.va, size := size.toNat, fmt := fmt, op := op, inherited := false, buf := r.va, bufWin := r.win, cursor := 0
          declarer := tid, num := n }
      let s : State := { s with tasks := kset s.tasks tid { t with views := t.views ++ [v] } }
      (s.modWave w fun x => (x.landU d (BitVec.ofNat 64 n)).landP pn 0xFFFFFFFF).finishHead w x.pts
  | _, _ => s.finishHead w x.pts

/-- R138: what VIEW.INFO selects. -/
def viewSelect (sel : Nat) (v : View) : BitVec 64 :=
  match sel with
  | 0 => BitVec.ofNat 64 v.base
  | 1 => BitVec.ofNat 64 v.size
  | 2 => BitVec.ofNat 64 (v.fmt + 32 * v.op + (if v.inherited then 256 else 0))
  | 3 => BitVec.ofNat 64 v.buf
  | _ => BitVec.ofNat 64 v.cursor

/-- VIEW.INFO at its point (R138). -/
def State.performViewInfo (s : State) (w : Nat) (sel : Nat) (d : Reg) (n : BitVec 64) : State :=
  let x := s.wave w
  let val := match s.taskOf x with
    | some (_, t) => if n.toNat < t.views.length then ((t.views[n.toNat]?).map (viewSelect sel)).getD 0 else 0
    | none => 0
  (s.modWave w fun x => x.landU d val).finishHead w x.pts

/-! ### Batons and merges (R139, R259 to R261) -/

/-- R256: is a task live? -/
def Task.liveTask (t : Task) : Bool :=
  t.state == .binned || t.state == .running || t.state == .saved || t.state == .ready

/-- Does a task hold a view? -/
def Task.holds (t : Task) (declarer num : Nat) : Bool := t.views.any fun v => v.declarer == declarer && v.num == num

/-- The key of a baton: target task, declarer, view number. -/
def batonKey (target declarer num : Nat) : Nat := (target * 2 ^ 32 + declarer) * 8 + num
/-- A baton that nothing has used. -/
def Baton.idle : Baton := { state := .free, queue := [] }

/-- R139: the nearest live ancestor that holds a view. -/
def State.ancestorFor (s : State) (declarer num : Nat) : Nat → Option Nat → Option Nat
  | 0, _ => none
  | _, none => none
  | n + 1, some p => match kget s.tasks p with
    | none => none
    | some t => if t.liveTask && t.holds declarer num then some p else s.ancestorFor declarer num n t.parent

/-- R139, R259: the target of a task's merge of a view. -/
def State.mergeTarget (s : State) (tid : Nat) (t : Task) (v : View) : Nat :=
  let sibs := s.tasks.filter fun e => e.1 != tid && e.2.parent == t.parent && t.parent.isSome && decide (e.2.ordinal < t.ordinal) &&
    e.2.liveTask && e.2.holds v.declarer v.num
  match sibs.foldl (fun b e => match b with
      | some c => if c.2.ordinal < e.2.ordinal then some e else b
      | none => some e) (none : Option (Nat × Task)) with
  | some (k, _) => k
  | none => (s.ancestorFor v.declarer v.num 4096 t.parent).getD v.declarer

/-- The range that a merge into a target updates: its buffer, or the declarer's real memory. -/
def State.targetRange (s : State) (target : Nat) (v : View) : Nat × Nat :=
  match kget s.tasks target with
  | some g => match g.views.find? fun u => u.declarer == v.declarer && u.num == v.num with
    | some u => (u.buf, u.bufWin)
    | none => (v.base, 0)
  | none => (v.base, 0)

/-- The place of the next merge to take its baton. -/
def State.nextMerge (s : State) : Nat := s.tasks.foldl (fun n t => match t.2.merge with
  | some m => max n (m.order + 1)
  | none => n) 0

/-- R260: a task asks for the baton of its next view's target. -/
def State.askBaton (s : State) (tid : Nat) : State :=
  match kget s.tasks tid with
  | none => s
  | some t =>
    if t.state ≠ .ending ∨ t.merge.isSome then s
    else match t.inherited[t.merged]? with
      | none => s
      | some v =>
        let own := dget Baton.idle s.batons (batonKey tid v.declarer v.num)
        if own.state ≠ .closed then s
        else
          let g := s.mergeTarget tid t v
          let key := batonKey g v.declarer v.num
          let bt := dget Baton.idle s.batons key
          let m : Merge :=
            { view := t.merged, target := (if g = v.declarer then none else some g), base := (s.targetRange g v).1
              size := v.size, ctx := winCtx (s.targetRange g v).2, queued := decide (bt.state = .held), cursor := v.cursor
              lines := [], pts := 0, order := s.nextMerge, paused := false, fail := none, reply := none, frec := none }
          { s with
            tasks := kset s.tasks tid { t with merge := some m }
            batons := kset s.batons key (if bt.state = .held then { bt with queue := bt.queue ++ [tid] } else { bt with state := .held }) }

/-- Every ending task that may ask, asks. -/
def State.advanceMerges (s : State) : State := s.tasks.foldl (fun s e => s.askBaton e.1) s

/-- R260: the baton of a merge is given back. -/
def State.giveBack (s : State) (key : Nat) (declarer : Nat) : State :=
  let bt := dget Baton.idle s.batons key
  let requeue (s : State) (q : List Nat) : State :=
    q.foldl (fun s t => { s with tasks := kmod s.tasks t fun t => { t with merge := none } }) s
  match bt.state with
  | .draining => ({ (requeue s bt.queue) with batons := kset s.batons key { state := .closed, queue := [] } }).advanceMerges
  | .held => match bt.queue with
    | [] => ({ s with batons := kset s.batons key Baton.idle }).advanceMerges
    | q :: qs =>
      let target := key / 8 / 2 ^ 32
      let ok := target == declarer || ((kget s.tasks target).map (·.liveTask)).getD false
      if ok then
        ({ s with
          batons := kset s.batons key { state := .held, queue := qs }
          tasks := kmod s.tasks q fun t => { t with
            merge := t.merge.map fun m => { m with queued := false, order := s.nextMerge } } } : State).advanceMerges
      else ({ (requeue s bt.queue) with batons := kset s.batons key Baton.idle }).advanceMerges
  | _ => s.advanceMerges

/-- R260: a task reaches its TEND point: the batons of the views it inherited close. -/
def State.closeBatons (s : State) (tid : Nat) (t : Task) : State :=
  t.inherited.foldl (fun s v =>
    let key := batonKey tid v.declarer v.num
    let bt := dget Baton.idle s.batons key
    { s with batons := kset s.batons key { bt with state := if bt.state = .held ∨ bt.state = .draining then .draining else .closed } }) s

/-- R258, R261: was a granule of a buffer ever touched? Where no page serves it, the owner tables say so (R306). -/
def State.bufferTouched (s : State) (v : View) (off : Nat) : Bool :=
  match kget s.wins v.bufWin with
  | none => false
  | some w =>
    let va := v.buf + off
    let m := attrMset w.attr
    match s.translate (s.stackOf m va) (winCtx v.bufWin) m va true false with
    | .error _ => (s.backedGranules (winSpace v.bufWin * 4096 + winId v.bufWin) w.gen).contains (va / 65536)
    | .ok (s', e) => e.tgt != 0 || s'.backed (s'.transKey e m va) (winId v.bufWin) w.gen

/-- R57, R261: one 128-byte line combined element by element. -/
def combineLine (fmt op : Nat) (target buffer : List Byte) : List Byte :=
  let b := reduceBytes fmt
  (List.range (128 / b)).flatMap fun i =>
    toBytes b (reduce fmt op (ofBytes ((target.drop (b * i)).take b)) (ofBytes ((buffer.drop (b * i)).take b)))

/-- The agent that a merge acts for: its block's core and context. -/
def State.mergeWho (s : State) (t : Task) : Who :=
  match t.block with
  | some b => match s.block? b with
    | some k => { ctx := k.ctx, core := k.core, super := false }
    | none => { ctx := 0, core := 0, super := false }
  | none => { ctx := 0, core := 0, super := false }

/-- How a line of a merge fared. -/
inductive LineMet where
  | done (s : State) (bytes : List Byte)
  | wait (s : State)
  | fault (s : State) (code va info : Nat)

/-- R246: a merge's access waits for every other merge under way, into the same lines, that took its baton before it. -/
def State.mergeBehind (s : State) (order wk va : Nat) : Bool :=
  s.tasks.any fun t => match t.2.merge with
    | some m => !m.queued && decide (m.order < order) && decide (m.base ≤ va + 127) && decide (va < m.base + m.size) &&
        (winGlobal wk || winCtx wk == m.ctx)
    | none => false

/-- The range of one line of 128 bytes of an arena. -/
def lineReq (k gen va : Nat) : Req := { mkReq 0 0 va 128 0 with win := k, gen := gen }

/-- One line of 128 bytes met by the merge engine for reading, writing or both, at a merge whose time is `pts`; its slice keeps the
lines of `keep`. -/
def State.mergeLine (s : State) (a : Who) (order pts : Nat) (keep : List Nat) (k gen va : Nat) (wr : Bool) : LineMet :=
  let r := lineReq k gen va
  if s.mergeBehind order k va then .wait s
  else match s.meet a 5 pts true wr keep r with
  | (s, r, .ok) => .done s (s.readAt (s.locOf r) r.va 128)
  | (s, _, .wait) => .wait s
  | (s, r, .fault c i) => .fault s c r.va i
  | (s, _, .vanish) => .fault s 6 va 0

/-- R223: a line of a buffer read by the merge engine takes its place; the merge's time follows. -/
def State.mergeRead (s : State) (a : Who) (k gen va pts : Nat) : State × Nat :=
  let l := s.locOf (lineReq k gen va)
  let ts := s.tsOf pts false [l]
  (s.loadTimes a false ts l, ts)

/-- R261: the lines of a merge from its cursor on: the buffer's bytes are read and kept until the merge's one point, where
they meet the target's as they then stand (R215). A fault at a line of the buffer pauses the merge with that line's address as VA, as
one at a target line does (R281 speaks of these alone: DESIGN CHOICE, assumption 97). -/
def State.mergeRun (s : State) (a : Who) (v : View) (tk tgen tbase : Nat) : Nat → Merge → State × Merge × Bool
  | 0, m => (s, m, decide (v.size ≤ m.cursor))
  | n + 1, m =>
    if v.size ≤ m.cursor then (s, m, true)
    else if s.bufferTouched v m.cursor = false then
      s.mergeRun a v tk tgen tbase n { m with cursor := m.cursor + 128 }
    else
      let bgen := ((kget s.wins v.bufWin).map (·.gen)).getD 0
      let keep := [(s.locOf (lineReq v.bufWin bgen (v.buf + m.cursor))).key]
      match s.mergeLine a m.order m.pts [] v.bufWin bgen (v.buf + m.cursor) false with
      | .wait s => (s, m, false)
      | .fault s c va i => (s, { m with reply := some { code := c, va := va, mask := 0, info := i } }, false)
      | .done s bs => match s.mergeLine a m.order m.pts keep tk tgen (tbase + m.cursor) true with
        | .wait s => (s, m, false)
        | .fault s c va i => (s, { m with reply := some { code := c, va := va, mask := 0, info := i } }, false)
        | .done s _ =>
          let (s, ts) := s.mergeRead a v.bufWin bgen (v.buf + m.cursor) m.pts
          s.mergeRun a v tk tgen tbase n { m with
            cursor := m.cursor + 128, lines := m.lines ++ [(tbase + m.cursor, bs)], pts := ts }

/-- Time of a task's merges: the latest of its waves and of their engine commands (R239). -/
def State.taskPts (s : State) (t : Task) : Nat :=
  match t.block with
  | some b => match s.block? b with
    | some k => (blockWaves b k.nwaves).foldl (fun m w => max m (s.wave w).pts) (max t.ts k.ept)
    | none => t.ts
  | none => t.ts

/-- R225, R246: the one time of a merge's updates. Where the slices cannot hold every target line at once, it is also above every
time that an eviction among the updates can leave in a slice's base. -/
def State.mergeTime (s : State) (pts tk tgen : Nat) (lines : List (Nat × List Byte)) : Nat :=
  let ls := s.locsOf (lines.map fun l => lineReq tk tgen l.1)
  let ts := s.tsOf pts true ls
  if ls.all fun l => (kget s.lines l.key).isSome then ts
  else max ts (max (s.maxTime fun _ => true) (s.sliceBase.foldl (fun t e => max t e.2) 0) + 1)

/-- R246: all the line updates of a merge at one point, its time `ts` (no view lies in a SYNC arena, R137): each target line, in its slice again
where an eviction took it, is combined with the buffer's. -/
def State.mergeApply (s : State) (a : Who) (fmt op order ts tk tgen : Nat) (lines : List (Nat × List Byte)) : State :=
  lines.foldl (fun s l => match s.mergeLine a order ts [] tk tgen l.1 true with
    | .done s bs =>
      let q := s.locOf (lineReq tk tgen l.1)
      (s.writeAt q l.1 (combineLine fmt op bs l.2)).writeTimes a true ts q
    | .wait s => s
    | .fault s _ _ _ => s) s

/-- Can every target line of a merge be reached? Each is met, in order; or what stands in the way. -/
def State.mergeReady (s : State) (a : Who) (order pts tk tgen : Nat) : List (Nat × List Byte) → State × Option (Option Reply)
  | [] => (s, none)
  | l :: ls => match s.mergeLine a order pts [] tk tgen l.1 true with
    | .done s _ => s.mergeReady a order pts tk tgen ls
    | .wait s => (s, some none)
    | .fault s c va i => (s, some (some { code := c, va := va, mask := 0, info := i }))

/-- R191, R208, R139: a task's buffers are dropped; its block's SCRATCH arena and resources are freed. -/
def State.freeTask (s : State) (tid : Nat) : State :=
  match kget s.tasks tid with
  | none => s
  | some t =>
    let s := t.inherited.foldl (fun s v => (s.refund v.bufWin).dropOne v.bufWin) s
    let s := match t.block with
      | none => s
      | some bid => match s.block? bid with
        | none => s
        | some b =>
          let sub := (s.subtree nestLimit (winKey b.ctx false b.scratchWin))
          let s : State := sub.foldl (fun (s : State) (k : Nat) => match kget s.wins k with
            | some w =>
              let s : State := (s.revertLeaves b.ctx k w).putDesc0 k { w with state := .free }
              { s with wins := kdel s.wins k }
            | none => s) s
          let s := { s with
            waves := s.waves.filter fun e => !(blockWaves bid b.nwaves).contains e.1
            blocks := kdel s.blocks bid
            freed := if b.away then s.freed else
              { uc := s.clk / 2, core := b.core, slots := b.slots, arrayBase := b.arrayBase, arrayCount := b.arrayCount
                hurdles := b.hurdleMax } :: s.freed.filter fun f => decide (f.uc = s.clk / 2)
            arrays := if b.away then s.arrays else s.arrays.filter fun e =>
              decide (e.1 < 4 * b.core + b.arrayBase) || decide (4 * b.core + b.arrayBase + b.arrayCount ≤ e.1) }
          match t.saved with
          | some v => { s with saveUse := s.saveUse.filter (· != v.img) }
          | none => s
    { s with tasks := kset s.tasks tid { t with state := .ended, saved := none, merge := none } }

/-- R260: has any descendant that holds a view of the task a merge of it left? -/
def State.viewsPending (s : State) (tid : Nat) : Bool :=
  s.tasks.any fun e => e.2.state != .ended &&
    ((e.2.inherited.drop e.2.merged).any fun v => v.declarer == tid)

/-- Is a task's block saved? -/
def State.taskAway (s : State) (t : Task) : Bool :=
  match t.block with
  | some b => ((s.block? b).map (·.away)).getD false
  | none => false

/-- R216: have the drop lists room for the buffers of a task? -/
def State.endRoom (s : State) (t : Task) : Bool := s.dropRoom t.inherited.length

/-- R256: ending tasks with nothing left end, once the drop lists have room for their buffers (R216). -/
def State.finishTasks (s : State) : State :=
  s.tasks.foldl (fun s e => match kget s.tasks e.1 with
    | some t =>
      if (t.state == .ending && decide (t.inherited.length ≤ t.merged) && t.merge.isNone && !s.viewsPending e.1 &&
          !s.taskAway t && s.endRoom t) then s.freeTask e.1 else s
    | none => s) s

/-- Does a path hold at a TEND? -/
def Path.atTend (p : Path) : Bool := p.live && (match p.hold with
  | .tend _ => true
  | _ => false)

/-- Does a path of a wave, one that its divergence stack holds among them (R77), hold at a TEND? -/
def Wave.atTend (x : Wave) : Bool := x.paths.any Path.atTend

/-- The path of a wave at whose TEND its task ends, or that ended last. -/
def Wave.tendPath (x : Wave) : Bool := if x.pca.atTend then false else if x.pcb.atTend then true else x.lastPath

/-- R139: at the TEND's point every other lane of its wave ends; a path that the divergence stack held stands as PCA. -/
def Wave.tendOnly (x : Wave) : Wave :=
  if x.pca.atTend then { x with pcb := Path.dead, stack := [] }
  else if x.pcb.atTend then { x with pca := Path.dead, stack := [] }
  else match x.paths.find? Path.atTend with
    | some p => { x with pca := p, pcb := Path.dead, stack := [] }
    | none => x

/-- The wave at whose TEND a task ends: the one that holds there, or else the last to end by EXIT (R139); once its point has come,
the block names it. -/
def State.tendWave (s : State) (bid : Nat) : Nat :=
  match s.block? bid with
  | none => 16 * bid
  | some b =>
    let ws := blockWaves bid b.nwaves
    match b.tender, ws.find? fun w => (s.wave w).atTend with
    | some w, _ => w
    | none, some w => w
    | none, none => ws.foldl (fun v w => if (s.wave v).lastIssue ≤ (s.wave w).lastIssue then w else v) (16 * bid)

/-- R139: every wave but a TEND's has ended, every access has performed and every engine command has completed. A TEND that
one path of its wave has issued ends the other with it. -/
def State.tendReady (s : State) (bid : Nat) : Bool :=
  match s.block? bid with
  | none => false
  | some b =>
    let ws := blockWaves bid b.nwaves
    !b.away && !b.stopping && !b.vacating && ws.all (fun w => (s.wave w).ended || (s.wave w).atTend) &&
    decide ((ws.filter fun w => (s.wave w).atTend).length ≤ 1) && ws.all (fun w => (s.wave w).pend.isEmpty && (s.wave w).park.isNone) &&
    !(s.cmds.any fun c => c.2.block == bid)

/-- R139, R256: the TEND point of a block: its task stops being live, its batons close and its merges begin. -/
def State.tendPoint (s : State) (bid : Nat) : State :=
  match s.block? bid with
  | none => s
  | some b => match kget s.tasks b.task with
    | none => s
    | some t =>
      if t.state = .running ∧ s.tendReady bid then
        let w := s.tendWave bid
        let s := s.modBlock bid fun b => { b with tender := some w }
        let s := { s with tasks := kset s.tasks b.task { t with state := .ending } }
        let s := (blockWaves bid b.nwaves).foldl (fun s w => s.modWave w fun x => { x.tendOnly with undo := [] }) s
        ((s.closeBatons b.task t).advanceMerges).finishTasks
      else s

/-- R139: a wave that ended by EXIT stands at it again, as at a TEND. -/
def Wave.revive (x : Wave) : Wave :=
  if x.ended then { x.setPath x.lastPath { x.path x.lastPath with live := true, hold := .none } with ended := false } else x

/-- R139: a merge that cannot go on raises ENGINE_FAULT at the TEND, or at the EXIT that ended the block as one; of a saved block, when
it has resumed. -/
def State.mergeFails (s : State) (tid reason code : Nat) : State :=
  match kget s.tasks tid with
  | none => s
  | some t => match t.block with
    | none => s
    | some bid =>
      if s.taskAway t then
        { s with tasks := kset s.tasks tid { t with merge := t.merge.map fun m => { m with fail := some (reason, code) } } }
      else
        let w := s.tendWave bid
        let s := s.modWave w Wave.revive
        let q := (s.wave w).tendPath
        let m := ((s.wave w).path q).mask
        let s := { s with tasks := kset s.tasks tid { t with state := .halted } }
        s.requestHalt w q { Trap.of 15 m with detail := reason, info := code }

/-- One task's merge goes on from its cursor, and completes at its one point when no line is left (R246, R261). -/
def State.mergeStep (s : State) (tid : Nat) : State :=
  match kget s.tasks tid with
  | none => s
  | some t => match t.merge, t.inherited[t.merged]? with
    | some m, some v =>
      if (m.queued || m.paused || m.reply.isSome || m.frec.isSome || t.state != .ending || s.taskAway t) then s
      else
        let a := s.mergeWho t
        let g := m.target.getD v.declarer
        let (tbase, tk0) := s.targetRange g v
        let tgen := ((kget s.wins tk0).map (·.gen)).getD 0
        let (s, m, all) := s.mergeRun a v tk0 tgen tbase (v.size / 128) m
        let note (s : State) (m : Option Merge) (k : Nat) : State :=
          { s with tasks := kmod s.tasks tid fun t => { t with
              merge := m, merged := k
              views := t.views.map fun u => if u.declarer = v.declarer ∧ u.num = v.num ∧ u.inherited then { u with cursor := match m with
                | some m => m.cursor
                | none => v.size } else u } }
        let pts := max (s.taskPts t) m.pts
        let (s, late) := if all then s.mergeReady a m.order pts tk0 tgen m.lines else (s, none)
        if late.isSome then note s (some { m with reply := (late.getD none) }) t.merged
        else if all then
          let s := s.mergeApply a v.fmt v.op m.order (s.mergeTime pts tk0 tgen m.lines) tk0 tgen m.lines
          ((note s none (t.merged + 1)).giveBack (batonKey g v.declarer v.num) v.declarer).finishTasks
        else note s (some m) t.merged
    | _, _ => s

/-- R281, R307: a merge's fault arrives: a recoverable one writes its record and the merge pauses until it is answered;
another ends it. A saved block meets it when it has resumed (R256). -/
def State.mergeFault (s : State) (tid : Nat) : State :=
  match kget s.tasks tid with
  | none => s
  | some t => match t.merge, t.block with
    | some m, some bid => match m.reply with
      | none => s
      | some r =>
        let recov := decide (r.code = 8 ∨ r.code = 9 ∨ r.code = 10)
        if s.taskAway t then s
        else
        let s := { s with tasks := kset s.tasks tid { t with merge := some { m with reply := none, paused := recov } } }
        if recov then
          let w := s.tendWave bid
          let x := s.wave w
          let q := x.tendPath
          let info := (t.inherited[t.merged]?).map (fun v => (t.views.idxOf v)) |>.getD 0
          let ri : RecInfo := { s.waveRecord x q with
            recov := true, primary := true, code := r.code, mask := 0, path := 0, depth := 0, va := r.va
            pc := if x.ended then (x.path q).pc else (x.path q).pc - 12
            info := info + 8 * (m.cursor / 128) }
          s.writeRecord (dieOf x.core) (recordWords ri) (some (.merge tid))
        else s.mergeFails tid (if r.code = 17 then 10 else if r.code = 7 then 9 else 5) r.code
    | _, _ => s

/-- R256: firmware ends a HALTED task: its merges are abandoned and its baton freed. -/
def State.endTask (s : State) (tid : Nat) : State :=
  match kget s.tasks tid with
  | none => s
  | some t =>
    let s := match t.merge, t.inherited[t.merged]? with
      | some m, some v =>
        let g := m.target.getD v.declarer
        let key := batonKey g v.declarer v.num
        let s := { s with tasks := kset s.tasks tid { t with merge := none } }
        if m.queued then { s with batons := kmod s.batons key fun b => { b with queue := b.queue.filter (· != tid) } }
        else s.giveBack key v.declarer
      | _, _ => s
    (((s.closeBatons tid t).freeTask tid).advanceMerges).finishTasks

/-! ### Placing a task (R253 to R255) -/

/-- R255, R200, R317: a saved block resumes on a core. -/
def State.resumeBlock (s : State) (tid core : Nat) : State :=
  match kget s.tasks tid with
  | none => s
  | some t => match t.block, t.saved with
    | some bid, some sv => match s.block? bid with
      | none => s
      | some b =>
        let slots := (s.freeSlots core).take b.nwaves
        let arr := (s.freeArrays core b.arrayCount).getD 0
        let age := s.nextAge
        let s := (blockWaves bid b.nwaves).foldl (fun s w =>
          let x := s.wave w
          let slot := slots.getD x.index 0
          let s := s.copyBytes (raKey (sv.img + 0x20000 * (x.index + 1))) (scratchKey core (slot * 49152)) 49152
          (s.loadTimesOf sv.img core slot x.index).setWave w (s.resumeWave sv.img core slot arr (age + x.index) b x)) s
        let s : State := { s with
          saveUse := s.saveUse.filter (· != sv.img)
          arrays := sv.arrays.zipIdx.foldl (fun as e => kset as (4 * core + arr + e.2) e.1) s.arrays
          blocks := kset s.blocks bid { b with
            core := core, slots := slots, away := false, arrayBase := arr, wdog := 0, bark := false, vacating := false }
          tasks := kset s.tasks tid { t with saved := none, state := if t.state = .ending then .ending else .running } }
        let s := ((s.showScratch b.ctx b.scratchWin none).leaveYields bid).finishTasks
        match t.merge.bind (·.fail) with
        | some (reason, code) => s.mergeFails tid reason code
        | none => s
    | _, _ => s

/-- The records of a bin that a placed head leaves behind; the timer starts afresh (R253). -/
def State.takeHead (s : State) (node core : Nat) (keep : BinRec → Bool) : State :=
  { s with
    nodes := kmod s.nodes node fun n => { n with
      bin := n.bin.filter keep, lastCore := some core, lastUc := some (s.clk / 2), expired := false }
    rrNode := node }

/-- The head of a node's bin placed on the first core that fits; none where nothing is ready or fits. -/
def State.tryPlace (s : State) (node : Nat) : Option State :=
  match kget s.nodes node with
  | none => none
  | some n =>
    if n.lastUc = some (s.clk / 2) then none
    else match n.headTask with
      | .none => none
      | .resume tid =>
        let views := match kget s.tasks tid with
          | some t => t.inherited.length
          | none => 0
        match n.searchOrder.find? (s.fits n views) with
        | none => none
        | some core => some ((s.takeHead node core fun r => r.resume != some tid).resumeBlock tid core)
      | .spawn r tid =>
        match kget s.tasks tid, s.topId n.ctx with
        | some t, some id =>
          if s.scratchBusy node r.seq then none
          else match n.searchOrder.find? (s.fits n t.inherited.length) with
            | none => none
            | some core => some ((s.takeHead node core fun q => q.spawn != some tid).launch node n core tid t [r] id)
        | _, _ => none
      | .batch rs =>
        match rs, s.topId n.ctx with
        | r :: _, some id =>
          if s.scratchBusy node r.seq then none
          else match n.searchOrder.find? (s.fits n 0) with
            | none => none
            | some core =>
              let tid := s.nextTask
              let t : Task :=
                { node := node, seq := r.seq, parent := none, ordinal := 0, children := 0, state := .binned, views := []
                  block := none, saved := none, merge := none, merged := 0, ts := r.ts }
              some ((s.takeHead node core fun q => !(rs.any fun p => p.seq == q.seq && q.resume.isNone)).launch node n core tid t rs id)
        | _, _ => none

/-- R254: the nodes in round-robin order, starting after the one that last placed a task. -/
def State.nodeOrder (s : State) : List Nat :=
  let ns := s.nodes.map (·.1)
  ns.filter (fun n => decide (s.rrNode < n)) ++ ns.filter (fun n => decide (n ≤ s.rrNode))

/-- R254: the node whose turn it is to place a task. -/
def State.placer (s : State) : Option Nat := s.nodeOrder.find? fun n => (s.tryPlace n).isSome

end Sys2Proof.Machine
end

