-- ==== Sys2Proof/Machine/Engines.lean ====
section
/-! DEFINITION. Engine commands (R141 to R174, R265): issue, start, the matrix arrays, the copy streamer, collectives,
network and storage, their faults and their completion. -/
namespace Sys2Proof.Machine

/-! ### Engine accesses -/

/-- The agent that an engine command acts for (R209: engines are checked against the issuing core). -/
def Cmd.who (c : Cmd) : Who := { ctx := c.ctx, core := c.core, super := false }
/-- The wave that R100 and the view table see for an engine command. -/
def Cmd.asWave (c : Cmd) : Wave := { Wave.launch with ctx := c.ctx, core := c.core, block := c.block }

/-- How an engine access fared: performed with a value, held, stopped with a reason, or faulted. -/
inductive EngAcc where
  | ok (s : State) (pts v : Nat)
  | wait (s : State)
  | stop (s : State) (reason info : Nat)
  | fault (s : State) (r : Reply)

/-- What a performed access is to its engine: its value; a fault that firmware may service; or the reason that stops the command. -/
def Perf.engine (p : Perf) : EngAcc := match p with
  | .hold s => .wait s
  | .push s _ => .wait s
  | .done s ts out _ fault => match fault with
    | some f =>
      if f.code = 8 ∨ f.code = 9 ∨ f.code = 10 then .fault s f
      else if f.code = 7 then .stop s 9 7
      else if f.code = 17 then .stop s 10 0
      else .stop s 5 f.code
    | none => .ok s ts ((out.map (·.2)).headD 0)

/-- R100, R159, R162: one access of an engine at its own point. A generation that has ended since the command's start is gone
(R215). -/
def State.engineAcc (s : State) (c : Cmd) (pts va len align : Nat) (rd wr : Bool) (dat : Nat) (op : RangeOp) : EngAcc :=
  match s.checkWave c.asWave va len align rd wr with
  | .error code => .stop s 5 code
  | .ok (va, k, g) =>
    if (kget c.gens k).any (· != g) then .stop s 5 6
    else
    let r : Req := { mkReq 0 0 va len (BitVec.ofNat 128 dat) with win := k, gen := g }
    (if wr then s.performRanges c.who pts 3 rd wr false none [r] op else s.performLoad c.who pts 3 true [r]).engine

/-- An engine load. -/
def State.engineLoad (s : State) (c : Cmd) (pts va len align : Nat) : EngAcc := s.engineAcc c pts va len align true false 0 readOp
/-- An engine store. -/
def State.engineStore (s : State) (c : Cmd) (pts va len : Nat) (v : Nat) : EngAcc := s.engineAcc c pts va len 1 false true v storeOp

/-- A command replaced. -/
def State.setCmd (s : State) (id : Nat) (c : Cmd) : State := { s with cmds := kset s.cmds id c }

/-- Key of a channel of a core. -/
def chKey (core ch : Nat) : Nat := 4 * core + ch

/-- R163: a copy reaches its start on its channel: it counts there. -/
def State.countCopy (s : State) (c : Cmd) : State := match c.op with
  | .copy _ ch .. => { s with chStarted := dset 0 s.chStarted (chKey c.core ch) (dget 0 s.chStarted (chKey c.core ch) + 1) }
  | _ => s

/-- R144: a command stops with a reason; it then completes. A copy that stops at its start has reached it (R163). -/
def State.stopCmd (s : State) (id : Nat) (c : Cmd) (reason info : Nat) : State :=
  (if c.ready then s else s.countCopy c).setCmd id { c with finished := true, err := reason, info := info, reply := none, frec := none }

/-- R162: an access of the command met a fault that firmware may service. -/
def State.pauseCmd (s : State) (id : Nat) (c : Cmd) (r : Reply) : State := s.setCmd id { c with reply := some r }

/-- What follows an access: its result into `k`, or the command held, stopped or paused. -/
def EngAcc.andThen (a : EngAcc) (id : Nat) (c : Cmd) (k : State → Nat → Nat → State) : State :=
  match a with
  | .ok s pts v => k s pts v
  | .wait s => s
  | .stop s reason info => s.stopCmd id c reason info
  | .fault s r => s.pauseCmd id c r

/-! ### Issue (R143, R164) -/

/-- The counter that an instruction signals, if any. -/
def sigCtr (f : Sched) : Option Nat := if f.sig.toNat < 12 then some f.sig.toNat else none

/-- An engine command enters its queue at issue. Until its start `number` says whether B names a pair (R147). -/
def State.issueCmd (s : State) (w : Nat) (pcb : Bool) (f : Sched) (op : CmdOp) (d a b : Reg) : State :=
  let r := s.atIssue w f
  let x := r.wave w
  let hi (q : Reg) : BitVec 64 := if isS q then r.readU x (q + 1) else 0
  let c : Cmd :=
    { wave := w, block := x.block, core := x.core, ctx := x.ctx, uid := s.uid, ctr := sigCtr f, pc := (x.path pcb).pc
      array := 4 * x.core + x.array.getD 0, op := op, d0 := r.readU x d, d1 := hi d, a0 := r.readU x a, a1 := hi a
      b0 := r.readU x b, b1 := hi b, started := false, ready := false, pts := 0, pos := 0, total := 0, plan := [], rows := [], gens := []
      number := if isS b then 1 else 0, deadline := none, err := 0, info := 0, reply := none, frec := none, finished := false }
  let uid := s.uid
  ((s.beginIssue w pcb f none).advance w pcb).setCmd uid c

/-- Are all accesses of the issuing wave that are older than the command performed? (R143) -/
def State.cmdFree (s : State) (c : Cmd) : Bool :=
  match kget s.waves c.wave with
  | some x => x.pend.all fun a => decide (c.uid < a.uid)
  | none => true

/-! ### Tiles and planes (R145 to R147) -/

/-- A tile handle (Tables 7.2, 7.3). -/
structure Tile where
  fmt : Nat
  base : Nat
  rot : Nat
  rows : Nat
  tp : Nat
  rp : Nat
  deriving DecidableEq, Repr

/-- R145: the tile that a handle describes, or the reason it fails with. -/
def tileOf (h0 h1 : BitVec 64) : Except Nat Tile :=
  let t : Tile :=
    { fmt := (h0.extractLsb' 56 5).toNat, base := (h0.extractLsb' 0 56).toNat, rot := (h1.extractLsb' 56 4).toNat
      rows := (h1.extractLsb' 40 16).toNat, tp := (h1.extractLsb' 20 20).toNat, rp := (h1.extractLsb' 0 20).toNat }
  if h0.extractLsb' 61 3 ≠ 0 ∨ h1.extractLsb' 60 4 ≠ 0 ∨ t.rows = 0 ∨ t.rp = 0 then .error 2
  else if t.base % 8 ≠ 0 ∨ t.rp % 8 ≠ 0 then .error 3
  else .ok t

/-- R146: swz. -/
def swz (x q rot p : Nat) : Nat := if rot = 0 then x else 8 * ((x / 8 + q * rot) % (p / 8)) + x % 8

/-- R146, R154: the address of byte `x` of row `i` of the `j`-th tile of an operand. -/
def Tile.addr (t : Tile) (j i x : Nat) : Nat := t.base + j * t.tp + i * t.rp + swz x i t.rot t.rp

/-- R146: is a byte inside the issuing block's own SCRATCH arenas, outside the divergence-stack regions and the tail? -/
def State.ownScratch (s : State) (c : Cmd) (va len : Nat) : Bool :=
  match s.block? c.block, s.cover c.ctx va with
  | some b, some (k, w) =>
    attrKind w.attr == 3 && w.sroot == b.scratchWin && decide (va + len ≤ w.base + w.size) &&
    (w.state == .live || w.state == .sealed) && !s.scratchBad k w va len
  | _, _ => false

/-- R146: the placement of `bytes` bytes of every row of `tiles` tiles. -/
def State.tilePlaced (s : State) (c : Cmd) (t : Tile) (tiles bytes : Nat) : Bool :=
  (List.range tiles).all fun j => (List.range t.rows).all fun i =>
    (List.range ((bytes + 7) / 8)).all fun x => s.ownScratch c (t.addr j i (8 * x)) (min 8 (bytes - 8 * x))

/-- Is a format one of Table 7.4? Its element width and depth. -/
def weightFmt : Nat → Option (Nat × Nat)
  | 1 | 2 => some (16, 64)
  | 3 | 4 | 16 => some (8, 128)
  | 5 | 6 | 17 => some (4, 256)
  | _ => none
/-- Is a format a block format? -/
def blockFmt (f : Nat) : Bool := f == 16 || f == 17

/-- R147: the plane pair of an operand: required for a block format, and absent for another. -/
def State.planesBad (s : State) (c : Cmd) (fmt : Nat) (present : Bool) (p0 p1 : BitVec 64) (rows blocks : Nat) : Option Nat :=
  if blockFmt fmt then
    if !present then some 2
    else if (List.range rows).all (fun i =>
        (List.range blocks).all (fun j => s.ownScratch c (p0.toNat + 8 * i + j) 1) &&
          (p1 == 0 || (List.range 2).all fun j => s.ownScratch c (p1.toNat + 2 * i + j) 1)) then none
    else some 4
  else if present then some 2 else none

/-! ### The value of an operand element (R42, R45, R46) -/

/-- A row (or column) of operand elements: format, codes, one scale and tag per block. -/
structure OpRow where
  fmt : Nat
  codes : List Nat
  scales : List Nat
  tags : List Nat
  deriving DecidableEq, Repr

/-- The value of element `k` of an operand row. -/
def OpRow.val (r : OpRow) (k : Nat) : Val :=
  let code := r.codes.getD k 0
  if blockFmt r.fmt then blockVal (r.fmt == 16) (r.tags.getD (k / 32) 0) (r.scales.getD (k / 32) 0) code else fmtVal r.fmt code
/-- R46, R52: does the element lie in a block with a reserved tag? -/
def OpRow.reserved (r : OpRow) (k : Nat) : Bool := blockFmt r.fmt && (tagFormat (r.fmt == 16) (r.tags.getD (k / 32) 0)).isNone
/-- R42, R52: is the element the INT4 poison code? -/
def OpRow.poisonCode (r : OpRow) (k : Nat) : Bool :=
  let i4 := if blockFmt r.fmt then r.fmt == 17 && r.tags.getD (k / 32) 0 == 1 else r.fmt == 6
  i4 && r.codes.getD k 0 % 16 == 8

/-- A latch's column `n` along K. -/
def Latch.col (l : Latch) (n : Nat) : OpRow := ⟨l.fmt, l.codes.getD n [], l.scales.getD n [], l.tags.getD n []⟩

/-- A weight element with its own block's scale and tag, as a one-element row (R55). -/
def Latch.elem (l : Latch) (k n : Nat) : Val := (l.col n).val k

/-- R53: one accumulator element over reduction length `j`. -/
def sumOver (acc j : Nat) (prod : Nat → Val) : Nat :=
  (List.range ((j + 31) / 32)).foldl (fun acc g =>
    accumulate acc ((List.range (min 32 (j - 32 * g))).map fun i => prod (32 * g + i))) acc

/-! ### Matrix commands at their start (R150 to R154) -/

/-- An array's state. -/
def State.array (s : State) (k : Nat) : ArraySt := dget ArraySt.fresh s.arrays k
/-- An array's state replaced. -/
def State.setArray (s : State) (k : Nat) (a : ArraySt) : State := { s with arrays := kset s.arrays k a }

/-- The arrays of a stream: its own, or its chain's. -/
def State.members (s : State) (c : Cmd) : List Nat := (List.range (s.array c.array).chain).map (c.array + ·)

/-- The arrays whose order a matrix command stands in (R153, R154, R156). -/
def State.covers (s : State) (c : Cmd) : List Nat :=
  match c.op with
  | .stream .. => s.members c
  | .mchain n => (List.range (max n (s.array c.array).chain)).map (c.array + ·)
  | .mw .. | .mswap | .mq .. => [c.array]
  | _ => []

/-- The first reason that holds in a list of checks. -/
def firstReason : List (Bool × Nat) → Option Nat
  | [] => none
  | (b, r) :: t => if b then some r else firstReason t

/-- R150: the start checks of MW and MWS. -/
def State.mwCheck (s : State) (c : Cmd) (k : Nat) : Except Nat Tile :=
  match tileOf c.a0 c.a1 with
  | .error r => .error r
  | .ok t => match weightFmt t.fmt with
    | none => .error 1
    | some (w, depth) =>
      let width := (k * w + 7) / 8
      match firstReason [(decide (depth < k), 2), (decide (64 < t.rows), 2), (decide (t.rp < width), 2)] with
      | some r => .error r
      | none => match s.planesBad c t.fmt (c.number = 1) c.b0 c.b1 t.rows ((k + 31) / 32) with
        | some r => .error r
        | none => if s.tilePlaced c t 1 width then .ok t else .error 4

/-- R152, R154: the streamed and accumulator tiles of MS and MST with K and the members' column counts, or the reason that
refuses them before any placement. -/
def State.streamShape (s : State) (c : Cmd) (trans : Bool) : Except Nat (Tile × Tile × Nat × List Nat) :=
  let ms := s.members c
  let ls := ms.map fun a => (s.array a).live
  if (s.array c.array).member then .error 7
  else if ls.any (·.isNone) then .error 6
  else
    let lv := ls.filterMap id
    let k := (lv.headD ⟨0, 0, 0, [], [], []⟩).k
    let ns := lv.map (·.n)
    if lv.any (fun l => l.k != k) || (ns.dropLast).any (· != 64) then .error 7
    else match tileOf c.a0 c.a1, tileOf c.d0 c.d1 with
      | .error r, _ => .error r
      | _, .error r => .error r
      | .ok t, .ok acc => match weightFmt t.fmt with
        | none => .error 1
        | some (w, _) =>
          let nt := ns.foldl (· + ·) 0
          let tiles := ms.length
          let sw := if trans then ((min 64 nt) * w + 7) / 8 else (k * w + 7) / 8
          let aw := if trans then 4 * k else 4 * min 64 nt
          match firstReason [(decide (acc.fmt ≠ 0), 1),
            (decide (acc.rows ≠ t.rows), 2), (decide (t.rp < sw), 2), (decide (acc.rp < aw), 2),
            (decide (1 < tiles ∧ (if trans then t.tp else acc.tp) % 8 ≠ 0), 3)] with
          | some r => .error r
          | none => .ok (t, acc, k, ns)

/-- The tiles that a stream reads rows of, and those of its accumulator, each with its bytes in a row (R154). -/
def streamTiles (t acc : Tile) (trans : Bool) (k : Nat) (ns : List Nat) : List (Tile × Nat) × List (Tile × Nat) :=
  let w := ((weightFmt t.fmt).map (·.1)).getD 8
  (if trans then ns.zipIdx.map fun n => ({ t with base := t.base + n.2 * t.tp }, (n.1 * w + 7) / 8) else [(t, (k * w + 7) / 8)],
   if trans then [(acc, 4 * k)] else ns.zipIdx.map fun n => ({ acc with base := acc.base + n.2 * acc.tp }, 4 * n.1))

/-- R144, R152, R154: the start checks of MS and MST. -/
def State.streamCheck (s : State) (c : Cmd) (trans : Bool) : Except Nat (Tile × Tile × Nat × List Nat) :=
  match s.streamShape c trans with
  | .error r => .error r
  | .ok (t, acc, k, ns) =>
    let j := if trans then ns.foldl (· + ·) 0 else k
    match s.planesBad c t.fmt (c.number = 1) c.b0 c.b1 t.rows ((j + 31) / 32) with
    | some r => .error r
    | none =>
      let (ss, as) := streamTiles t acc trans k ns
      if (ss ++ as).all fun q => s.tilePlaced c q.1 1 q.2 then .ok (t, acc, k, ns) else .error 4

/-- The 8-byte pieces of memory that a tile's rows lie in. -/
def tilePieces (q : Tile × Nat) : List Nat :=
  (List.range q.1.rows).flatMap fun i => (List.range ((q.2 + 7) / 8)).map fun x => q.1.addr 0 i (8 * x) / 8

/-- R265: does a stream's streamed or accumulator tile overlap another's accumulator tile? -/
def State.tilesMeet (s : State) (c e : Cmd) (trans trans' : Bool) : Bool :=
  match s.streamShape c trans, s.streamShape e trans' with
  | .ok (t, acc, k, ns), .ok (t', acc', k', ns') =>
    let (ss, as) := streamTiles t acc trans k ns
    let out := (streamTiles t' acc' trans' k' ns').2.flatMap tilePieces
    ((ss ++ as).flatMap tilePieces).any out.contains
  | _, _ => true

/-- R156, R265: may a matrix command start beside an earlier one that has not finished? MWS waits only for earlier MWS and
MSWAP; a stream may follow a running MWS, and another stream whose last row has been read where no tile overlaps. -/
def State.mayPass (s : State) (c e : Cmd) : Bool :=
  match c.op, e.op with
  | .mw true _, .mw true _ => false
  | .mw true _, .mswap => false
  | .mw true _, _ => true
  | .stream .., .mw true _ => e.started
  | .stream trans _, .stream trans' _ =>
    e.ready && decide (e.total ≤ e.pos + 65 + (s.members e).length) && !s.tilesMeet c e trans trans'
  | _, _ => false

/-- R156: may a matrix command start? -/
def State.matrixTurn (s : State) (c : Cmd) : Bool :=
  s.cmds.all fun e => e.2.uid ≥ c.uid || e.2.finished || !((s.covers e.2).any (s.covers c).contains) || s.mayPass c e.2

/-- R156, R168: may a command complete? Those of one array complete in issue order, but for MWS, and the collectives of one
communicator in number order. -/
def State.completeTurn (s : State) (c : Cmd) : Bool :=
  s.cmds.all fun e => decide (c.uid ≤ e.2.uid) || (match c.op, e.2.op with
    | .coll .., .coll .. => e.2.b0 != c.b0
    | .mw true _, .mw true _ => e.2.array != c.array
    | .mw true _, .mswap => e.2.array != c.array
    | .mw true _, _ => true
    | _, _ => !((s.covers e.2).any (s.covers c).contains))

/-- R153: MCHAIN acts. -/
def State.chainArrays (s : State) (a c : Nat) : Option State :=
  let head := s.array a
  let old := (List.range head.chain).map (a + ·)
  let want := (List.range (c - 1)).map (a + 1 + ·)
  if head.member || want.any (fun m => decide (1 < (s.array m).chain) || ((s.array m).member && !old.contains m)) then none
  else
    let s := (old.drop 1).foldl (fun s m => s.setArray m { s.array m with member := false }) s
    let s := want.foldl (fun s m => s.setArray m { s.array m with member := true }) s
    some (s.setArray a { s.array a with chain := c, member := false })

/-- R155: what MQ reads. -/
def mqValue (a : ArraySt) (sel num : Nat) : BitVec 64 :=
  let lat (l : Option Latch) : Nat := match l with
    | some l => l.fmt + fieldAt l.k 8 9 + fieldAt l.n 24 7 + 2 ^ 31
    | none => 0
  BitVec.ofNat 64 (match sel with
    | 0 => (if a.tagres then 1 else 0) + (if a.poison then 2 else 0) + (if a.live.isSome then 4 else 0) +
        (if a.shadow.isSome then 8 else 0) + (if a.member then 16 else 0) + fieldAt (a.chain - 1) 5 2 + fieldAt num 8 2
    | 1 => lat a.live
    | _ => lat a.shadow)

/-- A command that has done all it does. -/
def State.doneCmd (s : State) (id : Nat) (c : Cmd) : State := s.setCmd id { c with finished := true }

/-! ### Layout records and copies (R157 to R161) -/

/-- The fields of a layout record (Table 7.5). -/
structure Layout where
  t1 : Nat
  t0 : Nat
  ri : Nat
  ci : Nat
  esz : Nat
  rot : Nat
  trans : Bool
  order1 : Bool
  drp : Nat
  srs : Int
  ss1 : Int
  ss0 : Int
  ds1 : Int
  ds0 : Int
  deriving DecidableEq, Repr

/-- Table 7.5, R157: a record's fields, or none where it fails with LAYOUT. -/
def layoutOf (w0 w1 w2 w3 : BitVec 64) : Option Layout :=
  let f (w : BitVec 64) (lo n : Nat) : Nat := (w.extractLsb' lo n).toNat
  let sg (w : BitVec 64) (lo : Nat) : Int := (w.extractLsb' lo 32).toInt
  let l : Layout :=
    { t1 := f w0 52 12, t0 := f w0 40 12, ri := f w0 32 8, ci := f w0 16 16, esz := 2 ^ f w0 10 2, rot := f w0 6 4
      trans := w0.getLsbD 4, order1 := w0.getLsbD 0, drp := f w1 32 32, srs := sg w1 0, ss1 := sg w2 32, ss0 := sg w2 0
      ds1 := sg w3 32, ds0 := sg w3 0 }
  if f w0 12 4 ≠ 0 ∨ f w0 2 2 ≠ 0 ∨ w0.getLsbD 5 ∨ w0.getLsbD 1 ∨ l.t1 = 0 ∨ l.t0 = 0 ∨ l.ri = 0 ∨ l.ci = 0 ∨ l.drp = 0 then none
  else if l.trans ∧ (l.ci % l.esz ≠ 0 ∨ l.drp < l.ri * l.esz) then none
  else if l.trans = false ∧ l.drp < l.ci then none
  else if l.rot ≠ 0 ∧ l.drp % 8 ≠ 0 then none
  else some l

/-- The total byte count of a copy. -/
def Layout.count (l : Layout) : Nat := l.t1 * l.t0 * l.ri * l.ci

/-- R159: the inner row `n` of traversal order: (t1, t0, r). -/
def Layout.row (l : Layout) (n : Nat) : Nat × Nat × Nat :=
  let r := n % l.ri
  let t := n / l.ri
  if l.order1 then (t % l.t1, t / l.t1, r) else (t / l.t0, t % l.t0, r)

/-- An address modulo 2^64. -/
def wrapAddr (x : Int) : Nat := (BitVec.ofInt 64 x).toNat

/-- R159: the source and destination of traversal position `p` of a copy of a kind (0 CP, 1 CP.G, 2 CP.S, 3 CP.RED) with
its index list. -/
def Layout.move (l : Layout) (kind : Nat) (src dst : Nat) (idx : List Int) (p : Nat) : Nat × Nat :=
  let n := p / l.ci
  let c := p % l.ci
  let (t1, t0, r) := l.row n
  let srow : Int := if kind = 1 then src + (idx.getD n 0) * l.srs else src + t1 * l.ss1 + t0 * l.ss0 + r * l.srs
  let q := if l.trans then c / l.esz else r
  let x := if l.trans then r * l.esz + c % l.esz else c
  let drow : Int := if kind = 2 then dst + (idx.getD n 0) * l.drp else dst + t1 * l.ds1 + t0 * l.ds0
  let qq : Nat := if kind = 2 then ((idx.getD n 0) % (if l.drp / 8 = 0 then 1 else l.drp / 8 : Nat)).toNat else q
  let q' : Nat := if kind = 2 then 0 else q
  (wrapAddr (srow + c), wrapAddr (drow + q' * l.drp + swz x qq l.rot l.drp))

/-- R160: the traversal positions in the order of delivery: ascending destination, then traversal order; for CP.S within
a row. -/
def Layout.deliveries (l : Layout) (kind src dst : Nat) (idx : List Int) : List Nat :=
  let total := l.count
  let step := if kind = 3 then l.esz else 1
  let keyed : Tbl Nat := (List.range (total / step)).foldl (fun t i =>
    let p := i * step
    let d := (l.move kind src dst idx p).2
    kset t (((if kind = 2 then p / l.ci * 2 ^ 64 else 0) + d) * total + p) p) []
  keyed.map (·.2)

/-- CP.RED's alignment rules (R159): ALIGN for the base, LAYOUT for the rest. -/
def Layout.redBad (l : Layout) (dst w : Nat) : Option Nat :=
  firstReason [(decide (l.esz ≠ w), 8), (decide (dst % w ≠ 0), 3),
    (decide (l.drp % w ≠ 0 ∨ l.ds0 % w ≠ 0 ∨ l.ds1 % w ≠ 0), 8), (decide (l.trans = false ∧ l.ci % w ≠ 0), 8)]

/-- R161: is a hurdle address good? 0 for none; else ALIGN, ARENA with its code, or the range it lies in. -/
def State.hurdleReq (s : State) (c : Cmd) (h : Nat) : Except (Nat × Nat) (Option Req) :=
  if h = 0 then .ok none
  else if h % 16 ≠ 0 then .error (3, 0)
  else match s.checkWave c.asWave h 16 16 true true with
    | .error code => .error (5, code)
    | .ok (va, k, g) => match kget s.wins k with
      | some w => if attrKind w.attr = 3 then .ok (some { mkReq 0 0 va 16 0 with win := k, gen := g }) else .error (5, 4)
      | none => .error (5, 4)

/-- R161: EXP posts the bytes a command will charge. -/
def State.postExpected (s : State) (c : Cmd) (exp : Bool) (h : Option Req) (n : Nat) : EngAcc :=
  match h with
  | none => .ok s c.pts 0
  | some r => if exp then (s.hurdleRmw c.who c.pts 3 r fun h => flipTest flipFuel (h.expect n)).engine else .ok s c.pts 0

/-- R161, R127: a command charges bytes to its hurdle. Where the hurdle's own arena has been dropped or reset since the
copy's start, the charge is lost or counts in the new generation, and the command goes on (DESIGN CHOICE, assumption
77). -/
def State.chargeCmd (s : State) (c : Cmd) (n : Nat) : EngAcc :=
  match s.hurdleReq c c.d1.toNat with
  | .ok (some r) => (s.chargeHurdle c.who c.pts r n).engine
  | _ => .ok s c.pts 0

/-- Has a started collective, network or storage command an access left that its completion waits for? `total` counts its
destination bytes; what stands above them in the plan of RS, only other ranks wait for (R170). -/
def Cmd.left (c : Cmd) : Bool := !c.ready || decide (0 < c.owe) || c.plan.any fun u => decide (u < c.total)

/-- R161: the bytes that have performed are charged; a charge that has to wait, or that meets a fault, is made again before the
command does anything else. `last` completes a command that has nothing left (R170, R173). -/
def State.chargeOwed (s : State) (id : Nat) (c : Cmd) (last : Bool) : State :=
  ((s.setCmd id c).chargeCmd c c.owe).andThen id c fun s pts _ =>
    let c := { c with pts := pts, owe := 0 }
    if last && !c.left then s.doneCmd id c else s.setCmd id c

/-- The lowest and one past the highest destination byte of a copy. -/
def copySpan (l : Layout) (kind src dst : Nat) (idx : List Int) (plan : List Nat) : Nat × Nat :=
  let step := if kind = 3 then l.esz else 1
  plan.foldl (fun b p =>
    let d := (l.move kind src dst idx p).2
    (min b.1 d, max b.2 (d + step))) (2 ^ 64, 0)

/-- The layout record and index list that a copy has read, kept in `rows` under 0 and 1. -/
def Cmd.layout (c : Cmd) : Option Layout :=
  match dget [] c.rows 0 with
  | [w0, w1, w2, w3] => layoutOf (BitVec.ofNat 64 w0) (BitVec.ofNat 64 w1) (BitVec.ofNat 64 w2) (BitVec.ofNat 64 w3)
  | _ => none
/-- The index list of a copy. -/
def Cmd.index (c : Cmd) : List Int := (dget [] c.rows 1).map fun v => (BitVec.ofNat 32 v).toInt

/-- The next read that a copy's start needs: its layout record's words, then its index entries. -/
def Cmd.nextRead (c : Cmd) (kind : Nat) : Option (Nat × Nat × Nat) :=
  let have0 := (dget [] c.rows 0).length
  if have0 < 4 then some (0, c.b0.toNat + 8 * have0, 8)
  else if kind = 1 ∨ kind = 2 then
    match c.layout with
    | some l =>
      let got := (dget [] c.rows 1).length
      if got < l.t1 * l.t0 * l.ri then some (1, c.a1.toNat + 4 * got, 4) else none
    | none => none
  else none

/-- R157 to R161: a copy's start, read by read; then its checks, EXP, and at once its channel's count and write pointer. -/
def State.copyPrepare (s : State) (id : Nat) (c : Cmd) (kind ch : Nat) (exp : Bool) (fmt : Nat) : State :=
  if c.b0.toNat % 32 ≠ 0 then s.stopCmd id c 3 0
  else if (kind = 1 ∨ kind = 2) ∧ c.a1.toNat % 4 ≠ 0 then s.stopCmd id c 3 0
  else match c.nextRead kind with
    | some (row, va, len) => (s.engineLoad c c.pts va len 1).andThen id c fun s pts v =>
        let c := { c with pts := pts, rows := kset c.rows row (dget [] c.rows row ++ [v]) }
        if row = 0 ∧ (dget [] c.rows 0).length = 4 ∧ c.layout.isNone then s.stopCmd id c 8 0 else s.setCmd id c
    | none => match c.layout with
      | none => s.stopCmd id c 8 0
      | some l =>
        let dst := c.d0.toNat
        let src := c.a0.toNat
        let red := if kind = 3 then l.redBad dst (reduceBytes fmt) else none
        let inner := if kind = 2 ∧ l.trans then some 8 else none
        match red, inner, s.hurdleReq c c.d1.toNat with
        | some r, _, _ => s.stopCmd id c r 0
        | _, some r, _ => s.stopCmd id c r 0
        | _, _, .error (r, i) => s.stopCmd id c r i
        | none, none, .ok h =>
          let plan := l.deliveries kind src dst c.index
          let (lo, _) := copySpan l kind src dst c.index plan
          (s.postExpected c exp h l.count).andThen id c fun s pts _ =>
            ({ s.countCopy c with chwp := dset 0 s.chwp (chKey c.core ch) (lo % 2 ^ 56) } : State).setCmd id
              { c with ready := true, pts := pts, plan := plan, total := plan.length }

/-- R159, R160: the next delivery of a copy: its source read byte by byte, its destination performed, its bytes charged, and the
channel's write pointer moved. Each source byte is read just before its own delivery, in the order of the deliveries: the manual
gives a read only its own point, which matters where source and destination overlap (DESIGN CHOICE, assumption 93). -/
def State.copyStep (s : State) (id : Nat) (c : Cmd) (kind ch : Nat) (fmt op : Nat) : State :=
  if 0 < c.owe then s.chargeOwed id c false
  else match c.layout, c.plan with
  | some l, p :: rest =>
    let step := if kind = 3 then l.esz else 1
    let (src, dst) := l.move kind c.a0.toNat c.d0.toNat c.index p
    let got := dget [] c.rows 3
    let take (s : State) (pts : Nat) (bs : List Nat) : State :=
      let v := bs.reverse.foldl (fun n b => 256 * n + b) 0
      let kept := kset c.rows 3 bs
      let put : EngAcc := if kind = 3 then
          s.engineAcc c pts dst step step true true v fun s r =>
            let q := s.locOf r
            let m := ofBytes (s.readAt q r.va r.len)
            (s.writeAt q r.va (toBytes r.len (reduce fmt op m r.dat.toNat)), m, true)
        else s.engineStore c pts dst 1 v
      put.andThen id { c with rows := kept, pts := pts } fun s pts _ =>
        let s : State := { s with chPts := dset 0 s.chPts (chKey c.core ch) (max pts (dget 0 s.chPts (chKey c.core ch))) }
        let next := match rest with
          | q :: _ => (l.move kind c.a0.toNat c.d0.toNat c.index q).2
          | [] => dst + step
        let s := if kind = 2 ∨ rest.isEmpty then s
          else { s with chwp := dset 0 s.chwp (chKey c.core ch) (next % 2 ^ 56) }
        s.chargeOwed id { c with rows := kdel kept 3, pts := pts, plan := rest, pos := c.pos + 1, finished := false
                                 info := max c.info (dst + step), owe := step } false
    if step ≤ got.length then take s c.pts got
    else (s.engineLoad c c.pts (wrapAddr (src + got.length)) 1 1).andThen id c fun s pts v =>
      if got.length + 1 < step then s.setCmd id { c with pts := pts, rows := kset c.rows 3 (got ++ [v]) }
      else take s pts (got ++ [v])
  | _, _ =>
    let s := { s with chwp := dset 0 s.chwp (chKey c.core ch) (c.info % 2 ^ 56) }
    s.doneCmd id { c with info := 0 }

/-! ### Collectives (R165 to R170) -/

/-- The destination bytes of a collective per rank, and the bytes of one unit of its delivery. -/
def collBytes (kind len p : Nat) : Nat := if kind = 1 then p * len else len
/-- An element of a reduction, or one byte. -/
def collUnit (kind fmt : Nat) : Nat := if kind = 0 ∨ kind = 2 then reduceBytes fmt else 1

/-- A communicator that a handle names. -/
def State.commOf (s : State) (h : BitVec 64) : Option Comm := if h.toNat < 4096 then kget s.comms h.toNat else none

/-- Time limits are in µs of 3,300 cc (R5). -/
def usToCc (n : Nat) : Nat := n * 3300

/-- R166 to R168, R170: a collective's start: its number, its checks, EXP, and the accesses to come: destination bytes, and
above them the source bytes of RS that only other ranks use. Kinds: 0 AR, 1 AG, 2 RS, 3 BC. The communicator's time limit
counts from here (DESIGN CHOICE, assumption 78). -/
def State.collPrepare (s : State) (id : Nat) (c : Cmd) (kind : Nat) (exp : Bool) : State :=
  match s.commOf c.b0 with
  | none => s.stopCmd id c 11 0
  | some k =>
    let len := (c.a1.extractLsb' 0 32).toNat
    let root := (c.a1.extractLsb' 32 16).toNat
    let s := if c.numbered then s else { s with comms := kset s.comms c.b0.toNat { k with number := k.number + 1 } }
    let c := if c.numbered then c
      else { c with number := k.number, numbered := true, deadline := if k.limit = 0 then none else some (s.clk + usToCc k.limit) }
    let total := match kind with
      | 0 | 3 => len
      | _ => k.p * len
    match firstReason [(decide (len = 0 ∨ (c.a1.extractLsb' 48 16).toNat ≠ 0 ∨ (kind = 3 ∧ k.p ≤ root) ∨ (kind ≠ 3 ∧ root ≠ 0)), 2),
        (decide (65536 < total), 2), (decide (len % 8 ≠ 0), 2), (decide (c.d0.toNat % 8 ≠ 0 ∨ c.a0.toNat % 8 ≠ 0), 3)],
      s.hurdleReq c c.d1.toNat with
    | some r, _ => s.stopCmd id c r 0
    | none, .error (r, i) => s.stopCmd id c r i
    | none, .ok h =>
      let n := collBytes kind len k.p
      let others := if kind = 2 then (List.range (k.p * len)).filter fun o => o / len != k.rank else []
      ((s.setCmd id c).postExpected c exp h n).andThen id c fun s pts _ =>
        s.setCmd id { c with ready := true, pts := pts, plan := List.range n ++ others.map (· + n), total := n }

/-- R169: the bytes of the source of rank `p` at an offset: this rank's own come from memory, the others' from the ring. -/
def remoteUnit (comm number p off n : Nat) : Nat :=
  ofBytes ((List.range n).map fun i => Config.peerSource comm number p (off + i))

/-- R58, R169: ranks combined in ascending order, the accumulated result on the left. -/
def foldRanks (fmt op : Nat) : List Nat → Nat
  | [] => 0
  | x :: xs => xs.foldl (fun r v => reduce fmt op r v) x

/-- R169, R170: one access of a collective, in an order the manual leaves open: a source byte read, kept for its element, or
a destination byte of an element whose source has been read. The command is done with its last destination byte; source bytes that
only other ranks use, and that have not been read by then, are not waited for. -/
def State.collStep (s : State) (id : Nat) (c : Cmd) (kind fmt op : Nat) : State :=
  if 0 < c.owe then s.chargeOwed id c true
  else match s.commOf c.b0, c.plan with
  | some k, _ :: _ =>
    let i := Config.pick s.free % c.plan.length
    let u := c.plan.getD i 0
    let s := { s with free := s.free + 1 }
    let unit := collUnit kind fmt
    let len := (c.a1.extractLsb' 0 32).toNat
    let root := (c.a1.extractLsb' 32 16).toNat
    let n := collBytes kind len k.p
    let off := u / unit * unit
    let deliver (s : State) (v : Nat) : State :=
      (s.engineStore c c.pts (wrapAddr (c.d0.toNat + u)) 1 (v / 256 ^ (u % unit) % 256)).andThen id c fun s pts _ =>
        s.chargeOwed id { c with pts := pts, plan := c.plan.eraseIdx i, pos := c.pos + 1, owe := 1 } true
    let own (at_ : Nat) (k : Nat → State) : State :=
      let got := dget [] c.rows off
      if unit ≤ got.length then k (got.reverse.foldl (fun n b => 256 * n + b) 0)
      else (s.engineLoad c c.pts (wrapAddr (c.a0.toNat + at_ + got.length)) 1 1).andThen id c fun s pts v =>
        s.setCmd id { c with pts := pts, rows := kset c.rows off (got ++ [v]) }
    if n ≤ u then
      (s.engineLoad c c.pts (wrapAddr (c.a0.toNat + (u - n))) 1 1).andThen id c fun s pts _ =>
        s.setCmd id { c with pts := pts, plan := c.plan.eraseIdx i }
    else match kind with
    | 0 | 2 =>
      let at_ := if kind = 2 then k.rank * len + off else off
      own at_ fun v => deliver s (foldRanks fmt op ((List.range k.p).map fun p =>
          if p = k.rank then v else remoteUnit c.b0.toNat c.number p at_ unit))
    | 1 =>
      if off / len = k.rank then own (off % len) (deliver s)
      else deliver s (remoteUnit c.b0.toNat c.number (off / len) (off % len) 1)
    | _ =>
      if root = k.rank then own off (deliver s) else deliver s (remoteUnit c.b0.toNat c.number root off 1)
  | _, _ => s.doneCmd id c

/-! ### Network and storage (R171 to R174) -/

/-- An endpoint that a handle names. -/
def State.epOf (s : State) (h : BitVec 64) : Option Endpoint := if h.toNat < 4096 then kget s.eps h.toNat else none

/-- The block size of a namespace (R174). -/
def blockSize (ep : Nat) : Nat := Config.blockSize ep

/-- R172: a network or storage command's start. Kinds: 0 GET, 1 PUT, 2 READ. The endpoint's time limit counts from here
(DESIGN CHOICE, assumption 78). -/
def State.netPrepare (s : State) (id : Nat) (c : Cmd) (kind : Nat) (exp : Bool) : State :=
  match s.epOf c.b0 with
  | none => s.stopCmd id c 11 0
  | some e =>
    let len := c.a1.toNat
    let bs := blockSize c.b0.toNat
    let c := if c.numbered then c
      else { c with numbered := true, deadline := if e.limit = 0 then none else some (s.clk + usToCc e.limit) }
    match firstReason [(decide (e.kind ≠ if kind = 2 then 1 else 0), 11),
        (if kind = 2 then decide (len = 0 ∨ len % bs ≠ 0 ∨ 16777216 < len)
          else decide (len < 8 ∨ len % 8 ≠ 0 ∨ 16777216 < len), 2),
        (decide (kind = 1 ∧ c.d1 ≠ 0), 2),
        (decide (c.d0.toNat % 8 ≠ 0 ∨ (kind ≠ 2 ∧ c.a0.toNat % 8 ≠ 0)), 3)],
      s.hurdleReq c c.d1.toNat with
    | some r, _ => s.stopCmd id c r 0
    | none, .error (r, i) => s.stopCmd id c r i
    | none, .ok h =>
      ((s.setCmd id c).postExpected c exp h len).andThen id c fun s pts _ =>
        s.setCmd id { c with ready := true, pts := pts, plan := List.range len, total := len }

/-- R173: what a peer refuses a remote access with: its page faults, or the code of the check that failed there, which the
manual leaves to the peer (assumption 10). -/
def peerRefusal (ep va : Nat) (wr : Bool) : Option Nat :=
  match Config.peerFault ep va wr with
  | 0 => none
  | 5 => some 5 | 6 => some 6 | 8 => some 8 | 9 => some 9 | 10 => some 10
  | _ => some 4

/-- R173: a command that a peer refuses stops with PAGE for a page fault, and with ARENA for a failed check. -/
def State.stopRemote (s : State) (id : Nat) (c : Cmd) (code : Nat) : State := s.stopCmd id c (if 8 ≤ code then 9 else 5) code

/-- R173, R174, R241: one byte of a network or storage command, in an order the manual leaves open. The remote and the local access
of a byte follow each other in one step: the manual gives each its own point and does not say what may come between (DESIGN CHOICE,
assumption 95). -/
def State.netStep (s : State) (id : Nat) (c : Cmd) (kind : Nat) : State :=
  if 0 < c.owe then s.chargeOwed id c true
  else match s.epOf c.b0, c.plan with
  | some _, _ :: _ =>
    let i := Config.pick s.free % c.plan.length
    let u := c.plan.getD i 0
    let s := { s with free := s.free + 1 }
    let ep := c.b0.toNat
    let next (s : State) (pts owe : Nat) : State :=
      s.chargeOwed id { c with pts := pts, plan := c.plan.eraseIdx i, pos := c.pos + 1, owe := owe } true
    let land (s : State) (pts v : Nat) : State :=
      (s.engineStore c pts (wrapAddr (c.d0.toNat + u)) 1 v).andThen id { c with pts := pts } fun s pts _ => next s pts 1
    match kind with
    | 0 =>
      let va := wrapAddr (c.a0.toNat + u)
      match peerRefusal ep va false with
      | some code => s.stopRemote id c code
      | none =>
        let (s, ts) := s.remoteTime ep c.pts
        land s ts (s.byte (peerKey ep (va % 2 ^ 56))).toNat
    | 1 =>
      (s.engineLoad c c.pts (wrapAddr (c.a0.toNat + u)) 1 1).andThen id c fun s pts v =>
        let va := wrapAddr (c.d0.toNat + u)
        match peerRefusal ep va true with
        | some code => s.stopRemote id c code
        | none =>
          let (s, ts) := s.remoteTime ep pts
          next (s.setByte (peerKey ep (va % 2 ^ 56)) (BitVec.ofNat 8 v)) ts 0
    | _ => land s c.pts (s.byte (nsKey ep (c.a0.toNat * blockSize ep + u))).toNat
  | _, _ => s.doneCmd id c

/-! ### Matrix commands under way (R150, R152, R265) -/

/-- The accesses to row `i` of a streamed or weight operand, address and bytes: one for each element of each of the tiles' spans
(R156), then one for each byte of scales and tags. -/
def rowAddrs (c : Cmd) (t : Tile) (i : Nat) (spans : List Nat) : List (Nat × Nat) :=
  let w := ((weightFmt t.fmt).map (·.1)).getD 8
  let blocks := (spans.foldl (· + ·) 0 + 31) / 32
  (spans.zipIdx.flatMap fun n => (List.range n.1).map fun k => (t.addr n.2 i (k * w / 8), (w + 7) / 8)) ++
  (if blockFmt t.fmt then (List.range blocks).map fun j => (c.b0.toNat + 8 * i + j, 1) else []) ++
  (if blockFmt t.fmt && c.b1 != 0 then [(c.b1.toNat + 2 * i, 1), (c.b1.toNat + 2 * i + 1, 1)] else [])

/-- The operand row that the values of its accesses make (R43, R44). -/
def rowOf (c : Cmd) (t : Tile) (spans : List Nat) (got : Nat → Nat) : OpRow :=
  let w := ((weightFmt t.fmt).map (·.1)).getD 8
  let n := spans.foldl (· + ·) 0
  let blocks := (n + 31) / 32
  { fmt := t.fmt
    codes := spans.zipIdx.flatMap fun m => (List.range m.1).map fun k =>
      let v := got ((spans.take m.2).foldl (· + ·) 0 + k)
      if w = 4 then v / 16 ^ (k % 2) % 16 else v
    scales := if blockFmt t.fmt then (List.range blocks).map fun j => got (n + j) else []
    tags := (List.range blocks).map fun j => if blockFmt t.fmt && c.b1 != 0 then got (n + blocks + j / 4) / 4 ^ (j % 4) % 4 else 0 }

/-- Key of what access `e` to row `i` of an operand has read. -/
def rowKey (i e : Nat) : Nat := 8 * i * 2 ^ 20 + e
/-- Key of element `e` of accumulator row `i` of member `m`. -/
def accKey (m i e : Nat) : Nat := (8 * i + 1 + m) * 2 ^ 20 + e
/-- A value that a command has kept. -/
def Cmd.kept (c : Cmd) (k : Nat) : Nat := (dget [] c.rows k).headD 0

/-- The accesses of the present row, or cc, of a matrix command that are still to make; `plan` lists those made. Their order is open
(R156, R265), and the machine takes any of them next (assumption 2). -/
def Cmd.openAccs (c : Cmd) (n : Nat) : List Nat := (List.range n).filter fun i => !c.plan.contains i

/-- MW and MWS: the next element of a weight row is read, and the latch is set after the last row (R150). -/
def State.mwStep (s : State) (id : Nat) (c : Cmd) (shadow : Bool) (k : Nat) : State :=
  match tileOf c.a0 c.a1 with
  | .error r => s.stopCmd id c r 0
  | .ok t =>
    if c.pos < t.rows then
      let accs := rowAddrs c t c.pos [k]
      let todo := c.openAccs accs.length
      let i := todo.getD (Config.pick s.free % todo.length) 0
      if todo.isEmpty then s.setCmd id { c with pos := c.pos + 1, plan := [] }
      else
        let (va, len) := accs.getD i (0, 1)
        (({ s with free := s.free + 1 } : State).engineLoad c c.pts va len len).andThen id c fun s pts v =>
          s.setCmd id { c with pts := pts, plan := c.plan ++ [i], rows := kset c.rows (rowKey c.pos i) [v] }
    else
      let rs := (List.range t.rows).map fun n => rowOf c t [k] fun e => c.kept (rowKey n e)
      let l : Latch := { fmt := t.fmt, k := k, n := t.rows, codes := rs.map (·.codes), scales := rs.map (·.scales), tags := rs.map (·.tags) }
      let a := s.array c.array
      (s.setArray c.array (if shadow then { a with shadow := some l } else { a with live := some l })).doneCmd id c

/-- Addresses of the accumulator elements of a row of a stream's member (MS) or of the whole chain (MST). -/
def accAddrs (acc : Tile) (trans : Bool) (k : Nat) (ns : List Nat) (m i : Nat) : List Nat :=
  if trans then (List.range k).map fun o => acc.addr 0 i (4 * o)
  else (List.range (ns.getD m 0)).map fun o => acc.addr m i (4 * o)

/-- R53, R55, R154: the new accumulator elements of a row for member `m`. -/
def streamOut (lats : List Latch) (trans : Bool) (row : OpRow) (old : List Nat) (m k : Nat) : List Nat :=
  if trans then
    let nt := lats.foldl (fun n l => n + l.n) 0
    (List.range k).map fun o => sumOver (old.getD o 0) nt fun j =>
      Val.mul (row.val j) ((lats.getD (j / 64) ⟨0, 0, 0, [], [], []⟩).elem o (j % 64))
  else
    let l := lats.getD m ⟨0, 0, 0, [], [], []⟩
    (List.range l.n).map fun o => sumOver (old.getD o 0) k fun j => Val.mul (row.val j) (l.elem j o)

/-- R52: the status bits that member `m` sets for a row: reserved tags and INT4 poison among the operands of its
products. -/
def streamBits (l : Latch) (trans : Bool) (row : OpRow) (m k : Nat) : Bool × Bool :=
  let ks := List.range k
  let ns := List.range l.n
  let wr (p : OpRow → Nat → Bool) : Bool := ns.any fun n => ks.any fun j => p (l.col n) j
  let ar (p : OpRow → Nat → Bool) : Bool := if trans then ns.any fun n => p row (64 * m + n) else ks.any fun j => p row j
  (wr OpRow.reserved || ar OpRow.reserved, wr OpRow.poisonCode || ar OpRow.poisonCode)

/-- An access of a stream: access `e` to the streamed row, or element `e` of accumulator row `i` of member `m` read or written. -/
inductive StreamAcc where
  | row (e va len : Nat)
  | acc (m i e va : Nat)
  | out (m i o va : Nat)
  deriving DecidableEq, Repr

/-- R152, R265: the accesses of one cc of a stream: streamed row cc is read; for each member m, accumulator row cc − 64 − m is read
and row cc − 66 − m is written. An MST's one accumulator stands at the last member. -/
def streamAccs (c : Cmd) (t acc : Tile) (k : Nat) (ns : List Nat) (trans z : Bool) (cc : Nat) : List StreamAcc :=
  let ms := if trans then [ns.length - 1] else List.range ns.length
  (if cc < t.rows then (rowAddrs c t cc (if trans then ns else [k])).zipIdx.map fun a => .row a.2 a.1.1 a.1.2 else []) ++
  (ms.flatMap fun m => if 64 + m ≤ cc ∧ cc - 64 - m < t.rows ∧ z = false then
      (accAddrs acc trans k ns m (cc - 64 - m)).zipIdx.map fun a => .acc m (cc - 64 - m) a.2 a.1 else []) ++
  (ms.flatMap fun m => if 66 + m ≤ cc ∧ cc - 66 - m < t.rows then
      (accAddrs acc trans k ns m (cc - 66 - m)).zipIdx.map fun a => .out m (cc - 66 - m) a.2 a.1 else [])

/-- R52: the status bits of a row that a stream has used. -/
def State.noteStatus (s : State) (ms : List Nat) (trans : Bool) (row : OpRow) (m k : Nat) : State :=
  (if trans then ms.zipIdx else ms.zipIdx.filter fun e => e.2 == m).foldl (fun s e =>
    match (s.array e.1).live with
    | some l =>
      let (tr, po) := streamBits l trans row e.2 k
      s.setArray e.1 { s.array e.1 with tagres := (s.array e.1).tagres || tr, poison := (s.array e.1).poison || po }
    | none => s) s

/-- R152, R156: the next access of a stream, at its own place in the memory order; each cc of the schedule has its own, and those of
one cc come in any order. The start checks are not made again (R144). -/
def State.streamStep (s : State) (id : Nat) (c : Cmd) (trans z : Bool) : State :=
  match s.streamShape c trans with
  | .error r => s.stopCmd id c r 0
  | .ok (t, acc, k, ns) =>
    let ms := s.members c
    let accs := streamAccs c t acc k ns trans z c.pos
    let todo := c.openAccs accs.length
    let n := todo.getD (Config.pick s.free % todo.length) 0
    let next (s : State) (pts : Nat) (rows : Tbl (List Nat)) : State :=
      s.setCmd id { c with pts := pts, plan := c.plan ++ [n], rows := rows }
    if c.total ≤ c.pos then s.doneCmd id c
    else
      let s := { s with free := s.free + 1 }
      match if todo.isEmpty then none else accs[n]? with
      | none => s.setCmd id { c with pos := c.pos + 1, plan := [] }
      | some (.row e va len) => (s.engineLoad c c.pts va len len).andThen id c fun s pts v => next s pts (kset c.rows (rowKey c.pos e) [v])
      | some (.acc m i e va) => (s.engineLoad c c.pts va 4 4).andThen id c fun s pts v => next s pts (kset c.rows (accKey m i e) [v])
      | some (.out m i o va) =>
        let row := rowOf c t (if trans then ns else [k]) fun e => c.kept (rowKey i e)
        let lats := ms.filterMap fun a => (s.array a).live
        let old := (List.range (accAddrs acc trans k ns m i).length).map fun e => c.kept (accKey m i e)
        let v := (streamOut lats trans row old m k).getD o 0
        let s := if o = 0 then s.noteStatus ms trans row m k else s
        (s.engineStore c c.pts va 4 v).andThen id c fun s pts _ => next s pts c.rows

/-! ### Start, progress, completion (R143, R144) -/

/-- R338: does a command use a lane group that retrains? -/
def State.retraining (s : State) (c : Cmd) : Bool :=
  let of (ep : Nat) : Bool := match kget s.eps ep with
    | some e => s.groups.contains e.group
    | none => false
  !s.groups.isEmpty && (match c.op with
    | .net .. => of c.b0.toNat
    | .coll .. => match s.commOf c.b0 with
      | some m => of m.next || of m.prev
      | none => false
    | _ => false)

/-- R143, R160, R164, R156: may a command start now? None starts in a block that is stopping (R197). A collective starts once the
earlier ones of its communicator have done all: the manual asks only that they start and complete in number order, so that they
might overlap (DESIGN CHOICE, assumption 94). -/
def State.cmdTurn (s : State) (c : Cmd) : Bool :=
  s.cmdFree c && !s.retraining c && !((s.block? c.block).any (·.stopping)) && (match c.op with
    | .copy _ ch .. => s.cmds.all fun e => match e.2.op with
      | .copy _ ch' .. => e.2.uid ≥ c.uid || e.2.finished || e.2.core != c.core || ch' != ch
      | _ => true
    | .coll .. => s.cmds.all fun e => match e.2.op with
      | .coll .. => e.2.uid ≥ c.uid || e.2.finished || e.2.b0 != c.b0
      | _ => true
    | .net .. => true
    | _ => s.matrixTurn c)

/-- R143, R227: a command starts: its time is its wave's, and its start checks run. -/
def State.startCmd (s : State) (id : Nat) : State :=
  match kget s.cmds id with
  | none => s
  | some c =>
    if c.started ∨ s.cmdTurn c = false then s
    else
      let c := { c with started := true, pts := (s.wave c.wave).pts
                        gens := (s.wins.filter fun e => winCtx e.1 == c.ctx).map fun e => (e.1, e.2.gen) }
      let s := s.setCmd id c
      match c.op with
      | .mw _ k => match s.mwCheck c k with
        | .error r => s.stopCmd id c r 0
        | .ok t => s.setCmd id { c with ready := true, total := t.rows }
      | .mswap =>
        let a := s.array c.array
        (s.setArray c.array { a with live := a.shadow, shadow := a.live }).doneCmd id c
      | .stream trans _ => match s.streamCheck c trans with
        | .error r => s.stopCmd id c r 0
        | .ok (t, _, _, ns) => s.setCmd id { c with ready := true, total := t.rows + 65 + ns.length }
      | .mchain n => match s.chainArrays c.array n with
        | some s => s.doneCmd id c
        | none => s.stopCmd id c 7 0
      | .mq sel clr d =>
        let a := s.array c.array
        let v := mqValue a sel (c.array % 4)
        let s := s.modWave c.wave fun x => x.landU d v
        let s := if clr then s.setArray c.array { a with tagres := false, poison := false } else s
        s.doneCmd id c
      | .copy kind ch exp fmt _ => s.copyPrepare id c kind ch exp fmt
      | .coll kind exp _ _ => s.collPrepare id c kind exp
      | .net kind exp => s.netPrepare id c kind exp

/-- Has a command's time limit passed before it had done all that it waits for (R168, R170, R174)? -/
def State.cmdLate (s : State) (c : Cmd) : Bool := (c.deadline.any fun d => decide (d ≤ s.clk)) && c.left

/-- The next access of a started command at its point; one whose time limit has passed stops with LINK. -/
def State.progressCmd (s : State) (id : Nat) : State :=
  match kget s.cmds id with
  | none => s
  | some c =>
    if (!c.started || c.finished || c.reply.isSome || c.frec.isSome) then s
    else if s.cmdLate c then s.stopCmd id c 12 0
    else match c.op with
      | .mw shadow k => s.mwStep id c shadow k
      | .stream trans z => s.streamStep id c trans z
      | .copy kind ch exp fmt op =>
        if c.ready then s.copyStep id c kind ch fmt op else s.copyPrepare id c kind ch exp fmt
      | .coll kind exp fmt op => if c.ready then s.collStep id c kind fmt op else s.collPrepare id c kind exp
      | .net kind exp => if c.ready then s.netStep id c kind else s.netPrepare id c kind exp
      | _ => s.doneCmd id c

/-- R143, R144: a command that has done all completes in its turn: its counter follows with any error reason, in the saved
image of a block that is away too (R134), its block's time follows (R239), and it is gone. -/
def State.completeCmd (s : State) (id : Nat) : State :=
  match kget s.cmds id with
  | none => s
  | some c =>
    if c.finished && s.completeTurn c then
      let s := { s with cmds := kdel s.cmds id }
      let s := s.modBlock c.block fun b => { b with ept := max b.ept c.pts }
      match kget s.waves c.wave with
      | some _ => (s.modWave c.wave fun x => x.complete c.uid c.err c.info c.pts).noteImage c.wave
      | none => s
    else s

/-- R307: the engine of a command: 1 copy, 2 collective, 3 network; and its channel. Bits 15:0 of a record's INFO. -/
def Cmd.engineInfo (c : Cmd) : Nat :=
  match c.op with
  | .copy _ ch .. => 1 + 256 * ch
  | .coll .. => 2
  | .net .. => 3
  | _ => 0

/-- R162, R307: an engine's fault arrives: its record enters the fault queue, and the command stays paused. CTR of a command
with no counter is 15, its SIG (DESIGN CHOICE, assumption 79). -/
def State.cmdFault (s : State) (id : Nat) : State :=
  match kget s.cmds id with
  | none => s
  | some c => match c.reply with
    | none => s
    | some r =>
      let s := s.setCmd id { c with reply := none, frec := some (dieOf c.core, 2 ^ 32) }
      let x := s.wave c.wave
      let ri : RecInfo := { s.waveRecord x false with
        ctx := c.ctx, core := c.core, ctr := c.ctr.getD 15, path := 3, recov := true, primary := true, code := r.code, mask := 0
        pc := c.pc, va := r.va, info := c.engineInfo + r.info / 65536 * 65536, depth := 0, join := 0 }
      s.writeRecord (dieOf c.core) (recordWords ri) (some (.cmd id))

end Sys2Proof.Machine
end

