-- ==== Sys2Proof/Machine/Flags.lean ====
section
/-! DEFINITION. Integer results and conditions (R62 to R73). The part keeps no status flags (R84); conditions go to
predicates, and this file computes them beside the integer operations. -/
namespace Sys2Proof.Machine

/-- `w` bits as an integer, signed or not (R65). -/
def intOf (w : Nat) (sgn : Bool) (v : Nat) : Int :=
  let u := v % 2 ^ w
  if sgn && decide (2 ^ (w - 1) ≤ u) then (u : Int) - (2 ^ w : Nat) else u

/-- The low `w` bits of an exact integer (Table 1.8, trunc). -/
def truncTo (w : Nat) (r : Int) : Nat := (r % (2 ^ w : Nat)).toNat

/-- R63: an RI immediate as `w` bits. -/
def immBits (w : Nat) (sgn : Bool) (imm : BitVec 32) : Nat := if sgn then truncTo w imm.toInt else imm.toNat % 2 ^ w

/-- R65: `w` bits extended to 64. -/
def widen (w : Nat) (sgn : Bool) (v : Nat) : BitVec 64 := BitVec.ofInt 64 (intOf w sgn v)

/-! ### Exact results (Tables 3.3, 3.4): width, signedness, the operands' low `w` bits -/

/-- A two-operand integer operation: operand width, signedness, the bits of x, and y as bits. -/
abbrev IntOp := Nat → Bool → Nat → Nat → Int

/-- x + y. -/
def opAdd : IntOp := fun w g x y => intOf w g x + intOf w g y
/-- x − y. -/
def opSub : IntOp := fun w g x y => intOf w g x - intOf w g y
/-- x × y. -/
def opMul : IntOp := fun w g x y => intOf w g x * intOf w g y
/-- floor(x × y ÷ 2^w). -/
def opMulh : IntOp := fun w g x y => (intOf w g x * intOf w g y).fdiv (2 ^ w : Nat)
/-- x ÷ y toward zero; all ones for y = 0. -/
def opDiv : IntOp := fun w g x y =>
  if intOf w g y = 0 then (2 ^ w : Nat) - 1 else (intOf w g x).tdiv (intOf w g y)
/-- Bitwise and. -/
def opAnd : IntOp := fun w _ x y => ((x % 2 ^ w) &&& (y % 2 ^ w) : Nat)
/-- Bitwise or. -/
def opOr : IntOp := fun w _ x y => ((x % 2 ^ w) ||| (y % 2 ^ w) : Nat)
/-- Bitwise exclusive or. -/
def opXor : IntOp := fun w _ x y => ((x % 2 ^ w) ^^^ (y % 2 ^ w) : Nat)
/-- Left shift by y, an unsigned amount that is not cut to `w` bits here. -/
def opShl : IntOp := fun w _ x y => if w ≤ y then 0 else ((x % 2 ^ w) * 2 ^ y : Nat)
/-- Logical right shift. -/
def opShr : IntOp := fun w _ x y => if w ≤ y then 0 else ((x % 2 ^ w) / 2 ^ y : Nat)
/-- Arithmetic right shift. -/
def opSar : IntOp := fun w _ x y => (intOf w true x).fdiv (2 ^ (min y (w - 1)) : Nat)
/-- The smaller. -/
def opMin : IntOp := fun w g x y => min (intOf w g x) (intOf w g y)
/-- The larger. -/
def opMax : IntOp := fun w g x y => max (intOf w g x) (intOf w g y)

/-- R62: a condition code on two exact integers. -/
def cond (cnd : BitVec 3) (x y : Int) : Bool :=
  match cnd.toNat with
  | 0 => decide (x = y)
  | 1 => decide (x ≠ y)
  | 2 => decide (x < y)
  | 3 => decide (x ≤ y)
  | 4 => decide (y < x)
  | _ => decide (y ≤ x)

/-- Count of one bits among the low `w`. -/
def onesOf : Nat → Nat → Nat
  | 0, _ => 0
  | w + 1, x => x % 2 + onesOf w (x / 2)
/-- Count of leading zero bits among the low `w`. -/
def leadZeros (w x : Nat) : Nat := if x % 2 ^ w = 0 then w else w - 1 - Nat.log2 (x % 2 ^ w)

/-- R69, VBFE: the field of `a` that a specification names. -/
def fieldExtract (w : Nat) (sgn : Bool) (a spec : Nat) : Nat :=
  let off := spec % 256
  let wid := spec / 256 % 256
  if w ≤ off ∨ wid = 0 then 0
  else
    let e := min wid (w - off)
    truncTo w (intOf e sgn (a % 2 ^ w / 2 ^ off))

/-- R69, VBFI: `c` with the field of a specification replaced by the low bits of `a`. -/
def fieldInsert (w a spec c : Nat) : Nat :=
  let off := spec % 256
  let wid := spec / 256 % 256
  let c := c % 2 ^ w
  if w ≤ off ∨ wid = 0 then c
  else
    let e := min wid (w - off)
    c - c / 2 ^ off % 2 ^ e * 2 ^ off + a % 2 ^ e * 2 ^ off

/-- R72: a reduction over the values of the active lanes. -/
def redLanes (op w : Nat) (sgn : Bool) (xs : List Nat) : Nat :=
  match op with
  | 0 => truncTo w ((xs.map (intOf w sgn)).foldl (· + ·) 0)
  | 3 => xs.foldl (fun a x => a ||| (x % 2 ^ w)) 0
  | _ => match xs with
    | [] => 0
    | x :: t => t.foldl (fun a y =>
        if (if op = 1 then decide (intOf w sgn a < intOf w sgn y) else decide (intOf w sgn y < intOf w sgn a)) then y % 2 ^ w else a)
        (x % 2 ^ w)

/-- All bits of a predicate alike. -/
def allBits (b : Bool) : BitVec 32 := if b then 0xFFFFFFFF else 0

/-- Bits of a predicate, one per lane, from a test. -/
def laneBits (g : Nat → Bool) : BitVec 32 :=
  (List.range 32).foldl (fun m l => if g l then m ||| (1#32 <<< l) else m) 0

/-- Bits replaced inside a mask. -/
def putBits (old active new : BitVec 32) : BitVec 32 := (old &&& ~~~active) ||| (new &&& active)

/-- A predicate, inverted where NEG is set (R66, R69, R75, R77). -/
def negIf (neg : Bool) (p : BitVec 32) : BitVec 32 := if neg then ~~~p else p

end Sys2Proof.Machine
end

