-- ==== Sys2Proof/Machine/Operands.lean ====
section
/-! DEFINITION. The turn of a wave, operand values by type (R19, R20, R62 to R68), and the shapes of the fixed-latency
instructions: a uniform result, a per-lane result, a predicate (R25, R28, R29). -/
namespace Sys2Proof.Machine

/-- What one step of exec answers. -/
abbrev Result := Host.Outcome State Fault Refusal

/-- A meaning runs for the live path whose turn it is. -/
def onTurn (s : State) (k : Nat → Bool → Wave → State) : Result :=
  match s.turn with
  | none => .fault .noTurn
  | some (w, pcb) => match kget s.waves w with
    | none => .fault .noTurn
    | some x => if (x.path pcb).live then .next (k w pcb x) else .fault .noTurn

/-! ### Values by type -/

/-- A uniform source's low `w` bits. -/
def State.uBits (s : State) (x : Wave) (w : Nat) (r : Reg) : Nat := (s.readU x r).toNat % 2 ^ w
/-- Lane `l` of a per-lane source of type T. -/
def State.lBits (s : State) (x : Wave) (before : List Reg) (t : BitVec 2) (r : Reg) (l : Nat) : Nat :=
  if vectorW t = 32 then (s.readL x before r l).toNat else (s.readL64 x r l).toNat
/-- A per-lane result of type T. -/
def State.writeT (s : State) (w uid lat : Nat) (t : BitVec 2) (d : Reg) (active : BitVec 32) (g : Nat → Nat) : State :=
  if vectorW t = 32 then s.writeL w uid lat d active fun l => BitVec.ofNat 32 (g l)
  else s.writeL64 w uid lat d active fun l => BitVec.ofNat 64 (g l)

/-! ### Shapes -/

/-- A fixed-latency instruction: it issues, has its effect when some lane is active, and its path moves on. `k` gets
the state at issue to read from, its wave, the active lanes and the state to change. -/
def fixed (s : State) (f : Sched) (lat : Nat) (k : Nat → Bool → State → Wave → BitVec 32 → State → State) : Result :=
  onTurn s fun w pcb _ =>
    let r := s.atIssue w f
    let x := r.wave w
    let act := r.active x pcb f
    let t := s.beginIssue w pcb f (some lat)
    (if act = 0 then t else k w pcb r x act t).advance w pcb

/-- A uniform result. -/
def fixedU (s : State) (f : Sched) (lat : Nat) (d : Reg) (val : State → Wave → BitVec 32 → BitVec 64) : Result :=
  fixed s f lat fun w _ r x act t => t.writeU w s.uid lat d (val r x act)

/-- A per-lane result of type T; the queue ports among `srcs` pop. -/
def fixedL (s : State) (f : Sched) (lat : Nat) (t : BitVec 2) (d : Reg) (srcs : List Reg) (val : State → Wave → Nat → Nat) : Result :=
  fixed s f lat fun w _ r x act u => (u.popPorts x srcs).writeT w s.uid lat t d act (val r x)

/-- A predicate result: `all` writes every bit, else the active lanes' bits. -/
def fixedP (s : State) (f : Sched) (lat : Nat) (d : Reg) (all : Bool) (srcs : List Reg) (val : State → Wave → BitVec 32 → BitVec 32) : Result :=
  fixed s f lat fun w _ r x act u =>
    let v := val r x act
    (u.popPorts x srcs).writeP w s.uid lat d.toNat (if all then v else putBits (x.pred d.toNat) act v)

/-! ### The integer families -/

/-- R65: the extension of a scalar result: by type, zero for the shifts of bit strings. -/
def scalarOut (t : BitVec 2) (logical : Bool) (r : Int) : BitVec 64 :=
  widen (scalarW t) (typeSigned t && !logical) (truncTo (scalarW t) r)

/-- R65: the second operand of a scalar instruction: `full` takes all 64 bits of b (a shift amount). -/
def State.scalarB (s : State) (x : Wave) (t : BitVec 2) (full : Bool) (b : Reg) : Nat :=
  if full then (s.readU x b).toNat else s.uBits x (scalarW t) b

/-- R65, RR. -/
def scalarRR (s : State) (f : Sched) (lat : Nat) (t : BitVec 2) (full logical : Bool) (op : IntOp) (d a b : Reg) : Result :=
  fixedU s f lat d fun r x _ =>
    scalarOut t logical (op (scalarW t) (typeSigned t) (r.uBits x (scalarW t) a) (r.scalarB x t full b))

/-- R65, RI. -/
def scalarRI (s : State) (f : Sched) (lat : Nat) (t : BitVec 2) (full logical : Bool) (op : IntOp) (d a : Reg) (imm : BitVec 32) : Result :=
  fixedU s f lat d fun r x _ =>
    scalarOut t logical (op (scalarW t) (typeSigned t) (r.uBits x (scalarW t) a)
      (if full then imm.toNat else immBits (scalarW t) (typeSigned t) imm))

/-- R68, RR. -/
def vectorRR (s : State) (f : Sched) (lat : Nat) (t : BitVec 2) (op : IntOp) (d a b : Reg) : Result :=
  fixedL s f lat t d [a, b] fun r x l =>
    truncTo (vectorW t) (op (vectorW t) (typeSigned t) (r.lBits x [] t a l) (r.lBits x [a] t b l))

/-- R68, RI; a shift's amount is the immediate itself. -/
def vectorRI (s : State) (f : Sched) (lat : Nat) (t : BitVec 2) (full : Bool) (op : IntOp) (d a : Reg) (imm : BitVec 32) : Result :=
  fixedL s f lat t d [a] fun r x l =>
    truncTo (vectorW t) (op (vectorW t) (typeSigned t) (r.lBits x [] t a l)
      (if full then imm.toNat else immBits (vectorW t) (typeSigned t) imm))

/-- A per-lane result of one source. -/
def vectorU (s : State) (f : Sched) (lat : Nat) (t td : BitVec 2) (d a : Reg) (g : Nat → Nat) : Result :=
  fixedL s f lat td d [a] fun r x l => truncTo (vectorW td) (g (r.lBits x [] t a l))

end Sys2Proof.Machine
end

