-- ==== Sys2Proof/Machine/Holds.lean ====
section
/-! DEFINITION. Held paths and what releases them: counters (R122), barriers (R123, R124), hurdles (R128), watches
(R130), control-core halts (R180); paths, stack and refill (R76 to R80). -/
namespace Sys2Proof.Machine

/-! ### Writing a result at a release -/

/-- A uniform result of an instruction without fixed latency, written at its completion. -/
def State.putU (s : State) (w uid : Nat) (d : Reg) (v : BitVec 64) : State :=
  s.modWave w fun x => if isS d then (x.log uid (.s d.toNat (dget 0 x.s d.toNat) (x.bad.filter (· == sBad d.toNat)))).landU d v else x

/-- A predicate written at a completion. -/
def State.putP (s : State) (w uid : Nat) (d : Reg) (v : BitVec 32) : State :=
  s.modWave w fun x => if d.toNat < 7 then (x.log uid (.p d.toNat (x.pred d.toNat) (x.bad.filter (· == pBad d.toNat)))).landP d.toNat v else x

/-! ### WAITC (R122, R237) -/

/-- WAITC on counter `n` stops holding: the wave joins the engines' time; the error bit is reported. -/
def State.finishWaitc (s : State) (w : Nat) (pcb : Bool) (uid n : Nat) (dst : Option Reg) (mask : BitVec 32) : State :=
  let c := (s.wave w).ctr n
  match dst with
  | some d =>
    ((s.putP w uid d (allBits (!c.err))).modWave w fun x =>
      x.setCtr n { x.ctr n with err := false, reason := 0, info := 0 }).release w pcb uid c.ept
  | none =>
    if c.err then
      (s.standAt w pcb uid).raise w pcb { Trap.of 15 mask with detail := c.reason, ctr := n, info := c.info }
    else s.release w pcb uid c.ept

/-! ### Barriers (R123, R124) -/

/-- A barrier of a block. -/
def Block.bar (b : Block) (n : Nat) : Barrier := dget Barrier.zero b.bars n
/-- A barrier of a block replaced. -/
def Block.setBar (b : Block) (n : Nat) (r : Barrier) : Block := { b with bars := dset Barrier.zero b.bars n r }

/-- Does a path hold at barrier `n` in a phase? -/
def Path.atBar (p : Path) (n phase : Nat) : Bool :=
  p.live && (match p.hold with
    | .bar _ k q => decide (k = n ∧ q = phase)
    | _ => false)

/-- A path that holds at a barrier in a phase is released at a time. -/
def State.leaveBar (s : State) (n phase ts : Nat) (w : Nat) (pcb : Bool) : State :=
  match ((s.wave w).path pcb).hold with
  | .bar uid k q => if ((s.wave w).path pcb).live = true ∧ k = n ∧ q = phase then s.release w pcb uid ts else s
  | _ => s

/-- R124: a phase that has its arrivals completes: the count clears, the phase moves on, and every path that waits for
it goes on at one point no earlier than any participant's time (R222, R223). -/
def State.completeBar (s : State) (bid n : Nat) : State :=
  match s.block? bid with
  | none => s
  | some b =>
    let r := b.bar n
    let target := if r.n = 0 then (s.liveWaves bid).length else r.n
    if r.arrivals = 0 ∨ r.arrivals < target then s
    else
      let ws := blockWaves bid b.nwaves
      let ts := ws.foldl (fun t w =>
        if (s.wave w).paths.any (·.atBar n r.phase) then max t (s.wave w).pts else t) 0
      let s := s.modBlock bid fun b => b.setBar n { phase := r.phase + 1, arrivals := 0, n := 0 }
      ws.foldl (fun s w => s.eachPath w (·.atBar n r.phase) fun s q => s.leaveBar n r.phase ts w q) s

/-- Every barrier of a block whose target has fallen to its arrivals completes (R124, R80). -/
def State.completeBars (s : State) (bid : Nat) : State := (List.range 4).foldl (fun s n => s.completeBar bid n) s

/-! ### WAITW (R130) -/

/-- A watch slot of a wave. -/
def Wave.watch (x : Wave) (n : Nat) : Watch := dget Watch.off x.watches n

/-- R130: the slots of a mask that have fired or are not armed. -/
def Wave.readyWatches (x : Wave) (mask : BitVec 4) : BitVec 4 :=
  (List.range 4).foldl (fun m n => if mask.getLsbD n && ((x.watch n).fired || !(x.watch n).armed) then m ||| (1#4 <<< n) else m) 0

/-- R130: the fired slots of a mask are disarmed. -/
def Wave.disarm (x : Wave) (ready : BitVec 4) : Wave :=
  { x with watches := x.watches.filter fun e => !(ready.getLsbD e.1 && (x.watch e.1).fired) }

/-- WAITW returns the slots that are ready. -/
def State.finishWaitw (s : State) (w : Nat) (pcb : Bool) (uid : Nat) (ready : BitVec 4) (d : Reg) : State :=
  ((s.putU w uid d (ready.setWidth 64)).modWave w fun x => x.disarm ready).release w pcb uid 0

/-- Has a hold's limit passed since its path's last issue, or its wave's resume (R202)? -/
def State.limitPassed (s : State) (p : Path) : Option Nat → Bool
  | some n => decide (p.since + n ≤ s.clk)
  | none => false

/-! ### HALT (R180) -/

/-- R180: the events that hold for a control core's wave; bit 3 is the limit. -/
def State.haltEvents (s : State) (w : Nat) (limit : Bool) : BitVec 4 :=
  let die := w % 16 / 4
  let b (c : Bool) (n : Nat) : BitVec 4 := if c then 1#4 <<< n else 0
  b ((s.wave w).watches.any fun e => e.2.armed && e.2.fired) 0 |||
  b (s.sysReg 0x011A die != s.sysReg 0x0119 die) 1 ||| b ((s.ctlRegs (w % 16)).icpend != 0) 2 ||| b limit 3

/-! ### Hurdle words re-read (R128, R202) -/

/-- The hurdle that a held HDL.WAIT waits on, as it stands, and the time of the write that left it so (R237). -/
def State.hurdleAt (s : State) (ctx va : Nat) : Option (Hurdle × Nat) :=
  match s.cover ctx va with
  | some (k, w) => if attrKind w.attr = 3 then
      let l := s.locOf { mkReq 0 0 va 16 0 with win := k, gen := w.gen }
      some (hurdleOf (ofBytes (s.readAt l va 16)), (s.times l).1)
    else none
  | none => none

/-! ### Release of one path -/

/-- One path of a wave goes on if what it waits for holds. -/
def State.settlePath (s : State) (w : Nat) (pcb : Bool) : State :=
  let x := s.wave w
  let p := x.path pcb
  if (!p.live || x.park.isSome || x.stopped) then s
  else match p.hold with
    | .waitc uid n k dst mask => if (x.ctr n).count ≤ k then s.finishWaitc w pcb uid n dst mask else s
    | .bar uid n phase => match s.block? x.block with
      | some b => if (b.bar n).phase ≠ phase then s.release w pcb uid 0 else s
      | none => s
    | .waitw uid mask _ d =>
      let r := x.readyWatches mask
      if r ≠ 0 then s.finishWaitw w pcb uid r d else s
    | .hdlWait uid va parity true _ mask => match s.hurdleAt x.ctx va with
      | some (h, ts) =>
        if h.overrun then (s.standAt w pcb uid).raise w pcb (Trap.of 13 mask)
        else if h.phase != parity then s.release w pcb uid ts
        else s
      | none => s
    | _ => s

/-- Every held path that may go on, goes on, and results whose time has come are written; a saved block waits. -/
def State.settle (s : State) : State :=
  s.waves.foldl (fun (s : State) e =>
    if s.waveAway (s.wave e.1) then s
    else
      let s := s.modWave e.1 fun x => x.retire s.clk
      s.eachPath e.1 (fun p => p.hold != .none) fun s q => s.settlePath e.1 q) s

/-! ### The paths of a wave (R76 to R80) -/

/-- One step of refill; none where it stops. -/
def Wave.refillOnce (x : Wave) : Option Wave :=
  match x.pca.live, x.pcb.live, x.stack with
  | true, false, .path p :: st => if p.join = x.pca.join then some { x with pcb := p, stack := st } else none
  | false, true, .path p :: st => if p.join = x.pcb.join then some { x with pca := p, stack := st } else none
  | false, false, .path p :: st => some { x with pca := p, stack := st }
  | false, false, .frame _ _ :: st => some { x with stack := st }
  | _, _, _ => none

/-- R79: refill, over a stack of at most 16 records. -/
def Wave.refillN : Nat → Wave → Wave
  | 0, x => x
  | n + 1, x => match x.refillOnce with
    | some y => Wave.refillN n y
    | none => x

/-- R79: refill, and the end of a wave. -/
def Wave.refill (x : Wave) : Wave :=
  let x := Wave.refillN (x.stack.length + 1) x
  { x with ended := x.ended || (!x.pca.live && !x.pcb.live && x.stack.isEmpty) }

end Sys2Proof.Machine
end

