-- ==== Sys2Proof/Machine/Control.lean ====
section
/-! DEFINITION. The control instructions (R74 to R81), 0x38 to 0x3F. -/
namespace Sys2Proof.Machine

/-- R16: a branch target. -/
def targetOf (pc : Addr) (disp : BitVec 32) : Addr := pc + disp.signExtend 56
/-- R16: is an address no place for an instruction? -/
def misplaced (a : Addr) : Bool := decide (a.toNat % 12 ≠ 0)

/-- A control instruction: guarded off it only moves on; a misplaced target raises ALIGN at its own PC (R16); else `k`
changes the path, whose divergence state is logged (R81). `lat` is the latency of a register result. -/
def control (s : State) (f : Sched) (lat : Nat) (target : State → Wave → Addr → Option Addr)
    (k : Nat → Bool → State → Wave → BitVec 32 → Addr → State → State) : Result :=
  onTurn s fun w pcb _ =>
    let r := s.atIssue w f
    let x := r.wave w
    let act := r.active x pcb f
    let t := s.beginIssue w pcb f (some lat)
    if act = 0 then t.advance w pcb
    else
      let pc := (x.path pcb).pc
      match target r x pc with
      | some a => if misplaced a then s.raiseIssue w pcb f (Trap.of 3 act) else k w pcb r x act a (t.logCtl w s.uid)
      | none => k w pcb r x act pc (t.logCtl w s.uid)

/-- A path goes to a PC. -/
def State.jump (s : State) (w : Nat) (pcb : Bool) (a : Addr) : State := s.modWave w fun x => x.goto pcb a

/-- BRA (R75). -/
def execBra (f : Sched) (disp : BitVec 32) (s : State) : Result :=
  control s f 0 (fun _ _ pc => some (targetOf pc disp)) fun w pcb _ _ _ a t => t.jump w pcb a

/-- R75: does a BRC of a mode branch, for its predicate and active lanes? -/
def brcTaken (mode : Reg) (p act : BitVec 32) : Bool :=
  match mode.toNat with
  | 0 => p &&& act != 0
  | 1 => act &&& ~~~p == 0
  | _ => p &&& act == 0

/-- BRC (R75). -/
def execBrc (f : Sched) (n : BitVec 3) (neg : Bool) (mode : Reg) (disp : BitVec 32) (s : State) : Result :=
  control s f 0 (fun _ _ pc => some (targetOf pc disp)) fun w pcb r x act a t =>
    if brcTaken mode (negIf neg (x.readPred r.free n.toNat)) act then t.jump w pcb a else t.advance w pcb

/-- R77: a wave split at a BRD: the records pushed and the two new paths, or none where the stack has no room. -/
def Wave.split (x : Wave) (pcb : Bool) (next target join : Addr) (t f : BitVec 32) (now : Nat) : Option Wave :=
  let h := x.path pcb
  let o := x.path (!pcb)
  let st := if o.live then .path o :: x.stack else x.stack
  let st := match h.join with
    | some j => .frame join j :: st
    | none => st
  if 16 < st.length then none
  else
    let p (pc : Addr) (m : BitVec 32) : Path := { live := true, pc := pc, mask := m, join := some join, last := now, hold := .none }
    some { x with pca := p next f, pcb := p target t, stack := st }

/-- BRD (R77). -/
def execBrd (f : Sched) (n : BitVec 3) (neg : Bool) (jlo jhi : Reg) (disp : BitVec 32) (s : State) : Result :=
  onTurn s fun w pcb _ =>
    let r := s.atIssue w f
    let x := r.wave w
    let act := r.active x pcb f
    let t := s.beginIssue w pcb f (some 0)
    let h := x.path pcb
    let a := targetOf h.pc disp
    let p := negIf neg (x.readPred r.free n.toNat)
    let yes := h.mask &&& p
    let no := h.mask &&& ~~~p
    if act = 0 then t.advance w pcb
    else if misplaced a then s.raiseIssue w pcb f (Trap.of 3 act)
    else if yes = 0 then (t.logCtl w s.uid).advance w pcb
    else if no = 0 then (t.logCtl w s.uid).jump w pcb a
    else
      let join := h.pc + BitVec.ofInt 56 (12 * (jhi ++ jlo : BitVec 16).toInt)
      match (t.wave w).split pcb (h.pc + 12) a join yes no t.clk with
      | some _ => (t.logCtl w s.uid).modWave w fun y => (y.split pcb (h.pc + 12) a join yes no t.clk).getD y
      | none => s.raiseIssue w pcb f (Trap.of 12 act)

/-- R78: the merge of a path at its JOIN with any sibling. -/
def Wave.merge (x : Wave) (pcb : Bool) (j : Addr) (now : Nat) : Wave :=
  let h := x.path pcb
  let o := x.path (!pcb)
  let m := if o.live = true ∧ o.join = h.join then h.mask ||| o.mask else h.mask
  let (join, st) := match x.stack with
    | .frame jc outer :: rest => if jc = j then (some outer, rest) else (none, x.stack)
    | _ => (none, x.stack)
  Wave.refill { x with
    pca := { live := true, pc := j + 12, mask := m, join := join, last := now, hold := .none }
    pcb := Path.dead, stack := st, lastPcb := false }

/-- JOIN (R78): NOP at an address that is not its path's join. -/
def execJoin (f : Sched) (s : State) : Result :=
  control s f 0 (fun _ _ _ => none) fun w pcb _ x _ pc t =>
    if (x.path pcb).join = some pc then t.modWave w fun y => y.merge pcb pc t.clk
    else t.advance w pcb

/-- CALL (R75). -/
def execCall (f : Sched) (d : Reg) (disp : BitVec 32) (s : State) : Result :=
  control s f 2 (fun _ _ pc => some (targetOf pc disp)) fun w pcb _ x _ a t =>
    (t.writeU w s.uid 2 d (((x.path pcb).pc + 12).setWidth 64)).jump w pcb a

/-- RET (R75). -/
def execRet (f : Sched) (a : Reg) (s : State) : Result :=
  control s f 0 (fun r x _ => some ((r.readU x a).setWidth 56)) fun w pcb _ _ _ b t => t.jump w pcb b

/-- LOOP (R75). -/
def execLoop (f : Sched) (d : Reg) (disp : BitVec 32) (s : State) : Result :=
  control s f 2 (fun _ _ pc => some (targetOf pc disp)) fun w pcb r x _ a t =>
    let v := r.readU x d - 1
    let t := t.writeU w s.uid 2 d v
    if v ≠ 0 then t.jump w pcb a else t.advance w pcb

/-- EXIT (R80): the active lanes end; a wave that ends may complete a barrier phase (R124). -/
def execExit (f : Sched) (s : State) : Result :=
  control s f 0 (fun _ _ _ => none) fun w pcb _ _ act pc t =>
    let t := t.modWave w fun x =>
      let p := x.path pcb
      let m := p.mask &&& ~~~act
      if m = 0 then Wave.refill (x.setPath pcb { p with mask := 0, live := false })
      else x.setPath pcb { p with mask := m, pc := pc + 12 }
    if (t.wave w).ended then t.completeBars (t.wave w).block else t

end Sys2Proof.Machine
end

