-- ==== Sys2Proof/Machine/Memory.lean ====
section
/-! DEFINITION. Loads, stores, prefetch, pins, write-back, reductions and atomics (R97 to R112), 0x80 to 0x9A: the byte
ranges and data of each at its issue. -/
namespace Sys2Proof.Machine

/-- An instruction without a fixed latency: guarded off it only moves on, else `k` issues it from the state at issue
(first) and its wave. -/
def timed (s : State) (f : Sched) (k : Nat → Bool → State → Wave → BitVec 32 → State) : Result :=
  onTurn s fun w pcb _ =>
    let r := s.atIssue w f
    let x := r.wave w
    let act := r.active x pcb f
    if act = 0 then (s.beginIssue w pcb f (some 0)).advance w pcb else k w pcb r x act

/-! ### Addresses and data -/

/-- R99, Table 5.3: the address of lane `l` of a V form of `b` bytes. -/
def State.laneAddr (r : State) (x : Wave) (a : Reg) (off : BitVec 20) (b l : Nat) : Nat :=
  if isV a then r.ea x a off l else eaAdd (r.ea x a off l) (b * l)

/-- The data element of `b` bytes of a lane of a per-lane field (R20). -/
def State.laneData (r : State) (x : Wave) (b : Nat) (d : Reg) (l : Nat) : BitVec 128 :=
  if b = 16 then
    (if isV d || isS d then (r.readL x [] (d + 3) l ++ r.readL x [] (d + 2) l ++ r.readL x [] (d + 1) l ++ r.readL x [] d l : BitVec 128)
      else 0)
  else if b = 8 then (r.readL64 x d l).setWidth 128
  else (r.readL x [] d l).setWidth 128

/-- The data element of `b` bytes of a uniform field; 16 bytes take a pair. -/
def State.uniData (r : State) (x : Wave) (b : Nat) (d : Reg) : BitVec 128 :=
  if b = 16 then (if isS d then (r.readU x (d + 1) ++ r.readU x d : BitVec 128) else 0) else (r.readU x d).setWidth 128

/-- R101: is a loaded element sign-extended? -/
def tySigned (ty : BitVec 4) : Bool := ty == 2 || ty == 5

/-- R100 for a form's own alignment rule that every lane breaks together. -/
def State.raiseAlign (s : State) (w : Nat) (pcb : Bool) (f : Sched) (act : BitVec 32) (va : Nat) : State :=
  s.raiseIssue w pcb f { Trap.of 3 act with va := va % 2 ^ 56 }

/-! ### Loads -/

/-- LD.S (R102). -/
def execLdS (f : Sched) (off : BitVec 20) (ty : BitVec 4) (d a : Reg) (s : State) : Result :=
  timed s f fun w pcb r x act =>
    s.issueAcc w pcb f (.loadS d (tySigned ty)) act true (tyBytesS ty) true false
      [mkReq 0 0 (r.ea x a off 0) (tyBytesS ty) 0] [] [] id

/-- LD.V and LD.LAST at issue (R102, R104). -/
def loadLanes (s : State) (f : Sched) (off : BitVec 20) (ty : BitVec 4) (last : Bool) (d a : Reg) : Result :=
  timed s f fun w pcb r x act =>
    let b := tyBytesV ty
    s.issueAcc w pcb f (.loadV d b (tySigned ty) last) act false b true false
      ((lanesOf act).map fun l => mkReq l 0 (r.laneAddr x a off b l) b 0) [] [] id

/-- LD.V (R102). -/
def execLdV (f : Sched) (off : BitVec 20) (ty : BitVec 4) (d a : Reg) (s : State) : Result := loadLanes s f off ty false d a

/-- LD.LAST (R104). -/
def execLdLast (f : Sched) (off : BitVec 20) (ty : BitVec 4) (d a : Reg) (s : State) : Result := loadLanes s f off ty true d a

/-- Ranges of a multi-register form: lane `l`, register `i`, by a function of both, in ascending (i, l). -/
def rangesOf (act : BitVec 32) (n : Nat) (at_ : Nat → Nat → Nat) (dat : Nat → Nat → BitVec 128) : List Req :=
  (List.range n).flatMap fun i => (lanesOf act).map fun l => mkReq l i (at_ i l) 4 (dat i l)

/-- LD.VB (R102). -/
def execLdVb (f : Sched) (off : BitVec 20) (cnt : BitVec 2) (d a : Reg) (s : State) : Result :=
  timed s f fun w pcb r x act =>
    let e := r.ea x a off 0
    if e % 128 ≠ 0 then s.raiseAlign w pcb f act (eaAdd e (4 * ((lanesOf act).headD 0)))
    else s.issueAcc w pcb f (.loadV d 4 false false) act false 4 true false
      (rangesOf act (cntOf cnt) (fun i l => eaAdd e (128 * i + 4 * l)) fun _ _ => 0) [] [] id

/-- LD.T (R102). A base or pitch that is no multiple of 4 fails for every active lane (DESIGN CHOICE, assumption 76). -/
def execLdT (f : Sched) (off : BitVec 20) (cnt : BitVec 2) (d a b : Reg) (s : State) : Result :=
  timed s f fun w pcb r x act =>
    let e := r.ea x a off 0
    let p := (r.readU x b).toInt
    if e % 4 ≠ 0 ∨ p % 4 ≠ 0 then s.raiseAlign w pcb f act (eaAdd e (p * ((lanesOf act).headD 0)))
    else s.issueAcc w pcb f (.loadV d 4 false false) act false 4 true false
      (rangesOf act (cntOf cnt) (fun i l => eaAdd e (p * l + 4 * i)) fun _ _ => 0) [] [] id

/-! ### Stores -/

/-- ST.S (R102). -/
def execStS (f : Sched) (off : BitVec 20) (ty : BitVec 4) (d a : Reg) (s : State) : Result :=
  timed s f fun w pcb r x act =>
    s.issueAcc w pcb f .store act true (tyBytesS ty) false true
      [mkReq 0 0 (r.ea x a off 0) (tyBytesS ty) (r.uniData x (tyBytesS ty) d)] [] [] id

/-- ST.V (R102): a queue port named as data pops once. -/
def execStV (f : Sched) (off : BitVec 20) (ty : BitVec 4) (d a : Reg) (s : State) : Result :=
  timed s f fun w pcb r x act =>
    let b := tyBytesV ty
    s.issueAcc w pcb f .store act false b false true
      ((lanesOf act).map fun l => mkReq l 0 (r.laneAddr x a off b l) b (r.laneData x b d l)) [] [d] id

/-- Data of register D + i. -/
def State.regData (r : State) (x : Wave) (d : Reg) (i l : Nat) : BitVec 128 := r.laneData x 4 (d + BitVec.ofNat 8 i) l

/-- ST.VB (R102). -/
def execStVb (f : Sched) (off : BitVec 20) (cnt : BitVec 2) (d a : Reg) (s : State) : Result :=
  timed s f fun w pcb r x act =>
    let e := r.ea x a off 0
    if e % 128 ≠ 0 then s.raiseAlign w pcb f act (eaAdd e (4 * ((lanesOf act).headD 0)))
    else s.issueAcc w pcb f .store act false 4 false true
      (rangesOf act (cntOf cnt) (fun i l => eaAdd e (128 * i + 4 * l)) (r.regData x d)) [] [d] id

/-- ST.PAIR (R105): the plain half, then the transposed half. A misaligned base or pitch fails for every active lane
(DESIGN CHOICE, assumption 76). -/
def execStPair (f : Sched) (off : BitVec 20) (cnt : BitVec 2) (d a b : Reg) (s : State) : Result :=
  timed s f fun w pcb r x act =>
    let e := r.ea x a off 0
    let t := (r.readU x b).toNat
    let p := (r.readU x (b + 1)).toInt
    let l0 := (lanesOf act).headD 0
    if e % 128 ≠ 0 then s.raiseAlign w pcb f act (eaAdd e (4 * l0))
    else if t % 4 ≠ 0 ∨ p % 4 ≠ 0 then s.raiseAlign w pcb f act (eaAdd t (p * l0))
    else s.issueAcc w pcb f .store act false 4 false true
      (rangesOf act (cntOf cnt) (fun i l => eaAdd e (128 * i + 4 * l)) (r.regData x d))
      (rangesOf act (cntOf cnt) (fun i l => eaAdd t (p * l + 4 * i)) (r.regData x d)) [d] id

/-! ### Prefetch, pins, write-back (R107, R108) -/

/-- PREF: at issue, the lines of the range are fetched; one whose length is outside its limits fetches none. -/
def execPref (f : Sched) (off : BitVec 20) (lv : Bool) (a b : Reg) (s : State) : Result :=
  timed s f fun w pcb r x act =>
    let e := r.ea x a off 0
    let n := (r.readU x b).toNat
    let t := s.beginIssue w pcb f (some 0)
    let t := if act ≠ 0 ∧ 1 ≤ n ∧ n ≤ 65536 then
        (rangeLines e n).foldl (fun t va => t.prefetch (t.wave w) lv va) t
      else t
    t.advance w pcb

/-- A range before its lines: each line lies in the innermost arena of its own granule (R205). -/
def withLines (e n : Nat) : List Req :=
  mkReq 0 0 e n 0 :: (List.range (n / 128)).map fun i => mkReq 0 i (eaAdd e (128 * i)) 128 0

/-- R107: PIN, UNPIN and WBR at issue: limits, then the check of the whole range, and of each of its lines, for reading. -/
def rangeOp (s : State) (f : Sched) (off : BitVec 20) (limit : Nat) (op : Nat → AccOp) (a b : Reg) : Result :=
  timed s f fun w pcb r x act =>
    let e := r.ea x a off 0
    let n := (r.readU x b).toNat
    if n % 128 ≠ 0 ∨ n < 128 ∨ limit < n then s.raiseAlign w pcb f act e
    else s.issueAcc w pcb f (op n) act true 128 true false (withLines e n) [] [] (·.drop 1)

/-- PIN. -/
def execPin (f : Sched) (off : BitVec 20) (d a b : Reg) (s : State) : Result :=
  rangeOp s f off (2 ^ 20) (fun n => .pin d n) a b
/-- UNPIN. -/
def execUnpin (f : Sched) (off : BitVec 20) (d a b : Reg) (s : State) : Result :=
  rangeOp s f off (2 ^ 20) (fun n => .unpin d n) a b
/-- WBR. -/
def execWbr (f : Sched) (off : BitVec 20) (a b : Reg) (s : State) : Result :=
  rangeOp s f off (2 ^ 30) (fun n => .wbr n) a b

/-! ### Reductions and atomics (R109 to R112) -/

/-- The ranges of a RED, ATOM or CAS: one for a uniform base, one per active lane for a vector base. -/
def State.atomReqs (r : State) (x : Wave) (act : BitVec 32) (a : Reg) (off : BitVec 20) (k : Nat) (dat alt : Nat → BitVec 128) : List Req :=
  if isV a then (lanesOf act).map fun l => { mkReq l 0 (r.ea x a off l) k (dat l) with alt := alt l }
  else [{ mkReq 0 0 (r.ea x a off 0) k (dat 0) with alt := alt 0 }]

/-- A data operand of `k` bytes of lane `l` (R110). -/
def State.atomData (r : State) (x : Wave) (a : Reg) (k : Nat) (d : Reg) (l : Nat) : BitVec 128 :=
  if isV a then r.laneData x k d l else r.uniData x k d

/-- RED. -/
def execRed (f : Sched) (off : BitVec 20) (ty : BitVec 4) (sc op : BitVec 3) (d a : Reg) (s : State) : Result :=
  timed s f fun w pcb r x act =>
    let k := atomBytes ty
    s.issueAcc w pcb f (.red ty.toNat op.toNat sc.toNat) act (!isV a) k true true
      (r.atomReqs x act a off k (r.atomData x a k d) fun _ => 0) [] (if isV a then [d] else []) id

/-- ATOM. -/
def execAtom (f : Sched) (off : BitVec 20) (ty : BitVec 4) (sc op : BitVec 3) (d a b : Reg) (s : State) : Result :=
  timed s f fun w pcb r x act =>
    let k := atomBytes ty
    s.issueAcc w pcb f (.atom ty.toNat op.toNat sc.toNat d (!isV a)) act (!isV a) k true true
      (r.atomReqs x act a off k (r.atomData x a k b) fun _ => 0) [] (if isV a then [b] else []) id

/-- CAS: the group at B holds the expected value, then the new one. -/
def execCas (f : Sched) (off : BitVec 20) (ty : BitVec 4) (sc : BitVec 3) (d a b : Reg) (s : State) : Result :=
  timed s f fun w pcb r x act =>
    let k := atomBytes ty
    let step : Reg := if isV a then BitVec.ofNat 8 (k / 4) else if k = 16 then 2 else 1
    s.issueAcc w pcb f (.cas ty.toNat sc.toNat d (!isV a)) act (!isV a) k true true
      (r.atomReqs x act a off k (r.atomData x a k b) (r.atomData x a k (b + step))) [] [] id

/-! ### Arena instructions (R113 to R119): checked at the core, acting at their point -/

/-- An arena instruction issues, or raises ARENA_PERM at the core (R114). -/
def arenaOp (s : State) (f : Sched) (h : Reg) (ends quota sealing : Bool) (op : State → Wave → BitVec 64 → AccOp) : Result :=
  timed s f fun w pcb r x act =>
    let v := r.readU x h
    if r.arenaPerm x v ends quota sealing then s.raiseIssue w pcb f (Trap.of 4 act)
    else s.issueFree w pcb f (op r x v) act

/-- ARENA.NEW. -/
def execArenaNew (f : Sched) (pn : BitVec 3) (d a b : Reg) (s : State) : Result :=
  arenaOp s f a false true false fun r x h => .arenaNew pn.toNat d h (r.readU x b) (r.readU x (b + 1))
/-- ARENA.ALLOC. -/
def execArenaAlloc (f : Sched) (pn : BitVec 3) (aln : BitVec 4) (d a b : Reg) (s : State) : Result :=
  arenaOp s f a false false false fun r x h => .arenaAlloc pn.toNat aln.toNat d h (r.readU x b)
/-- ARENA.SEAL. -/
def execArenaSeal (f : Sched) (a : Reg) (s : State) : Result :=
  arenaOp s f a false false true fun _ _ h => .arenaSeal h
/-- ARENA.RESET. -/
def execArenaReset (f : Sched) (d a : Reg) (s : State) : Result :=
  arenaOp s f a true false false fun _ _ h => .arenaReset d h
/-- ARENA.DROP. -/
def execArenaDrop (f : Sched) (a : Reg) (s : State) : Result :=
  arenaOp s f a true false false fun _ _ h => .arenaDrop h
/-- ARENA.QUOTA. -/
def execArenaQuota (f : Sched) (d a b : Reg) (s : State) : Result :=
  arenaOp s f a false true false fun r x h => .arenaQuota d h (r.readU x b)
/-- ARENA.INFO: no check of R100. -/
def execArenaInfo (f : Sched) (off : BitVec 20) (pn : BitVec 3) (sel : BitVec 4) (d a : Reg) (s : State) : Result :=
  timed s f fun w pcb r x act =>
    s.issueFree w pcb f (.arenaInfo sel.toNat pn.toNat d (BitVec.ofNat 64 (r.ea x a off 0))) act

end Sys2Proof.Machine
end

