-- ==== Sys2Proof/Machine/Commands.lean ====
section
/-! DEFINITION. Engine commands as instructions (R141 to R174), 0xC8 to 0xEA: the role, and the command's place in its
engine's queue. -/
namespace Sys2Proof.Machine

/-- A uniform field that names no register. -/
def noReg : Reg := 0xFF

/-- R142, R164: an engine command issues, or raises ROLE for a wave of another role. -/
def command (s : State) (f : Sched) (role : Role) (op : CmdOp) (d a b : Reg) : Result :=
  timed s f fun w pcb _ x act =>
    if x.role = role then s.issueCmd w pcb f op d a b else s.raiseIssue w pcb f (Trap.of 2 act)

/-- MW (R150). -/
def execMw (f : Sched) (k : BitVec 9) (a b : Reg) (s : State) : Result :=
  command s f .matrix (.mw false k.toNat) noReg a b
/-- MWS (R150). -/
def execMws (f : Sched) (k : BitVec 9) (a b : Reg) (s : State) : Result :=
  command s f .matrix (.mw true k.toNat) noReg a b
/-- MSWAP (R151). -/
def execMswap (f : Sched) (s : State) : Result := command s f .matrix .mswap noReg noReg noReg
/-- MS (R152). -/
def execMs (f : Sched) (z : Bool) (d a b : Reg) (s : State) : Result := command s f .matrix (.stream false z) d a b
/-- MST (R152). -/
def execMst (f : Sched) (z : Bool) (d a b : Reg) (s : State) : Result := command s f .matrix (.stream true z) d a b
/-- MCHAIN (R153). -/
def execMchain (f : Sched) (cm1 : BitVec 2) (s : State) : Result :=
  command s f .matrix (.mchain (cm1.toNat + 1)) noReg noReg noReg
/-- MQ (R155). -/
def execMq (f : Sched) (sel : BitVec 2) (clr : Bool) (d : Reg) (s : State) : Result :=
  command s f .matrix (.mq sel.toNat clr d) noReg noReg noReg

/-- CP (R158). -/
def execCp (f : Sched) (ch : BitVec 2) (exp : Bool) (d a b : Reg) (s : State) : Result :=
  command s f .copy (.copy 0 ch.toNat exp 0 0) d a b
/-- CP.G (R158). -/
def execCpG (f : Sched) (ch : BitVec 2) (exp : Bool) (d a b : Reg) (s : State) : Result :=
  command s f .copy (.copy 1 ch.toNat exp 0 0) d a b
/-- CP.S (R158). -/
def execCpS (f : Sched) (ch : BitVec 2) (exp : Bool) (d a b : Reg) (s : State) : Result :=
  command s f .copy (.copy 2 ch.toNat exp 0 0) d a b
/-- CP.RED (R158). -/
def execCpRed (f : Sched) (ch : BitVec 2) (exp : Bool) (fmt : BitVec 5) (op : BitVec 3) (d a b : Reg) (s : State) : Result :=
  command s f .copy (.copy 3 ch.toNat exp fmt.toNat op.toNat) d a b

/-- CPWP (R163): it reads the channel at its point in the memory order. -/
def execCpwp (f : Sched) (ch : BitVec 2) (d : Reg) (s : State) : Result :=
  timed s f fun w pcb _ _ act => s.issueFree w pcb f (.cpwp ch.toNat d) act

/-- R163: what CPWP reads. -/
def State.channelWord (s : State) (core ch : Nat) : BitVec 64 :=
  BitVec.ofNat 64 (dget 0 s.chStarted (chKey core ch) % 256 * 2 ^ 56 + dget 0 s.chwp (chKey core ch) % 2 ^ 56)

/-- CPWP at its point. -/
def State.performCpwp (s : State) (w ch : Nat) (d : Reg) : State :=
  let x := s.wave w
  (s.modWave w fun y => y.landU d (s.channelWord x.core ch)).finishHead w (max x.pts (dget 0 s.chPts (chKey x.core ch)))

/-- COLL.AR (R166). -/
def execCollAr (f : Sched) (exp : Bool) (fmt : BitVec 5) (op : BitVec 3) (d a b : Reg) (s : State) : Result :=
  command s f .copy (.coll 0 exp fmt.toNat op.toNat) d a b
/-- COLL.AG (R166). -/
def execCollAg (f : Sched) (exp : Bool) (d a b : Reg) (s : State) : Result :=
  command s f .copy (.coll 1 exp 0 0) d a b
/-- COLL.RS (R166). -/
def execCollRs (f : Sched) (exp : Bool) (fmt : BitVec 5) (op : BitVec 3) (d a b : Reg) (s : State) : Result :=
  command s f .copy (.coll 2 exp fmt.toNat op.toNat) d a b
/-- COLL.BC (R166). -/
def execCollBc (f : Sched) (exp : Bool) (d a b : Reg) (s : State) : Result :=
  command s f .copy (.coll 3 exp 0 0) d a b

/-- NET.GET (R172). -/
def execNetGet (f : Sched) (exp : Bool) (d a b : Reg) (s : State) : Result := command s f .copy (.net 0 exp) d a b
/-- NET.PUT (R172). -/
def execNetPut (f : Sched) (exp : Bool) (d a b : Reg) (s : State) : Result := command s f .copy (.net 1 exp) d a b
/-- NET.READ (R172). -/
def execNetRead (f : Sched) (exp : Bool) (d a b : Reg) (s : State) : Result := command s f .copy (.net 2 exp) d a b

end Sys2Proof.Machine
end

