-- ==== Sys2Proof/Machine/Sync.lean ====
section
/-! DEFINITION. Synchronisation, queue, task and view instructions (R122 to R139), 0xB0 to 0xC0. -/
namespace Sys2Proof.Machine

/-! ### Instructions that hold their path -/

/-- An instruction that issues, moves its path on and holds it there; then what it waits for is looked at once. -/
def holds (s : State) (f : Sched) (h : State → Wave → BitVec 32 → Hold) (k : Nat → Bool → Wave → State → State) : Result :=
  timed s f fun w pcb r x act =>
    let t := (s.beginIssue w pcb f none).advance w pcb
    let t := t.modWave w fun y => y.holdPath pcb (h r x act)
    (k w pcb x t).settlePath w pcb

/-- WAITC (R122). -/
def execWaitc (f : Sched) (n : BitVec 4) (k : BitVec 6) (s : State) : Result :=
  holds s f (fun _ _ act => .waitc s.uid n.toNat k.toNat none act) fun _ _ _ t => t
/-- WAITC.TEST (R122). -/
def execWaitcTest (f : Sched) (n : BitVec 4) (k : BitVec 6) (d : Reg) (s : State) : Result :=
  holds s f (fun _ _ act => .waitc s.uid n.toNat k.toNat (some d) act) fun _ _ _ t => t

/-- R124: one arrival at barrier `bn`; the first of a phase fixes its n. -/
def Block.arriveBar (b : Block) (bn n : Nat) : Block :=
  let r := b.bar bn
  b.setBar bn { r with arrivals := r.arrivals + 1, n := if r.arrivals = 0 then n else r.n }

/-- BAR (R123, R124). -/
def execBar (f : Sched) (bn : BitVec 2) (n : BitVec 5) (s : State) : Result :=
  holds s f
    (fun r x _ => match r.block? x.block with
      | some b => .bar s.uid bn.toNat (b.bar bn.toNat).phase
      | none => .none)
    fun _ _ x t => (t.modBlock x.block fun b => b.arriveBar bn.toNat n.toNat).completeBar x.block bn.toNat

/-- WAITW (R130): a mask and a limit of zero return at once. -/
def execWaitw (f : Sched) (mask : BitVec 4) (limit : BitVec 24) (d : Reg) (s : State) : Result :=
  holds s f
    (fun _ _ _ => .waitw s.uid mask (if limit = 0 then none else some (limit.toNat * 1024)) d)
    fun w pcb _ t => if mask = 0 ∧ limit = 0 then t.finishWaitw w pcb s.uid 0 d else t

/-! ### Hurdles (R126) -/

/-- R126: does an address lie outside every SCRATCH arena, or (`own`) outside the block's own? -/
def State.notHurdle (r : State) (x : Wave) (own : Bool) (va : Nat) : Bool :=
  match r.cover x.ctx va with
  | none => true
  | some (_, w) => attrKind w.attr != 3 || (own && (match r.block? x.block with
      | some b => w.sroot != b.scratchWin
      | none => true))

/-- R126: the checks of a hurdle address, in the order of R100. -/
def State.hurdleCheck (r : State) (x : Wave) (own wr : Bool) (va : Nat) : Option Nat :=
  match r.checkAll x 16 true wr [mkReq 0 0 va 16 0] with
  | .error t => if t.code = 5 ∧ r.notHurdle x own va then some 4 else some t.code
  | .ok _ => if r.notHurdle x own va then some 4 else none

/-- A hurdle instruction issues, or takes the trap of its check; `k` follows its issue. -/
def hurdleOp (s : State) (f : Sched) (off : BitVec 20) (own : Bool) (a b : Reg) (op : BitVec 64 → AccOp)
    (k : Nat → Bool → Wave → Nat → BitVec 64 → BitVec 32 → State → State) : Result :=
  timed s f fun w pcb r x act =>
    let e := r.ea x a off 0
    let v := r.readU x b
    match r.hurdleCheck x own true e with
    | some c => s.raiseIssue w pcb f { Trap.of c act with va := e % 2 ^ 56 }
    | none =>
      k w pcb x e v act (s.issueAcc w pcb f (op v) act true 16 true true [mkReq 0 0 e 16 0] [] [] id)

/-- R190: the hurdle of an HDL.INIT takes a tracker entry, unless it holds one. -/
def State.takeTracker (s : State) (bid va : Nat) : State :=
  s.modBlock bid fun b => if b.hurdles.contains va then b else { b with hurdles := b.hurdles ++ [va] }

/-- Does a block hold a tracker entry for a hurdle (R190)? -/
def State.hasTracker (s : State) (bid va : Nat) : Bool := (s.block? bid).any (·.hurdles.contains va)

/-- HDL.INIT, with b[31] RELEASE, at issue: an INIT that takes a tracker entry would give it back if it were cancelled. -/
def hdlInitOp (s : State) (f : Sched) (off : BitVec 20) (a b : Reg) : Result :=
  hurdleOp s f off true a b (fun v => .hdlInit v false) fun w _ x e v _ t =>
    if v.getLsbD 31 ∨ t.hasTracker x.block e then t
    else (t.takeTracker x.block e).modWave w fun y => { y with pend := y.pend.map fun q => if q.uid = s.uid then q.setTook true else q }

/-- HDL.INIT (R126). -/
def execHdlInit (f : Sched) (off : BitVec 20) (a b : Reg) (s : State) : Result := hdlInitOp s f off a b
/-- HDL.INIT with RELEASE (R126): the same word, met with b[31] = 1. -/
def execHdlInitRelease (f : Sched) (off : BitVec 20) (a b : Reg) (s : State) : Result := hdlInitOp s f off a b
/-- HDL.EXPECT (R126). -/
def execHdlExpect (f : Sched) (off : BitVec 20) (a b : Reg) (s : State) : Result :=
  hurdleOp s f off false a b (fun v => .hdlExpect v) fun _ _ _ _ _ _ t => t
/-- HDL.ARRIVE (R126). -/
def execHdlArrive (f : Sched) (off : BitVec 20) (a b : Reg) (s : State) : Result :=
  hurdleOp s f off false a b (fun v => .hdlArrive v) fun _ _ _ _ _ _ t => t
/-- HDL.TEST (R128). -/
def execHdlTest (f : Sched) (off : BitVec 20) (d a b : Reg) (s : State) : Result :=
  hurdleOp s f off true a b (fun v => .hdlTest d (v.getLsbD 0)) fun _ _ _ _ _ _ t => t

/-- A path held by the access it has just issued; a rewind to that access holds it again. -/
def Wave.holdBy (x : Wave) (pcb : Bool) (uid : Nat) (h : Hold) : Wave :=
  let x := x.holdPath pcb h
  { x with pend := x.pend.map fun a => if a.uid = uid then { a with ctl := (x.pca, x.pcb, x.stack) } else a }

/-- HDL.WAIT (R128): its path is held from its issue. -/
def execHdlWait (f : Sched) (off : BitVec 20) (a b : Reg) (s : State) : Result :=
  hurdleOp s f off true a b (fun v => .hdlWait (v.getLsbD 0)) fun w pcb _ e v act t =>
    t.modWave w fun y => y.holdBy pcb s.uid (.hdlWait s.uid e (v.getLsbD 0) false none act)

/-! ### Watches (R129) -/

/-- WATCH (R129): at issue. -/
def execWatch (f : Sched) (off : BitVec 20) (n : BitVec 2) (d a : Reg) (s : State) : Result :=
  timed s f fun w pcb r x act =>
    s.issueAcc w pcb f (.watch n.toNat d) act true 8 true false [mkReq 0 0 (r.ea x a off 0) 8 0] [] [] id

/-- WATCH at the head of a wave's accesses: the read and the arm at one point, at the line's coherence point. -/
def State.performWatch (s : State) (w : Nat) (a : Acc) (n : Nat) (d : Reg) : State :=
  let x := s.wave w
  match s.performRanges x.who x.pts 0 true false true none a.reqs readOp with
  | .hold s => s.holdHead w a
  | .push s cs => s.pushHead w a cs
  | .done s ts out left fault => match fault with
    | some r => s.faultHead w ts a left [] r
    | none =>
      let line := match a.reqs with
        | r :: _ => (s.locOf r).key
        | [] => 0
      (s.modWave w fun x => { x.landU d (BitVec.ofNat 64 ((out.map (·.2)).headD 0)) with
        watches := kset x.watches n { armed := true, fired := false, line := line } }).finishHead w ts

/-! ### Yielding and ending (R134, R139) -/

/-- YIELD (R134): its hold lasts until the block has been saved and resumed. -/
def execYield (f : Sched) (kind : BitVec 2) (n : BitVec 4) (k : BitVec 6) (a b : Reg) (s : State) : Result :=
  timed s f fun w pcb r x act =>
    let e := if kind = 2 then (r.readU x a).toNat else 0
    let bad := if kind = 2 then r.hurdleCheck x true false e else none
    match bad with
    | some c => s.raiseIssue w pcb f { Trap.of c act with va := e % 2 ^ 56 }
    | none =>
      ((s.beginIssue w pcb f none).advance w pcb).modWave w fun y =>
        y.holdPath pcb (.yield s.uid kind.toNat n.toNat k.toNat e (if kind = 2 then (r.readU x b).getLsbD 0 else false))

/-- TEND (R139): its hold lasts until the task has ended. -/
def execTend (f : Sched) (s : State) : Result :=
  timed s f fun w pcb _ _ _ =>
    ((s.beginIssue w pcb f none).advance w pcb).modWave w fun y => y.holdPath pcb (.tend s.uid)

/-! ### Queue ports (R133) -/

/-- QBIND and QBIND.OFF (R133): the binding changes for the whole block at issue. -/
def execQbind (f : Sched) (fifo : BitVec 3) (on : Bool) (d : Reg) (s : State) : Result :=
  timed s f fun w pcb _ x _ =>
    ((s.beginIssue w pcb f (some 0)).advance w pcb).modBlock x.block fun b =>
      { b with binds := if on then kset b.binds (d.toNat - 240) fifo.toNat else kdel b.binds (d.toNat - 240) }

/-! ### Tasks and views (R135 to R138) -/

/-- ENQ and SPAWN at issue: the record's bytes are checked, or 8 bytes where the handle names no node. -/
def enqOp (s : State) (f : Sched) (off : BitVec 20) (spawn : Bool) (d a b : Reg) : Result :=
  timed s f fun w pcb r x act =>
    let h := r.readU x b
    let len := match r.nodeOf x.ctx h with
      | some n => n.recSize
      | none => 8
    s.issueAcc w pcb f (.enq spawn d h (r.ea x a off 0)) act true 8 true false [mkReq 0 0 (r.ea x a off 0) len 0] [] []
      (fun rs => rs.flatMap splitReq)

/-- ENQ (R135). -/
def execEnq (f : Sched) (off : BitVec 20) (d a b : Reg) (s : State) : Result := enqOp s f off false d a b
/-- SPAWN (R135). -/
def execSpawn (f : Sched) (off : BitVec 20) (d a b : Reg) (s : State) : Result := enqOp s f off true d a b

/-- VIEW.DECL (R137): the range's limits and checks at issue, on its own addresses, whatever view holds them; one that
leaves its arena passes here and gives reason 3. -/
def execViewDecl (f : Sched) (off : BitVec 20) (fmt : BitVec 5) (op pn : BitVec 3) (d a b : Reg) (s : State) : Result :=
  timed s f fun w pcb r x act =>
    let e := r.ea x a off 0
    let n := (r.readU x b).toNat
    if n % 128 ≠ 0 ∨ n < 128 ∨ 2 ^ 30 < n then s.raiseAlign w pcb f act e
    else
      let len := match r.cover x.ctx e with
        | some (_, k) => min n (k.base + k.size - e)
        | none => n
      match r.checkRange x.who e len 128 true true with
      | .error c => s.raiseIssue w pcb f { Trap.of c act with va := e % 2 ^ 56 }
      | .ok (k, g) =>
        ((s.beginIssue w pcb f none).advance w pcb).enqueue w pcb (x.path pcb).pc
          (.viewDecl fmt.toNat op.toNat pn.toNat d (BitVec.ofNat 64 n)) act true [{ mkReq 0 0 e len 0 with win := k, gen := g }] []

/-- VIEW.INFO (R138). -/
def execViewInfo (f : Sched) (sel : BitVec 3) (d a : Reg) (s : State) : Result :=
  timed s f fun w pcb r x act => s.issueFree w pcb f (.viewInfo sel.toNat d (r.readU x a)) act

end Sys2Proof.Machine
end

