-- ==== Sys2Proof/Machine/System.lean ====
section
/-! DEFINITION. The system instructions (R175 to R182), 0xF0 to 0xF8, at issue. -/
namespace Sys2Proof.Machine

/-- TRAP (R176, R293): a compute core parks with a SERVICE record; a control core enters TVEC. -/
def execTrap (f : Sched) (n : BitVec 16) (d a b : Reg) (s : State) : Result :=
  timed s f fun w pcb r x act =>
    if x.super then
      (s.beginIssue w pcb f (some 0)).trapControl w pcb ((x.path pcb).pc + 12) 0 n.toNat 0
    else
      (s.beginIssue w pcb f none).parkWave w s.uid pcb (x.path pcb).pc { Trap.of 0 act with info := n.toNat }
        (some (d, r.readU x a, r.readU x b))

/-- BRK (R177, R293). -/
def execBrk (f : Sched) (n : BitVec 16) (s : State) : Result :=
  timed s f fun w pcb _ x act =>
    if x.super then
      (s.beginIssue w pcb f (some 0)).trapControl w pcb ((x.path pcb).pc + 12) 18 n.toNat 0
    else s.raiseIssue w pcb f { Trap.of 18 act with info := n.toNat }

/-- A supervisor instruction: in user mode it fails check 8 (R36, R38), whatever its guard. -/
def supervisor (s : State) (f : Sched) (k : Nat → Bool → State → Wave → BitVec 32 → State) : Result :=
  onTurn s fun w pcb x =>
    if x.super then
      let r := s.atIssue w f
      let y := r.wave w
      let act := r.active y pcb f
      if act = 0 then (s.beginIssue w pcb f (some 0)).advance w pcb else k w pcb r y act
    else s.raiseIssue w pcb f { Trap.of 1 (x.path pcb).mask with detail := 8 }

/-- RFT (R177, R293). -/
def execRft (f : Sched) (s : State) : Result :=
  supervisor s f fun w pcb _ _ _ => (s.beginIssue w pcb f (some 0)).returnFromTrap w pcb

/-- SYSRD (R178). -/
def execSysrd (f : Sched) (reg inst : BitVec 16) (d : Reg) (s : State) : Result :=
  supervisor s f fun w pcb _ _ act => s.issueFree w pcb f (.sysrd reg.toNat inst.toNat d) act

/-- SYSWR (R178). -/
def execSyswr (f : Sched) (reg inst : BitVec 16) (a : Reg) (s : State) : Result :=
  supervisor s f fun w pcb r x act => s.issueFree w pcb f (.syswr reg.toNat inst.toNat (r.readU x a)) act

/-- TINV (R179): ALIGN outside its limits. -/
def execTinv (f : Sched) (ctx : BitVec 6) (all : Bool) (a b : Reg) (s : State) : Result :=
  supervisor s f fun w pcb r x act =>
    let va := r.readU x a
    let n := r.readU x b
    if va.toNat % 65536 ≠ 0 ∨ n.toNat % 65536 ≠ 0 ∨ n.toNat < 65536 ∨ 2 ^ 56 < n.toNat then s.raiseAlign w pcb f act va.toNat
    else s.issueFree w pcb f (.tinv ctx.toNat all va n) act

/-- HALT (R180): the hold ends at an event of the mask; d shows the limit's event whether or not the mask names it. -/
def execHalt (f : Sched) (mask : BitVec 4) (limit : BitVec 24) (d : Reg) (s : State) : Result :=
  supervisor s f fun w pcb _ _ _ =>
    ((s.beginIssue w pcb f none).advance w pcb).modWave w fun x =>
      x.holdPath pcb (.halt s.uid mask (some (limit.toNat * 1024)) d)

/-- SNAP (R181, R333): its list and drain descriptor are read at its point. -/
def execSnap (f : Sched) (d a b : Reg) (s : State) : Result :=
  supervisor s f fun w pcb r x act =>
    let va := r.readU x a
    let n := r.readU x b
    if va.toNat % 8 ≠ 0 then s.raiseAlign w pcb f act va.toNat
    else if n.toNat < 1 ∨ 256 < n.toNat then s.issueFree w pcb f (.snap d va n) act
    else s.issueAcc w pcb f (.snap d va n) act true 8 true false [mkReq 0 0 va.toNat (8 * n.toNat + 32) 0] [] []
      (fun rs => rs.flatMap splitReq)

/-- SLOTSET (R182). -/
def execSlotset (f : Sched) (g : BitVec 2) (d a : Reg) (s : State) : Result :=
  supervisor s f fun w pcb r x act => s.issueFree w pcb f (.slotset d g.toNat (r.readU x a)) act

end Sys2Proof.Machine
end

