-- ==== Sys2Proof/Machine/SysRegs.lean ====
section
/-! DEFINITION. The system registers (Tables 19.8, 20.1, 21.1) and what reading and writing each does at its point
(R178, R292, R298, R308, R315, R321, R325); TINV, SLOTSET. -/
namespace Sys2Proof.Machine

/-! ### Reading -/

/-- R292: LQSTAT of a queue. -/
def State.queueStat (s : State) (q : Nat) : BitVec 64 :=
  match kget s.queues q with
  | some k => BitVec.ofNat 64 (1 + (if k.error then 2 else 0) + (if k.held then 4 else 0))
  | none => 0

/-- What SYSRD reads of a register on control core `c`; a write-only register reads 0 (R178). -/
def State.sysValue (s : State) (c reg inst : Nat) : BitVec 64 :=
  match reg with
  | 0x0001 => (s.ctlRegs c).tvec
  | 0x0002 => (s.ctlRegs c).tepc
  | 0x0003 => (s.ctlRegs c).tcause
  | 0x0004 => (s.ctlRegs c).tva
  | 0x0005 => BitVec.ofNat 64 c
  | 0x0021 => (s.ctlRegs c).icpend
  | 0x0040 => s.queueStat inst
  | 0x0104 => (Config.ownBase inst).setWidth 64
  | 0x011B => (s.ctlRegs c).fqrval
  | 0x0204 => BitVec.ofNat 64 (s.freeAreas inst).length
  | 0x020B => BitVec.ofNat 64 (dget 0 s.clamped inst)
  | 0x0020 | 0x0030 | 0x0103 | 0x011C | 0x0128 | 0x0200 | 0x0207 => 0
  | _ => s.sysReg reg inst

/-- What a write finds of a head that reads or writes a register. -/
def Acc.regOp (a : Acc) : Option (Bool × Nat × Nat × BitVec 64) :=
  match a.op with
  | .sysrd reg inst _ => some (false, reg, inst, 0)
  | .syswr reg inst v => some (true, reg, inst, v)
  | _ => none

/-- SYSRD at its point. -/
def State.performSysrd (s : State) (w reg inst : Nat) (d : Reg) : State :=
  let x := s.wave w
  (s.modWave w fun y => y.landU d (s.sysValue (w % 16) reg inst)).finishHead w x.pts

/-- The registers that a read clears (HERR, ICPEND, CLAMPC, SRDROP). -/
def State.clearRead (s : State) (c reg inst : Nat) : State :=
  match reg with
  | 0x0018 => s.setSys 0x0018 0 0
  | 0x0021 => s.setCtl c { s.ctlRegs c with icpend := 0 }
  | 0x020B => { s with clamped := kdel s.clamped inst }
  | 0x0124 => s.setSys 0x0124 inst 0
  | _ => s

/-! ### Writing (SYSREG_WRITE) -/

/-- How many bits of a mask are set. -/
def popCount (n : Nat) : Nat := ((List.range 64).filter fun i => n.testBit i).length

/-- The bits of a register that a write stores: the fields its table gives it. -/
def writeMask (reg : Nat) : BitVec 64 :=
  match reg with
  | 0x0010 => 0xFFFFFFFFFFFF0001
  | 0x0011 => 0xFFF000FFFFFFFFFF
  | 0x0100 | 0x0101 => 0x800000FFFFFFE000
  | 0x0110 => 0xFFE000000000007F
  | 0x0111 => 0xFFFF
  | 0x0118 | 0x0121 => 0xF00000FFFFFFFFC0
  | 0x0120 => 0xFFFFFFFF
  | 0x0201 => 1
  | 0x0203 => 0xFFF000FFFFFE0000
  | 0x0205 => 0xFFFFFFFFF
  | 0x0209 => 0xFFFFFFFF
  | _ => 0xFFFFFFFFFFFFFFFF

/-- R326: a power cap as it is stored. -/
def capOf (hi v : Nat) : Nat := if v < 600 then 600 else min hi v

/-- The value a write leaves in a plain register, or none where it is discarded: reserved bits, limits, and the
registers that only hardware writes. -/
def State.sysStored (s : State) (reg inst : Nat) (v : BitVec 64) : Option (BitVec 64) :=
  let v := v &&& writeMask reg
  match reg with
  | 0x0004 | 0x0005 | 0x0018 | 0x0021 | 0x0040 | 0x0104 | 0x011A | 0x0123 | 0x0124 | 0x0204 | 0x020A | 0x020B => none
  | 0x0111 => if [1, 2, 4, 8, 16].contains (popCount v.toNat) then some v else none
  | 0x0202 => some (if v.toNat < 16 then 16 else v)
  | 0x0209 => some (BitVec.ofNat 64 (capOf 3200 (v.toNat % 65536) + 65536 * capOf 3600 (v.toNat / 65536 % 65536)))
  | 0x0208 => if v.toNat % 4 = 3 then none else some ((s.sysReg 0x0208 inst &&& 0xC) ||| (v &&& 3))
  | _ => some v

/-- A plain register of control core `c` written. -/
def State.sysWrite (s : State) (c reg inst : Nat) (v : BitVec 64) : State :=
  let r := s.ctlRegs c
  match reg with
  | 0x0001 => s.setCtl c { r with tvec := v }
  | 0x0002 => s.setCtl c { r with tepc := v }
  | 0x0003 => s.setCtl c { r with tcause := v }
  | 0x011B => s.setCtl c { r with fqrval := v }
  | _ => match s.sysStored reg inst v with
    | some v => s.setSys reg inst v
    | none => s

/-- The registers whose writes have steps of their own: AMINV, FQREPLY, PGOP, ICMSG, HIRQ, VACATE, CRST, L2HM, PWRST. -/
def ownStep (reg : Nat) : Bool := [0x0103, 0x011C, 0x0128, 0x0020, 0x0030, 0x0200, 0x0207, 0x0110, 0x0208].contains reg

/-! ### Completions that come later (R28, R178) -/

/-- The head leaves the access table at its point; it completes later, as an operation under way. -/
def State.deferHead (s : State) (w : Nat) (kind arg : Nat) : State :=
  match (s.wave w).pend with
  | [] => s
  | a :: rest =>
    let s := s.modWave w fun x => { x with
      pend := rest
      undo := (match rest with
        | [] => []
        | b :: _ => x.undo.filter fun e => decide (b.uid < e.1)) }
    { s with asyncs := s.asyncs ++ [{ uid := a.uid, wave := w, kind := kind, arg := arg }] }

/-- R242, R305: a wave's time follows the point of what it has done. -/
def State.joinPts (s : State) (w ts : Nat) : State := s.modWave w fun x => { x with pts := max x.pts ts }

/-- Kinds of operations under way: 0 has done all it does, 1 waits for the next lap (SLOTSET). -/
def State.completeAsync (s : State) (uid : Nat) : State :=
  match s.asyncs.find? fun o => o.uid == uid && o.kind == 0 with
  | some o => ({ s with asyncs := s.asyncs.filter fun p => p.uid != uid } : State).complete o.wave uid
  | none => s

/-! ### The writes that have steps of their own -/

/-- R292: ICMSG: a message to a control core sets the sender's bit of its ICPEND. -/
def State.postMessage (s : State) (sender inst : Nat) : State :=
  s.setCtl inst { s.ctlRegs inst with icpend := (s.ctlRegs inst).icpend ||| (1#64 <<< sender) }

/-- R305, R329: a write of L2HM: every arena whose placement in force has that domain moves; with the time of the change, 0 for
none. -/
def State.writeL2hm (s : State) (inst : Nat) (v : BitVec 64) : State × Nat :=
  let v := v &&& writeMask 0x0110
  let lcnt := (v.extractLsb' 53 3).toNat
  if (v.extractLsb' 56 7).toNat % 2 ^ lcnt ≠ 0 then (s, 0)
  else
    let s := s.setSys 0x0110 inst v
    let olds := s.place.filter fun e => (e.2.extractLsb' 8 4).toNat == inst
    let hit := olds.map (·.1)
    if hit.isEmpty then (s, 0)
    else
    let s : State := { s with place := s.place.map fun e => if hit.contains e.1 then (e.1, v ||| (BitVec.ofNat 64 inst <<< 8)) else e }
    s.moveLines (fun t => decide (t < 2 ^ 100) && hit.contains (tagSpace t * 4096 + tagId t))
      (olds.flatMap fun e => slicesOf e.2).eraseDups (slicesOf v)

/-- Does a record's answer still have a wave that awaits it? A halt request ends the parks that stand (R197); one that an
access meets in the drain is answered as any other. -/
def State.awaits (_ : State) (x : Wave) (f : FaultRec) : Option Park :=
  match x.park with
  | some p => if p.die = f.die ∧ p.frec = f.k then some p else none
  | none => none

/-- R316: the park record of a wave's saved image is zero once the wave is parked no more. -/
def State.notePark (s : State) (w : Nat) : State :=
  match s.imageOf (s.wave w) with
  | some img => s.putImage img (0x20000 * ((s.wave w).index + 1) + 0xC380) (List.replicate 8 0)
  | none => s

/-- R176, R308: the answer to a SERVICE record: the reply lands, in the saved image of a block that is away too, and the wave goes on after
its TRAP. -/
def State.answerService (s : State) (w : Nat) (p : Park) (d : Reg) (v : BitVec 64) : State :=
  let s := (s.putU w p.uid d v).noteReg w d v
  (s.modWave w fun x =>
    ((({ x with park := none } : Wave).goto p.pcb ((x.path p.pcb).pc + 12)).complete p.uid 0 0 0)).noteImage w |>.notePark w

/-- R308: RESUME of a record. -/
def State.resumeRecord (s : State) (c : Nat) (f : FaultRec) : State :=
  match f.who with
  | .wave w => match s.awaits (s.wave w) f with
    | none => s
    | some p => match p.service with
      | some d => s.answerService w p d (s.ctlRegs c).fqrval
      | none => (s.modWave w fun x => { x with park := none }).notePark w
  | .merge t =>
    let go (m : Merge) : Merge := if m.frec = some (f.die, f.k) then { m with frec := none, paused := false } else m
    { s with tasks := kmod s.tasks t fun t => { t with merge := t.merge.map go } }
  | .cmd k => { s with cmds := kmod s.cmds k fun k => if k.frec = some (f.die, f.k) then { k with frec := none } else k }

/-- R308, R315: DECLINE of a wave's park: the code becomes non-recoverable at the access, or marks a saved task HALTED. -/
def State.declinePark (s : State) (w : Nat) (p : Park) : State :=
  let x := s.wave w
  let t : Trap := { Trap.of p.code p.mask with va := p.va, info := p.info }
  let s := (s.modWave w fun y => { y with park := none }).notePark w
  let s := match x.pend with
    | a :: _ => if a.uid = p.uid then s.raiseAt w a { t with half := a.half } else s.raise w p.pcb t
    | [] => s.raise w p.pcb t
  match s.block? x.block with
  | some b => if b.away then
      { s with
        tasks := kmod s.tasks b.task fun t => { t with state := .halted }
        nodes := kmod s.nodes b.node fun n => { n with bin := n.bin.filter fun r => r.resume != some b.task } }
    else s
  | none => s

/-- R308: DECLINE of a record. -/
def State.declineRecord (s : State) (f : FaultRec) : State :=
  match f.who with
  | .wave w => match s.awaits (s.wave w) f with
    | none => s
    | some p => match p.service with
      | some d => s.answerService w p d 0xFFFFFFFFFFFFFFFF
      | none => s.declinePark w p
  | .merge t => if (((kget s.tasks t).bind (·.merge)).any fun m => m.frec == some (f.die, f.k)) then s.mergeFails t 9 f.code else s
  | .cmd k => match kget s.cmds k with
    | some c => if c.frec = some (f.die, f.k) then s.stopCmd k c 9 f.code else s
    | none => s

/-- The record that a write of FQREPLY on control core `c` answers (R308). -/
def State.recordOf (s : State) (c : Nat) (v : BitVec 64) : Option FaultRec :=
  s.frecs.find? fun f => f.die == c / 4 && f.k == v.toNat % 2 ^ 32

/-- R308: the action of a write of FQREPLY; none where the write answers nothing. -/
def replyAction (v : BitVec 64) : Option Bool :=
  if v.toNat < 2 ^ 32 then some true else if v.toNat < 2 ^ 33 then some false else none

/-- R308: a write of FQREPLY with the action it names. -/
def State.fqReply (s : State) (c : Nat) (v : BitVec 64) (resume : Bool) : State :=
  match s.recordOf c v with
  | none => s
  | some f =>
    let s := { s with frecs := s.frecs.filter fun g => g.die != f.die || g.k != f.k }
    if resume then s.resumeRecord c f else s.declineRecord f

/-- The window under which the lost scratchpads of a context stand, wherever they lay. -/
def lostWin : Win :=
  { gen := 0, state := .live, base := 0, size := 2 ^ 56, attr := BitVec.ofNat 64 (3 * 128), rd := true, wr := true, inst := 0, parent := 0
    buffer := false, root := false, sroot := 0, nwaves := 0, lost := true }

/-- R134, R321: a SCRATCH arena whose scratchpad a reset has taken: the addresses of its range stand for a lost scratchpad, whichever
arena its identifier names next, and what reaches them faults NOTPRESENT. -/
def State.loseWin (s : State) (k : Nat) (w : Win) : State :=
  let l := lostKey (winCtx k)
  (List.range (w.size / 65536)).foldl (fun s i => s.showLeaf (winCtx k) (w.base + 65536 * i) (leafWord l w.rd w.wr))
    { s with wins := kset s.wins l lostWin }

/-- R216: may the blocks of a core end now: have the drop lists room for the buffers of their tasks? -/
def State.resetRoom (s : State) (core : Nat) : Bool :=
  s.dropRoom ((s.blocksOn core).foldl (fun n b => n + ((kget s.tasks b.2.task).map fun t => t.inherited.length).getD 0) 0)

/-- R321: a core reset: blocks still on it end, signals to their scratchpads fault from now on (R134), its scratchpad reads
zero and its clock starts again. -/
def State.resetCore (s : State) (core : Nat) : State :=
  let s := (s.blocksOn core).foldl (fun s b =>
    let mine := (s.subtree nestLimit (winKey b.2.ctx false b.2.scratchWin)).filterMap fun k => (kget s.wins k).map fun w => (k, w)
    let s := ({ s with tasks := kmod s.tasks b.2.task fun t => { t with state := .halted } } : State).endTask b.2.task
    mine.foldl (fun s e => s.loseWin e.1 e.2) s) s
  { s.clearBytes (scratchKey core 0) 786432 with
    coreReset := kset s.coreReset core s.clk
    crept := kdel s.crept core }

/-! ### Vacating (R314, R315) -/

/-- R315: every access of a vacating block has performed, every undo entry is freed, and its waves stand still. -/
def State.blockQuiet (s : State) (bid : Nat) (b : Block) : Bool :=
  (blockWaves bid b.nwaves).all (fun w => (s.wave w).pend.isEmpty || (s.wave w).park.isSome) &&
  !(s.cmds.any fun c => c.2.block == bid && !c.2.finished && (match c.2.op with
    | .copy .. | .coll .. | .net .. => !c.2.started
    | _ => true))

/-- R315: VACATE at its point: its cores take no task, and their blocks stop issuing. -/
def State.startVacate (s : State) (w : Nat) (ra : Nat) : State :=
  let ws := (List.range 4).map fun i => (s.word (raKey (ra + 8 * i))).toNat
  let cores := (List.range 192).filter fun n => (ws.getD (n / 64) 0).testBit (n % 64)
  if cores.isEmpty ∨ ws.getD 3 0 / 256 % 256 ≠ 0 ∨ ws.getD 3 0 / 2 ^ 32 ≠ 0 then
    (s.setBytes (raKey (ra + 24)) [1]).deferHead w 0 0
  else match (s.wave w).pend with
    | [] => s
    | a :: _ =>
      let s := s.deferHead w 2 ra
      let s : State := { s with blocks := s.blocks.map fun (e : Nat × Block) =>
        (e.1, if cores.contains e.2.core && !e.2.away then { e.2 with vacating := true } else e.2) }
      { s with vacates := s.vacates ++ [{ uid := a.uid, wave := w, ra := ra, cores := cores, saved := 0 }] }

/-- R315: the next block of a vacate that can be saved is saved; a task that is not HALTED gets a resume record. -/
def State.vacateBlock (s : State) (v : VacateOp) : Option State :=
  let ready := s.blocks.find? fun e => v.cores.contains e.2.core && !e.2.away && s.blockQuiet e.1 e.2 &&
    !(s.freeAreas (dieOf e.2.core)).isEmpty && (!e.2.stopping || e.2.halted)
  match ready with
  | none => none
  | some (bid, b) =>
    let s := s.saveBlock bid ((s.freeAreas (dieOf b.core)).headD 0)
    let halted := match kget s.tasks b.task with
      | some t => t.state == .halted
      | none => true
    let s := if halted || s.yielded bid then s else s.binResume b.task
    some { s with vacates := s.vacates.map fun u => if u.uid = v.uid then { u with saved := u.saved + 1 } else u }

/-- R315: a vacate goes on by one block, or ends: STATUS, SAVED, completion. -/
def State.vacateStep (s : State) (uid : Nat) : State :=
  match s.vacates.find? fun v => v.uid == uid with
  | none => s
  | some v => match s.vacateBlock v with
    | some s => s
    | none =>
      if s.blocks.any fun e => v.cores.contains e.2.core && !e.2.away then s
      else
        let s := s.setWord (raKey (v.ra + 24)) (BitVec.ofNat 64 (v.saved % 65536 * 65536))
        { s with
          vacates := s.vacates.filter fun u => u.uid != uid
          asyncs := s.asyncs.map fun o => if o.uid = uid then { o with kind := 0 } else o }

/-! ### Power (R325) -/

/-- R325: may a cluster reach the state that is requested of it? -/
def State.powerReady (s : State) (cl : Nat) : Bool :=
  let v := (s.sysReg 0x0208 cl).toNat
  decide (v % 4 ≠ v / 4 % 4) &&
  (v % 4 == 0 || !((List.range 4).any fun i => !(s.blocksOn (4 * cl + i)).isEmpty))

/-- R324: the host lines of which a cluster holds a half, by a copy in its L1 or as their last writer, are written back and
released. -/
def State.releaseHalves (s : State) (cl : Nat) : State :=
  (s.lines.filter fun e => e.2.halves != (0, 0) &&
      ((kget s.l1 (l1Key cl e.1)).isSome || (decide (e.2.writer < 192) && clusterOf e.2.writer == cl))).foldl (fun s e =>
    match s.leaveSlice e.1 with
    | .ok s => s.dropCopies e.1
    | .error _ => s) s

/-- R234: a cluster gives up its copies: the lines that it shares keep its read times, and those that it owned are recalled (R235). -/
def State.emptyL1 (s : State) (cl : Nat) : State :=
  let s := s.lines.foldl (fun s e => match kget e.2.sharers cl with
    | some t => ({ s with
        lines := kmod s.lines e.1 fun x => { x with rts := max x.rts t, sharers := kdel x.sharers cl } } : State).keepOffset e.2.slice t
    | none => s) s
  { s with
    l1 := s.l1.filter fun e => decide (e.1 / 2 ^ 80 ≠ cl)
    lines := s.lines.map fun e => (e.1, if e.2.owner = some cl then { e.2 with owner := none } else e.2) }

/-- R324, R325: a cluster reaches the state requested; before GATED it releases its host halves and empties its L1, and its
scratchpads are lost. -/
def State.reachPower (s : State) (cl : Nat) : State :=
  let v := (s.sysReg 0x0208 cl).toNat
  let s := s.setSys 0x0208 cl (BitVec.ofNat 64 (v % 4 * 5))
  if v % 4 = 2 then ((s.releaseHalves cl).emptyL1 cl).clearBytes (scratchKey (4 * cl) 0) (4 * 2 ^ 20) else s

/-! ### TINV and SLOTSET at their points (R179, R182) -/

/-- TINV: translation entries that meet the range are gone from every memory base die, those of the global range, which every
context shares, among them. -/
def State.performTinv (s : State) (w ctx : Nat) (all : Bool) (a b : BitVec 64) : State :=
  let hit (e : Trans) : Bool := (all || e.ctx == ctx || e.ctx == 64) &&
    decide (e.base < a.toNat + b.toNat) && decide (a.toNat < e.base + e.size)
  ({ s with trans := s.trans.filter fun e => !hit e } : State).deferHead w 0 0

/-- SLOTSET: refused, or the table for the next lap, in which d := 0 is written as it completes (R30). -/
def State.performSlotset (s : State) (w : Nat) (d : Reg) (g : Nat) (codes : BitVec 64) : State :=
  let x := s.wave w
  let cs := (List.range 16).map fun i => (codes.extractLsb' (4 * i) 4).toNat
  let tab := s.slotNext.getD s.slotTab
  let new := tab.take (16 * g) ++ cs ++ tab.drop (16 * g + 16)
  if cs.any (fun c => decide (5 < c)) || decide ((new.filter (· == 0)).length < 16) then
    (s.modWave w fun y => y.landU d 1).finishHead w x.pts
  else
    ({ s with slotNext := some new } : State).deferHead w 1 d.toNat

end Sys2Proof.Machine
end

