-- ==== Sys2Proof/Machine/Fleet.lean ====
section
/-! DEFINITION. Laps and slots (R331), snapshots and their drain (R181, R248, R333, R334), page operations (R309 to
R311, R339), the drop-list sweep (R216, R336) and telemetry (R338). -/
namespace Sys2Proof.Machine

/-! ### Accesses of firmware-side agents -/

/-- How an access of an agent other than a wave or an engine fared. -/
inductive AgentAcc where
  | ok (s : State) (ts : Nat) (bytes : List Byte)
  | wait (s : State)
  | bad (s : State) (code : Nat)

/-- One access of an agent to a range inside one line, checked under R100. -/
def State.agentAcc (s : State) (a : Who) (pts ty va len : Nat) (wr : Option (List Byte)) : AgentAcc :=
  match s.checkRange a va len 1 wr.isNone wr.isSome with
  | .error c => .bad s c
  | .ok (k, g) =>
    let r : Req := { mkReq 0 0 va len 0 with win := k, gen := g }
    let op : RangeOp := fun s r => match wr with
      | some bs => (s.writeAt (s.locOf r) r.va bs, 0, true)
      | none => (s, ofBytes (s.readAt (s.locOf r) r.va r.len), false)
    match s.performRanges a pts ty wr.isNone wr.isSome false none [r] op with
    | .hold s => .wait s
    | .push s _ => .wait s
    | .done s ts out _ none => .ok s ts (toBytes len ((out.map (·.2)).headD 0))
    | .done s _ _ _ (some f) => .bad s f.code

/-- Accesses to consecutive pieces of at most `step` bytes each, in order. -/
def State.agentAccs (s : State) (a : Who) (pts ty va step : Nat) : List (Option (List Byte)) → AgentAcc
  | [] => .ok s pts []
  | w :: ws => match s.agentAcc a pts ty va step w with
    | .ok s ts bs => match s.agentAccs a ts ty (va + step) step ws with
      | .ok s ts cs => .ok s ts (bs ++ cs)
      | e => e
    | e => e

/-- `n` pieces of `step` bytes read. -/
def State.agentRead (s : State) (a : Who) (pts va step n : Nat) : AgentAcc := s.agentAccs a pts 0 va step (List.replicate n none)

/-- Bytes cut into pieces. -/
def cutBytes : Nat → Nat → List Byte → List (Option (List Byte))
  | 0, _, _ => []
  | n + 1, step, bs => some (bs.take step) :: cutBytes n step (bs.drop step)

/-- Bytes written in pieces of `step`. -/
def State.agentWrite (s : State) (a : Who) (pts va step : Nat) (bs : List Byte) : AgentAcc :=
  s.agentAccs a pts 1 va step (cutBytes (bs.length / step) step bs)

/-! ### Slots (R331) -/

/-- The uc of the device since reset (R5). -/
def State.uc (s : State) : Nat := s.clk / 2
/-- The code of the slot under way: a lap is 64 slots of 64 uc. A device whose boot has failed runs none (R295). -/
def State.slotNow (s : State) : Nat := if s.bootFailed then 0 else s.slotTab.getD (s.uc / 64 % 64) 0

/-- The number of the slot under way, from reset. -/
def State.slotNo (s : State) : Nat := s.uc / 64
/-- R331: what a unit has done in the slot under way. Units: a stack's drain, its patrol (16 on), the migration (32), the sweeps of
L2 slices (64 on) and of L1 slices (192 on), and a stack's telemetry (240 on). -/
def State.slotDone (s : State) (unit : Nat) : Nat := if s.slotAt = s.slotNo then dget 0 s.slotUse unit else 0
/-- A unit has done `n` more in the slot under way. -/
def State.noteSlot (s : State) (unit n : Nat) : State :=
  { s with slotAt := s.slotNo, slotUse := dset 0 (if s.slotAt = s.slotNo then s.slotUse else []) unit (s.slotDone unit + n) }

/-- R182, R30: a SLOTSET completes, and d := 0 is written. -/
def State.finishSlotset (s : State) (o : AsyncOp) : State :=
  (s.modWave o.wave fun x => x.landU (BitVec.ofNat 8 o.arg) 0).complete o.wave o.uid

/-- R182, R263: a new lap: the written table takes effect, SLOTSETs complete, and the pacer moves in every group. -/
def State.startLap (s : State) : State :=
  if s.uc / 4096 ≤ s.lap ∨ s.bootFailed then s
  else
    let s := { s with lap := s.uc / 4096, slotTab := s.slotNext.getD s.slotTab, slotNext := none }
    let done := s.asyncs.filter fun o => o.kind == 1
    let s := { s with asyncs := s.asyncs.filter fun o => o.kind != 1 }
    let s := done.foldl (fun s o => s.finishSlotset o) s
    (List.range 15).foldl (fun s g => s.pacerMove (g + 1)) s

/-! ### Frozen granules (R181, R248, R333, R334) -/

/-- The key of the leaf that maps an address of a tag's space, if the walk succeeds. -/
def State.leafOf (s : State) (ctx va : Nat) : Option Nat := (s.leafKey ctx va).toOption

/-- A bit of a leaf set or cleared. -/
def State.markLeaf (s : State) (ctx va : Nat) (on : Bool) : State :=
  match s.leafOf ctx va with
  | some k => s.setWord k (if on then s.word k ||| 0x0400000000000000#64 else s.word k &&& ~~~0x0400000000000000#64)
  | none => s

/-- The ADDR of the leaf of a granule of an arena's table. -/
def State.frameOf (s : State) (name va : Nat) : Nat := match s.leafOf (name / 4096 % 64) (va * 65536) with
  | some k => (s.word k).toNat % 2 ^ 40
  | none => 0

/-- The bytes of a frozen granule's frame that differ from what unlisted memory reads as, by offset. -/
def State.granuleCells (s : State) (f : Frozen) : List Host.Cell :=
  (s.pieces f.mset f.addr).zipIdx.flatMap fun p =>
    (s.mem.filter fun c => decide (p.1 ≤ c.1) && decide (c.1 < p.1 + 4096)).map fun c => (p.2 * 4096 + (c.1 - p.1), c.2)

/-- R337: the poisoned 8-byte words of a frozen granule's frame, by place. -/
def State.granuleBad (s : State) (f : Frozen) : List Nat :=
  (s.pieces f.mset f.addr).zipIdx.flatMap fun p =>
    (s.poison.filter fun q => decide (p.1 ≤ 8 * q) && decide (8 * q < p.1 + 4096)).map fun q => p.2 * 512 + (q - p.1 / 8)

/-- The poisoned words of a granule at its freeze. -/
def State.frozenBad (s : State) (f : Frozen) : List Nat := if f.copy.isSome then f.bad else s.granuleBad f

/-- A granule's contents at its freeze: its copy, or the live granule, which no write has reached since. -/
def State.frozenBytes (s : State) (f : Frozen) : List Byte :=
  let cells := match f.copy with
    | some c => c
    | none => s.granuleCells f
  cells.foldl (fun bs c => bs.set c.1 c.2) (List.replicate 65536 unlisted)

/-- The bytes of a granule that lie on a stack. -/
def State.granuleShare (s : State) (f : Frozen) (st : Nat) : Nat :=
  if (s.sysReg 0x0111 f.mset).getLsbD st then 65536 / 2 ^ s.msetLog f.mset else 0

/-- R334: is there room in the copy pools for one more granule? Each stack's pool holds 256 MiB. -/
def State.copyRoom (s : State) (f : Frozen) : Bool :=
  (List.range 16).all fun st =>
    decide (((s.frozen.filter fun g => g.copy.isSome).foldl (fun n g => n + s.granuleShare g st) 0) + s.granuleShare f st ≤ 2 ^ 28)

/-- R334: a frozen granule is copied into the pool, and its writers go on. -/
def State.copyGranule (s : State) (f : Frozen) : State :=
  if s.copyRoom f then
    let cells := s.granuleCells f
    let bad := s.granuleBad f
    { s with
      frozen := s.frozen.map fun g => if g = f then { g with copy := some cells, bad := bad } else g
      asked := s.asked.filter (· != (f.win / 4096, f.va)) }
  else s

/-- The frozen granule that an agent's write waits at: of a wave by its ranges, else the first that a
write has asked for and the pool has room for. -/
def State.frozenFor (s : State) (agent : Nat) : Option Frozen :=
  let fresh := s.frozen.filter fun f => f.copy.isNone && s.asked.contains (f.win / 4096, f.va)
  match kget s.waves agent with
  | some x => match x.head with
    | some a => if a.wait then fresh.find? fun f => a.reqs.any fun r =>
        f.win / 4096 == winSpace r.win && f.va == r.va / 65536
      else none
    | none => none
  | none => if 2 ^ 32 ≤ agent then s.asked.findSome? fun q => fresh.find? fun f => (f.win / 4096, f.va) == q && s.copyRoom f else none

/-- Table 19.6: is an endpoint a peer? -/
def State.isPeer (s : State) (ep : Nat) : Bool := match kget s.eps ep with
  | some e => e.kind == 0
  | none => false

/-- Does an address lie in a HOST arena of a context? -/
def State.inHost (s : State) (ctx va : Nat) : Bool := match s.cover ctx va with
  | some (_, w) => attrKind w.attr == 1
  | none => false

/-- R333: the endpoint, if any, the target and its length of a drain descriptor of a context; none where it breaks Table 23.2. -/
def State.drainOf (s : State) (ctx : Nat) (w0 w1 w2 w3 : BitVec 64) : Option (Option Nat × Nat × Nat) :=
  let kind := (w0.extractLsb' 62 2).toNat
  let ep := w0.toNat % 4096
  if 2 ≤ kind ∨ w0.extractLsb' 12 50 ≠ 0 ∨ (kind = 0 ∧ ep ≠ 0) ∨ 2 ^ 56 ≤ w1.toNat ∨ w1.toNat % 128 ≠ 0 ∨ w2.toNat % 128 ≠ 0 ∨
      w3.extractLsb' 32 30 ≠ 0 then none
  else if (if kind = 1 then s.isPeer ep else s.inHost ctx w1.toNat) = false then none
  else some (if kind = 1 then some ep else none, w1.toNat, w2.toNat)

/-- SNAP at its point (R181, R248, R333): the listed arenas' dirty lines are written back and their backed granules
frozen; or d names what refuses it. -/
def State.performSnap (s : State) (w : Nat) (a : Acc) (d : Reg) (va n : BitVec 64) : State :=
  let x := s.wave w
  let answer (s : State) (v : BitVec 64) (ts : Nat) : State := (s.modWave w fun y => y.landU d v).finishHead w ts
  if a.reqs.isEmpty then answer { s with free := s.free + 1 } (BitVec.ofNat 64 (Config.pick s.free)) x.pts
  else match s.performLoad x.who x.pts 0 false a.reqs with
    | .hold s => s.holdHead w a
    | .push s _ => s.holdHead w a
    | .done s ts out left fault => match fault with
      | some r => s.faultHead w ts a left [] r
      | none =>
        let ws := out.map fun o => BitVec.ofNat 64 o.2
        let hs := ws.take n.toNat
        let ds := ws.drop n.toNat
        let named := hs.map fun h => s.arenaOf x.ctx h
        let ks := named.filterMap id
        match s.drainOf x.ctx (ds.getD 0 0) (ds.getD 1 0) (ds.getD 2 0) (ds.getD 3 0) with
        | none => answer s 0x8000000000000003 ts
        | some (ep, tva, tlen) =>
          if named.any (·.isNone) then answer s 0x8000000000000001 ts
          else if 4 ≤ s.snaps.length then answer s 0x8000000000000002 ts
          else if s.frozen.any fun f => ks.any fun k => f.win == winSpace k.1 * 4096 + winId k.1 then s.holdHead w a
          else match s.flushLines fun t => ks.any fun k => tagOf k.1 t with
            | .error (c, i, fva) => s.faultHead w ts a a.reqs [] { code := c, va := fva, mask := a.mask, info := i }
            | .ok s =>
              let ts := max ts (s.arenaTime (ks.map (·.1)) + 1)
              let s := s.closeTimes (fun t => ks.any fun k => tagOf k.1 t) ts
              let num := s.snapNum
              let fs := ks.eraseDups.flatMap fun k => (s.backedGranules (winSpace k.1 * 4096 + winId k.1) k.2.gen).map fun g =>
                ({ snap := num, win := winSpace k.1 * 4096 + winId k.1, gen := k.2.gen, va := g, mset := attrMset k.2.attr
                   addr := s.frameOf (winSpace k.1 * 4096 + winId k.1) g, copy := none } : Frozen)
              let s := fs.foldl (fun s f => s.markLeaf (f.win / 4096 % 64) (f.va * 65536) true) s
              let sn : Snap := { num := num, ctx := x.ctx, desc := va.toNat + 8 * n.toNat, ep := ep, tva := tva, tlen := tlen
                                 count := 0, err := false, pts := ts }
              let s := { s with frozen := s.frozen ++ fs, snaps := s.snaps ++ [sn], snapNum := num + 1 }
              answer s (BitVec.ofNat 64 (num % 2 ^ 32)) ts

/-- The granule's FRZ bit clears, and it is frozen no more. -/
def State.thaw (s : State) (f : Frozen) : State :=
  ({ s with
    frozen := s.frozen.filter fun g => g != f
    asked := s.asked.filter (· != (f.win / 4096, f.va)) } : State).markLeaf (f.win / 4096 % 64) (f.va * 65536) false

/-- R333: the 128-byte header of an entry. -/
def entryHeader (num ctx : Nat) (f : Frozen) : List Byte :=
  let handle := (if f.win / 4096 = 64 then 65536 else 0) + f.gen % 16 * 4096 + f.win % 4096
  toBytes 8 num ++ toBytes 8 (ctx * 2 ^ 58 + handle) ++ toBytes 8 (f.va * 65536) ++ List.replicate 104 0

/-- R337: words that were poisoned, by their place after an address, are poisoned in the lines that they have reached. -/
def State.spoil (s : State) (ctx va : Nat) (bad : List Nat) : State :=
  bad.foldl (fun s j =>
    let a := va + 8 * j
    match s.cover ctx a with
    | some (k, w) => { s with lines := kmod s.lines (lineTag k w.gen a) fun x => { x with poison := x.poison ++ [a % 128 / 8] } }
    | none => s) s

/-- An entry written to its target: lines of a HOST arena, or the peer's memory; `bad` lists its poisoned words, which stay so
(R337). -/
def State.drainWrite (s : State) (sn : Snap) (va : Nat) (bs : List Byte) (bad : List Nat) : AgentAcc :=
  match sn.ep with
  | some ep =>
    if s.isPeer ep && Config.peerFault ep va true == 0 then
      let (s, t) := s.remoteTime ep sn.pts
      let k := peerKey ep va
      let ws := (List.range (bs.length / 8)).map (k / 8 + ·)
      .ok { s.setBytes k bs with poison := (s.poison.filter fun p => !ws.contains p) ++ bad.map (k / 8 + ·) } t []
    else .bad s 4
  | none =>
    if s.inHost sn.ctx va then match s.agentWrite { ctx := sn.ctx, core := 192, super := true } sn.pts va 128 bs with
      | .ok s ts out => .ok (s.spoil sn.ctx va bad) ts out
      | e => e
    else .bad s 4

/-- R331: has each stack of a granule room for it in the drain slot under way? A die drains 64 KiB in a slot. -/
def State.drainRoom (s : State) (f : Frozen) : Bool :=
  (List.range 16).all fun st => decide (s.slotDone st + s.granuleShare f st ≤ 65536)
/-- A granule drained in the slot under way. -/
def State.noteDrain (s : State) (f : Frozen) : State := (List.range 16).foldl (fun s st => s.noteSlot st (s.granuleShare f st)) s

/-- R333: one granule of a snapshot drained, or the drain ended: in a drain slot. -/
def State.drainSnap (s : State) (num : Nat) : State :=
  match s.snaps.find? fun n => n.num == num with
  | none => s
  | some sn =>
    let put (s : State) (sn : Snap) : State := { s with snaps := s.snaps.map fun n => if n.num = num then sn else n }
    let mine := s.frozen.filter fun f => f.snap == num
    let fail (s : State) : State := put (mine.foldl (fun s f => s.thaw f) s) { sn with err := true }
    if mine.isEmpty then
      let w3 := 2 ^ 63 + (if sn.err then 2 ^ 62 else 0) + sn.count % 2 ^ 32
      match s.agentWrite { ctx := sn.ctx, core := 192, super := true } sn.pts (sn.desc + 24) 8 (toBytes 8 w3) with
      | .ok s _ _ => { s with snaps := s.snaps.filter fun n => n.num != num }
      | .wait s => s
      | .bad s _ => { s with snaps := s.snaps.filter fun n => n.num != num }
    else
    let fit := mine.filter s.drainRoom
    match fit[Config.pick s.free % fit.length]? with
    | none => s
    | some f =>
      let s := { s with free := s.free + 1 }
      if sn.tlen < (sn.count + 1) * 65664 then fail s
      else
        let bs := entryHeader num (f.win / 4096 % 64) f ++ s.frozenBytes f
        match s.drainWrite sn (sn.tva + 65664 * sn.count) bs ((s.frozenBad f).map (16 + ·)) with
        | .ok s ts _ => put ((s.noteDrain f).thaw f) { sn with count := sn.count + 1, pts := max sn.pts ts }
        | .wait s => s
        | .bad s _ => fail s

/-! ### Page operations (R309 to R311) -/

/-- The descriptor of a page operation (Table 20.9). -/
structure PageDesc where
  ctx : Nat
  g : Bool
  op : Nat
  va : Nat
  arg : Nat
  bad : Bool
  deriving DecidableEq, Repr

/-- Table 20.9 read from memory. -/
def State.pageDesc (s : State) (ra : Nat) : PageDesc :=
  let w0 := s.word (raKey ra)
  let w1 := s.word (raKey (ra + 8))
  let w2 := s.word (raKey (ra + 16))
  let op := w0.toNat % 4
  { ctx := (w0.extractLsb' 58 6).toNat, g := w0.getLsbD 57, op := op, va := w1.toNat, arg := w2.toNat
    bad := w0.extractLsb' 2 55 != 0 || decide (2 ^ 56 ≤ w1.toNat) || decide (w1.toNat % 65536 ≠ 0) || op == 0 || op == 3 ||
      w0.getLsbD 57 != inGlobal w1.toNat || (op == 2 && (decide (w2.toNat % 65536 ≠ 0) || w2 == 0)) }

/-- STATUS of a page operation. -/
def State.pageStatus (s : State) (ra code : Nat) : State := s.setBytes (raKey (ra + 24)) [BitVec.ofNat 8 code]

/-- Translation entries of a context that meet a range are dropped. -/
def State.dropTrans (s : State) (ctx va len : Nat) : State :=
  let c := if inGlobal va then 64 else ctx
  { s with trans := s.trans.filter fun e => !(e.ctx == c && decide (e.base < va + len) && decide (va < e.base + e.size)) }

/-- The memory set of the arena that covers an address. -/
def State.msetOf (s : State) (ctx va : Nat) : Nat := match s.cover ctx va with
  | some (_, w) => attrMset w.attr
  | none => 0

/-- MIGRATE at its point: refused with a status, held while a granule is frozen or another page moves, or begun. -/
def State.startMigrate (s : State) (w : Nat) (a : Acc) (ra : Nat) : State :=
  let p := s.pageDesc ra
  let refuse (code : Nat) : State := (s.pageStatus ra code).deferHead w 0 0
  match s.leafOf p.ctx p.va with
  | none => refuse 2
  | some k =>
    let l := s.word k
    let size := pageBytes (l.extractLsb' 56 2).toNat
    let n := size / 65536
    let m := s.msetOf p.ctx p.va
    if l.getLsbD 63 = false ∨ (l.extractLsb' 61 2) ≠ 0 then refuse 2
    else if p.va % size ≠ 0 then refuse 1
    else if s.pageOp.isSome then s.holdHead w a
    else if (List.range n).any fun i => match s.leafOf p.ctx (p.va + 65536 * i) with
        | some k => (s.word k).getLsbD 58
        | none => false then s.holdHead w a
    else if (List.range n).any fun i => (s.pieces m (p.arg + i * s.addrStep 0 m)).any fun q =>
        decide (63000000000 ≤ q % 2 ^ 36) || !(s.word (ownKey q 1)).getLsbD 63 || (s.word (ownKey q 1)).getLsbD 62 then refuse 3
    else
      ({ s with pageOp := some { uid := a.uid, wave := w, ra := ra, ctx := p.ctx, va := p.va, size := size, newAddr := p.arg
                                 moved := 0, mset := m } } : State).deferHead w 2 ra

/-- R337: the words of a range of HBM with one failed symbol are corrected, counted for their channels, and whole again. -/
def State.scrub (s : State) (lo n : Nat) : State :=
  let hit (f : Nat) : Bool := decide (lo ≤ 32 * f) && decide (32 * f < lo + n)
  let s := (s.flaws.filter hit).foldl State.countFlaw s
  { s with flaws := s.flaws.filter fun f => !hit f }

/-- A piece of 4 KiB with its owner entry moved to another place. -/
def State.movePiece (s : State) (old new : Nat) : State :=
  let s := (s.scrub old 4096).copyBytes old new 4096
  let s : State := { s with flaws := s.flaws.filter fun f => decide (32 * f < new) || decide (new + 4096 ≤ 32 * f) }
  let s := (s.setWord (ownKey new 0) (s.word (ownKey old 0))).setWord (ownKey new 1) (s.word (ownKey old 1))
  (s.setWord (ownKey old 0) 0).setWord (ownKey old 1) 0

/-- R310: the page's granules, owner entries and leaves move to the new frame, and the held requests go on. -/
def State.finishMigrate (s : State) (p : PageOp) : State :=
  let s := (List.range (p.size / 65536)).foldl (fun s i =>
    match s.leafOf p.ctx (p.va + 65536 * i) with
    | none => s
    | some k =>
      let l := s.word k
      let new := p.newAddr + i * s.addrStep 0 p.mset
      let s := ((s.pieces p.mset (l.toNat % 2 ^ 40)).zip (s.pieces p.mset new)).foldl (fun s q => s.movePiece q.1 q.2) s
      s.setWord k ((l &&& 0xFFFFFF0000000000#64) ||| BitVec.ofNat 64 (new % 2 ^ 40))) s
  let s := (s.dropTrans p.ctx p.va p.size).pageStatus p.ra 0
  { s with pageOp := none, asyncs := s.asyncs.map fun o => if o.uid = p.uid then { o with kind := 0 } else o }

/-- R331, R339: a migration slot: 64 KiB move on each stack of the set, once; after the last the page stands in its new frame. -/
def State.migrationStep (s : State) : State :=
  match s.pageOp with
  | none => s
  | some p =>
    if s.slotDone 32 ≠ 0 then s
    else
    let s := s.noteSlot 32 1
    let p := { p with moved := p.moved + 2 ^ s.msetLog p.mset }
    if p.size / 65536 ≤ p.moved then s.finishMigrate p else { s with pageOp := some p }

/-- UNMAP at its point (R311): what the caches hold dirty goes to its frames under the old translation, whatever rights a page has
left. -/
def State.performUnmap (s : State) (w ra : Nat) : State :=
  let p := s.pageDesc ra
  let vas := (List.range (p.arg / 65536)).map fun i => p.va + 65536 * i
  let leaves := vas.filterMap fun va => match s.leafOf p.ctx va with
    | some k => if (s.word k).getLsbD 63 then some k else none
    | none => none
  if leaves.isEmpty then (s.pageStatus ra 2).deferHead w 0 0
  else
    let pick (t : Nat) : Bool := decide (t < 2 ^ 100) && tagSpace t == (if p.g then 64 else p.ctx) &&
      decide (p.va ≤ tagVa t) && decide (tagVa t < p.va + p.arg)
    let slices := (vas.filterMap fun va => (s.cover p.ctx va).map fun c => slicesOf (s.placement c.1 c.2.attr)).eraseDups.flatMap id
    let ts := max (s.wave w).pts (max (s.maxTime pick) (s.baseTime slices) + 1)
    let s := (s.lines.filter fun e => pick e.1).foldl (fun s e => match s.writeOut e.1 false with
      | .ok s => s
      | .error _ => s) s
    let s := s.killLines pick
    let s := leaves.foldl (fun s k => s.setWord k (s.word k &&& 0x7FFFFFFFFFFFFFFF#64)) s
    let s := (s.dropTrans p.ctx p.va p.arg).pageStatus ra 0
    (s.modWave w fun y => { y with pts := ts }).deferHead w 0 0

/-! ### The drop-list sweep (R216, R336) -/

/-- R216: entries that no slice holds any more retire: their granules are released and an identifier may be free. -/
def State.retireDrops (s : State) : State :=
  let done := s.drops.filter fun e => e.left.isEmpty
  let s := { s with drops := s.drops.filter fun e => !e.left.isEmpty }
  done.foldl (fun s e => ((s.clearBacked e.win e.gen).freeArena e.win).finishTasks) s

/-- Does a drop-list entry name the arena and generation of a tag? -/
def Drop.names (e : Drop) (k : Nat) : Bool := decide (k < 2 ^ 100) && e.win == tagSpace k * 4096 + tagId k && e.gen == tagGen k

/-- R331: the next 1,024 keys of a sweep, in ascending order from its cursor, and where it goes on: from the start again, once it has
seen every key. -/
def State.sweepKeys (s : State) (unit : Nat) (ks : List Nat) : State × List Nat :=
  let rest := ks.filter fun k => decide (dget 0 s.cursors unit ≤ k)
  ({ s with cursors := dset 0 s.cursors unit ((rest.drop 1024).headD 0) }, rest.take 1024)

/-- R216, R331: an L2 slice looks at 1,024 of its lines for the entries of its drop list, and retires those whose whole lap has ended
(R277) and that name none of its lines any more. -/
def State.sweepSlice (s : State) (slice : Nat) : State :=
  if s.slotDone (64 + slice) ≠ 0 then s
  else
  let s := s.noteSlot (64 + slice) 1024
  let es := s.drops.filter fun e => e.left.contains slice
  let (s, ks) := s.sweepKeys (64 + slice) ((s.lines.filter fun l => l.2.slice == slice).map (·.1))
  let s := (ks.filter fun k => es.any (·.names k)).foldl (fun s k => (s.dropLine k).dropCopies k) s
  let ripe := es.filter fun e => s.dropRipe e && !(s.lines.any fun l => l.2.slice == slice && e.names l.1)
  ({ s with drops := s.drops.map fun e => if ripe.contains e then { e with left := e.left.filter (· != slice) } else e } : State).retireDrops

/-- R216, R331: an L1 slice looks at 1,024 of its lines: copies that an entry of a drop list names go. -/
def State.sweepL1 (s : State) (cluster : Nat) : State :=
  if s.slotDone (192 + cluster) ≠ 0 then s
  else
  let s := s.noteSlot (192 + cluster) 1024
  let (s, ks) := s.sweepKeys (192 + cluster) ((s.l1.filter fun e => e.1 / 2 ^ 80 == cluster).map (·.1))
  { s with l1 := s.l1.filter fun e => !(ks.contains e.1 && s.drops.any (·.names (e.1 % 2 ^ 80))) }

/-- The bytes of a stack: what programs hold, and the reserved share (R297). -/
def stackBytes : Nat := 64000000000

/-- R336: a memory base die reads the next 64 KiB of its stack and rewrites every corrected word, once in a scrub slot. -/
def State.patrol (s : State) (stack : Nat) : State :=
  if s.slotDone (16 + stack) ≠ 0 then s
  else
  let s := s.noteSlot (16 + stack) 65536
  let at_ := dget 0 s.cursors (16 + stack)
  { s.scrub (stack * 2 ^ 36 + at_) 65536 with
    cursors := dset 0 s.cursors (16 + stack) (if stackBytes ≤ at_ + 65536 then 0 else at_ + 65536) }

/-- R331, R336: what a scrub slot gives to one unit: an L2 slice, an L1 slice (128 and its cluster), or a memory base die (176 and its
stack). -/
def State.scrubUnit (s : State) (u : Nat) : State :=
  if u < 128 then s.sweepSlice u else if u < 176 then s.sweepL1 (u - 128) else if u < 192 then s.patrol (u - 176) else s

/-! ### Telemetry and spares (R338) -/

/-- The RA of a stack's telemetry page. -/
def telemetryRa (stack : Nat) : Nat := stack * 2 ^ 36 + 63000000000

/-- Spares left of a kind (1 core, 2 L2 slice, 3 SerDes lane, 4 HBM row, 5 HBM channel) at a place (R4). -/
def State.sparesLeft (s : State) (kind i : Nat) : Nat :=
  (match kind with
    | 1 => 1 | 2 => 2 | 3 => 2 | _ => Config.spareCount kind i) - dget 0 s.spares (kind * 64 + i)
/-- One spare taken. -/
def State.takeSpare (s : State) (kind i : Nat) : State :=
  { s with spares := dset 0 s.spares (kind * 64 + i) (dget 0 s.spares (kind * 64 + i) + 1) }

/-- A spare request answered: GO clears and the status is written. -/
def State.spareStatus (s : State) (stack code : Nat) : State :=
  let k := raKey (telemetryRa stack)
  (s.setWord (k + 0x200) (s.word (k + 0x200) &&& 0x7FFFFFFFFFFFFFFF#64)).setWord (k + 0x208) (BitVec.ofNat 64 (2 ^ 63 + code))

/-- Does an engine command use a lane group? -/
def State.groupBusy (s : State) (g : Nat) : Bool :=
  s.cmds.any fun c => !c.2.finished && (match c.2.op with
    | .net .. => match s.epOf c.2.b0 with
      | some e => e.group == g
      | none => false
    | .coll .. => match s.commOf c.2.b0 with
      | some m => ((kget s.eps m.next).map (·.group)) == some g || ((kget s.eps m.prev).map (·.group)) == some g
      | none => false
    | _ => false)

/-- R338: hardware acts on a spare request; a slice's lines move as in a placement change (R305). -/
def State.spareRequest (s : State) (stack : Nat) : State :=
  let q := s.word (raKey (telemetryRa stack) + 0x200)
  let unit := (q.extractLsb' 8 8).toNat
  let take (s : State) (kind i : Nat) : State :=
    if s.sparesLeft kind i = 0 then s.spareStatus stack 2 else (s.takeSpare kind i).spareStatus stack 0
  if q.getLsbD 63 = false then s
  else match (q.extractLsb' 56 4).toNat with
    | 1 =>
      if 12 ≤ unit then s.spareStatus stack 3
      else if !(s.blocksOn (12 * stack + unit)).isEmpty then s.spareStatus stack 1
      else take s 1 stack
    | 2 =>
      if 8 ≤ unit then s.spareStatus stack 3
      else if s.sparesLeft 2 (stack / 4) = 0 then s.spareStatus stack 2
      else
        let mine := s.lines.filter fun e => e.2.slice == 8 * stack + unit
        let ts := mine.foldl (fun t e => max t e.2.lastTime) (dget 0 s.sliceBase (8 * stack + unit)) + 1
        let s := mine.foldl (fun s e => match s.leaveSlice e.1 with
          | .ok s => s
          | .error _ => s) s
        take (s.rebase (8 * stack + unit) ts) 2 (stack / 4)
    | 3 =>
      if stack ≠ 0 ∨ 32 ≤ unit then s.spareStatus stack 3
      else if s.groups.contains (unit / 4) then s
      else if s.groupBusy (unit / 4) then s.spareStatus stack 1
      else if s.sparesLeft 3 0 = 0 then s.spareStatus stack 2
      else ({ s with groups := s.groups ++ [unit / 4] } : State).takeSpare 3 0
    | 4 => take s 4 stack
    | 5 => if 32 ≤ unit then s.spareStatus stack 3 else take s 5 stack
    | _ => s.spareStatus stack 3

/-- Words of the counts of errors of a stack, from a place (R337): channels 0 to 31, what could not be corrected, the L2 slices. -/
def State.errWords (s : State) (stack at_ n : Nat) : List (BitVec 64) :=
  (List.range n).map fun i => BitVec.ofNat 64 (dget 0 s.errs (stack * 64 + at_ + i))

/-- R338: a stack's telemetry page is updated, and its request acted on, once in a telemetry slot. -/
def State.telemetryStep (s : State) (stack : Nat) : State :=
  if s.slotDone (240 + stack) ≠ 0 then s
  else
  let s := s.noteSlot (240 + stack) 1
  let k := raKey (telemetryRa stack)
  let s := s.setWord k (BitVec.ofNat 64 s.lap)
  let s := (s.setWords (k + 0x008) (s.errWords stack 0 33)).setWords (k + 0x118) (s.errWords stack 33 8)
  let s := s.setWord (k + 0x110) (BitVec.ofNat 64 (s.sparesLeft 4 stack % 2 ^ 32 + s.sparesLeft 5 stack % 256 * 2 ^ 32))
  let s := (List.range 12).foldl (fun s i =>
    s.setWord (k + 0x158 + 8 * i) ((Config.wear s.free (12 * stack + i)).setWidth 64)) s
  let s := s.setWord (k + 0x1B8) (BitVec.ofNat 64 (s.sparesLeft 1 stack % 2 + s.sparesLeft 2 (stack / 4) % 4 * 256 +
    (if stack = 0 then s.sparesLeft 3 0 % 4 * 65536 else 0)))
  ({ s with free := s.free + 1 } : State).spareRequest stack

/-- R338: a lane group has retrained: its request is answered and its commands go on. -/
def State.groupRetrained (s : State) (g : Nat) : State :=
  if s.groups.contains g then ({ s with groups := s.groups.filter (· != g) } : State).spareStatus 0 0 else s

end Sys2Proof.Machine
end

