-- ==== Sys2Proof/Machine/Host.lean ====
section
/-! DEFINITION. The host side (chapter 19): CXL.mem windows (R285), launch queues and their packets (R286 to R290),
BAR0 (R291), the DOE mailbox (R284, R296), snoops (R322, R323), peers (R173, R241) and resets (R320). -/
namespace Sys2Proof.Machine

/-! ### Host windows (R285) -/

/-- The VA and context that a host physical address names, through the lowest window that holds it. -/
def State.hostWindow (s : State) (h : Nat) : Option (Nat × Nat) :=
  (List.range 16).findSome? fun n =>
    let a := s.sysReg 0x0010 n
    let b := s.sysReg 0x0011 n
    let hpa := a.toNat / 65536 * 65536
    let lg := (b.extractLsb' 52 6).toNat
    let base := b.toNat % 2 ^ 40 * 65536
    if a.getLsbD 0 ∧ 16 ≤ lg ∧ lg ≤ 42 ∧ hpa % 2 ^ lg = 0 ∧ base % 2 ^ lg = 0 ∧ hpa ≤ h ∧ h < hpa + 2 ^ lg then
      some ((b.extractLsb' 58 6).toNat, base + (h - hpa))
    else none

/-- The bridge and peers as agents: no core. -/
def outsideWho (ctx : Nat) : Who := { ctx := ctx, core := 255, super := false }

/-- R285: a refused request: the first is kept in HERR, and vector 0 is raised. -/
def State.hostRefused (s : State) (va : Nat) (wr : Bool) : State :=
  let s := if (s.sysReg 0x0018 0).getLsbD 63 then s
    else s.setSys 0x0018 0 (BitVec.ofNat 64 (2 ^ 63 + (if wr then 2 ^ 62 else 0) + va % 2 ^ 56))
  s.raiseIrq 0

/-- R209, R285: the check of an access from outside the device: R100, and a SYSTEM home. -/
def State.outsideCheck (s : State) (ctx va n align : Nat) (rd wr : Bool) : Option (Nat × Nat) :=
  match s.checkRange (outsideWho ctx) va n align rd wr with
  | .ok (k, g) => match kget s.wins k with
    | some w => if attrHome w.attr = 5 then some (k, g) else none
    | none => none
  | .error _ => none

/-- R323: what the bridge's snoop filter notes of a half of a device line after a host access: after a read the host holds
it shared or exclusively, after a write it may keep it or not; which of these is the host's own business. -/
def State.noteHost (s : State) (key : Nat) (upper wr : Bool) : State :=
  let v := if wr then Config.pick s.free % 3 else 1 + Config.pick s.free % 2
  let h := dget (0, 0) s.hostHalf key
  { s with free := s.free + 1, hostHalf := dset (0, 0) s.hostHalf key (if upper then (h.1, v) else (v, h.2)) }

/-- A range read whole, or written. -/
def plainOp (n : Nat) (wr : Option (List Byte)) : RangeOp := fun s r => match wr with
  | some bs => (s.writeAt (s.locOf r) r.va bs, 0, true)
  | none => (s, ofBytes (s.readAt (s.locOf r) r.va n), false)

/-- R240: an access of the bridge to a range inside one half of a line, read (`wr` none) or written; what its own snoop filter
holds of the line does not stand in its way. -/
def State.bridgeAcc (s : State) (ctx : Nat) (r : Req) (n : Nat) (wr : Option (List Byte)) : Perf :=
  ({ s with hostHalf := kdel s.hostHalf (s.locOf r).key } : State).performRanges (outsideWho ctx) s.bridgePts 4 wr.isNone wr.isSome
    false none [r] (plainOp n wr)

/-- One CXL.mem request: `n` bytes inside one 64-byte link line that the host reads (`wr` none) or writes at a host physical
address (R284, R285, R240). One that passes its check and meets a fault of its page or frame is refused as one that does not (DESIGN
CHOICE, assumption 98). -/
def State.hostAccess (s : State) (h n : Nat) (wr : Option (List Byte)) : State :=
  let poisoned (s : State) : State := if wr.isNone then { s with hostData := s.hostData ++ List.replicate n none } else s
  match s.hostWindow h with
  | none => (poisoned s).hostRefused h wr.isSome
  | some (ctx, va) => match s.outsideCheck ctx va n 1 wr.isNone wr.isSome with
    | none => (poisoned s).hostRefused va wr.isSome
    | some (k, g) =>
      let r : Req := { mkReq 0 0 va n 0 with win := k, gen := g }
      let held := s.hostHalf
      match s.bridgeAcc ctx r n wr with
      | .hold t => { s with asked := t.asked }
      | .push _ _ => s
      | .done s ts out _ none =>
        let s := { s with bridgePts := ts, hostHalf := held }
        let s := if wr.isNone then { s with hostData := s.hostData ++ (toBytes n ((out.map (·.2)).headD 0)).map some } else s
        if (s.locOf r).kind = 0 then s.noteHost (s.locOf r).key (decide (64 ≤ va % 128)) wr.isSome else s
      | .done s _ _ _ (some f) =>
        let s := { s with hostHalf := held }
        if f.code = 17 then poisoned s else (poisoned s).hostRefused va wr.isSome

/-- The bytes of a link line that a request of `n` bytes at an address takes: at least one, at most to the line's end. -/
def linkBytes (h n : Nat) : Nat := max 1 (min n (64 - h % 64))

/-! ### Peers (R173, R241) -/

/-- A peer's request with its operands. -/
inductive PeerReq where
  | read (n : Nat)
  | write (bytes : List Byte)
  | atom (ty : BitVec 4) (op : BitVec 3) (y : BitVec 64)
  | cas (ty : BitVec 4) (expected new : BitVec 128)
  deriving DecidableEq, Repr

/-- The request of a kind with the bytes that it carries. -/
def peerReq (kind : PeerKind) (bs : List Byte) : PeerReq := match kind with
  | .read n => .read n
  | .write => .write bs
  | .atom ty op => .atom ty op (BitVec.ofNat 64 (ofBytes bs))
  | .cas ty => .cas ty (BitVec.ofNat 128 (ofBytes (bs.take (atomBytes ty)))) (BitVec.ofNat 128 (ofBytes (bs.drop (atomBytes ty))))

/-- The bytes of a peer's request. -/
def peerLen : PeerReq → Nat
  | .read n => max 1 n
  | .write bs => max 1 bs.length
  | .atom ty _ _ => atomBytes ty
  | .cas ty _ _ => atomBytes ty
/-- Does it read? -/
def peerReads : PeerReq → Bool
  | .write _ => false
  | _ => true
/-- Does it write? -/
def peerWrites : PeerReq → Bool
  | .read _ => false
  | _ => true
/-- Is it an atomic, of SYSTEM scope? -/
def peerAtomic : PeerReq → Bool
  | .atom .. | .cas .. => true
  | _ => false
/-- What it does at its coherence point. -/
def peerOp (q : PeerReq) : RangeOp := match q with
  | .read _ => plainOp (peerLen q) none
  | .write bs => plainOp (peerLen q) (some bs)
  | .atom ty op _ => atomOp ty.toNat op.toNat
  | .cas .. => casOp
/-- The operands of an atomic, as a range holds them. -/
def peerLoad (q : PeerReq) (r : Req) : Req := match q with
  | .atom _ _ y => { r with dat := y.setWidth 128 }
  | .cas _ e n => { r with dat := e, alt := n }
  | _ => r

/-- A peer's access inside one line of the device, as a SYSTEM-scope access of the endpoint's context, no earlier than the
link's time (R241; the carried time is `pts`); one that fails its check has no effect here. An atomic executes behind its
line's slice (Table 5.6), at the line's own point. -/
def State.peerAccess (s : State) (ep va pts : Nat) (q : PeerReq) : State :=
  match kget s.eps ep with
  | none => s
  | some e =>
    if 128 < va % 128 + peerLen q then s
    else match s.outsideCheck e.pctx va (peerLen q) (if peerAtomic q then peerLen q else 1) (peerReads q) (peerWrites q) with
    | none => s
    | some (k, g) =>
      let r := peerLoad q { mkReq 0 0 va (peerLen q) 0 with win := k, gen := g }
      match s.performRanges (outsideWho e.pctx) (max pts e.time) (if peerAtomic q then 7 else 4) (peerReads q) (peerWrites q) false
          none [r] (peerOp q) with
      | .hold t => { s with asked := t.asked }
      | .push _ _ => s
      | .done s ts out _ none =>
        let s := if peerAtomic q then s.scopeEffect (outsideWho e.pctx) 5 (s.locsOf (out.map (·.1))) else s
        let s := s.noteLink ep ts
        if peerReads q then { s with hostData := s.hostData ++ (toBytes (peerLen q) ((out.map (·.2)).headD 0)).map some } else s
      | .done s _ _ _ (some _) => s

/-! ### Snoops (R240, R322, R323) -/

/-- An M half of a line that lies at a key of host memory written there, with its poison (R337). -/
def State.spillHalf (s : State) (k : Nat) (x : Line) (upper : Bool) : State :=
  let h := if upper then 8 else 0
  let ws := (List.range 8).map (h + ·)
  let s := s.setBytes (k + 8 * h) ((x.data.drop (8 * h)).take 64)
  { s with poison := (s.poison.filter fun p => !ws.contains (p - k / 8)) ++ (x.poison.filter ws.contains).map (k / 8 + ·) }

/-- The M halves of a HOST line written to host memory. -/
def State.spillHalves (s : State) (key : Nat) : State :=
  match kget s.lines key, s.winOfTag key with
  | some x, some (_, w) =>
    match s.translate (s.stackOf (attrMset w.attr) (tagVa key)) (tagCtx key) (attrMset w.attr) (tagVa key) true false with
    | .error _ => s
    | .ok (s, e) =>
      let k := s.transKey e (attrMset w.attr) (tagVa key)
      let s := if x.halves.1 = 3 then s.spillHalf k x false else s
      if x.halves.2 = 3 then s.spillHalf k x true else s
  | _, _ => s

/-- Is a key the tag of a line of a HOST arena? -/
def State.hostTag (s : State) (key : Nat) : Bool := decide (key < 2 ^ 100) && (match s.winOfTag key with
  | some (_, w) => attrKind w.attr == 1
  | none => false)

/-- R246: does a merge hold every access to a tag's line? -/
def State.mergeTag (s : State) (key : Nat) : Bool := match s.winOfTag key with
  | some (k, _) => s.mergeHolds k (tagVa key)
  | none => false

/-- The slice that is the home of a tag's line. -/
def State.tagHome (s : State) (key : Nat) : Nat := match s.winOfTag key with
  | some (k, w) => sliceOf (s.placement k w.attr) (tagVa key)
  | none => 0

/-- Is a key that of a HOST line which the device holds? -/
def State.hostLine (s : State) (key : Nat) : Bool :=
  match kget s.lines key, s.winOfTag key with
  | some x, some (_, w) => attrKind w.attr == 1 && x.halves != (0, 0)
  | _, _ => false

/-- The point of a snoop at a slice (R240). -/
def State.snoopPoint (s : State) (key : Nat) (wr : Bool) : State × Nat :=
  match kget s.lines key with
  | some x =>
    let ts := if wr then max s.bridgePts (x.rts + 1) else max s.bridgePts x.wts
    ({ s with bridgePts := ts }, ts)
  | none =>
    let b := dget 0 s.sliceBase (s.tagHome key)
    let ts := if wr then max s.bridgePts (b + 1) else max s.bridgePts b
    ({ s with bridgePts := ts }, ts)

/-- SnpData: M halves give their data; owned halves become S. It waits for a merge of the line (R246). -/
def State.snoopData (s : State) (key : Nat) : State :=
  if s.hostLine key && !s.mergeTag key then
    let (s, ts) := (s.spillHalves key).snoopPoint key false
    match kget s.lines key, s.winOfTag key with
    | some x, some (k, _) =>
      ({ s with lines := kmod s.lines key fun x => { x with dirty := false, halves := (1, 1) } } : State).setTimes
        { kind := 1, key := key, wk := k, va := tagVa key } x.wts (max x.rts ts)
    | _, _ => s
  else s

/-- Does an L1 slice hold a copy of a HOST line that no L2 slice holds? -/
def State.hostCopy (s : State) (key : Nat) : Bool :=
  s.hostTag key && (kget s.lines key).isNone && s.l1.any fun e => e.1 % 2 ^ 80 == key

/-- SnpInv: M halves give their data; both halves become I, and L1 copies serve until their leases end, also where no slice holds the
line any more. It waits for a merge of the line (R246). -/
def State.snoopInv (s : State) (key : Nat) : State :=
  if (s.hostLine key || s.hostCopy key) && !s.mergeTag key then
    let (s, ts) := (s.spillHalves key).snoopPoint key true
    let s := s.fireWatches key
    match kget s.lines key with
    | some x => ({ s with lines := kdel s.lines key } : State).rebase x.slice ts
    | none => s.rebase (s.tagHome key) ts
  else s

/-- SnpCur: the data as it stands, poison as such (R337); nothing changes. It waits for a merge of the line (R246). -/
def State.snoopCur (s : State) (key : Nat) : State :=
  if s.hostLine key && !s.mergeTag key then
    match kget s.lines key with
    | some x => { s with hostData := s.hostData ++ x.data.zipIdx.map fun b => if x.poison.contains (b.2 / 8) then none else some b.1 }
    | none => s
  else s

/-- The lines that the device names: those of slices and L1s, and those under watch. -/
def State.namedTags (s : State) : List Nat :=
  let watched := s.waves.flatMap fun (e : Nat × Wave) => (e.2.watches.filter fun (t : Nat × Watch) => t.2.armed).map fun t => t.2.line
  (s.lines.map Prod.fst ++ (s.l1.map Prod.fst).map (· % 2 ^ 80) ++ watched).eraseDups

/-- Does a byte of host or peer memory lie in a tag's line? -/
def State.tagBehind (s : State) (k key : Nat) : Bool := decide (key < 2 ^ 100) && (match s.winOfTag key with
  | none => false
  | some (_, w) => match s.translate (s.stackOf (attrMset w.attr) (tagVa key)) (tagCtx key) (attrMset w.attr) (tagVa key) false false with
    | .ok (s, e) => let b := s.transKey e (attrMset w.attr) (tagVa key); e.tgt != 0 && decide (b ≤ k) && decide (k < b + 128)
    | .error _ => false)

/-- The outside writes a byte of memory that is not the device's: a host store snoops the lines that hold it (R240), a store of the
host or of a peer fires the watches on them (R129), and waits for a merge of one (R246). -/
def State.outsideWrite (s : State) (k : Nat) (b : Byte) : State :=
  let tags := s.namedTags.filter (s.tagBehind k)
  if k < 2 ^ 64 ∨ tags.any s.mergeTag then s
  else (tags.foldl (fun s t => (s.snoopInv t).fireWatches t) s).setByte k b

/-- R323: modified data of a half of a device line, which the host held in E/M, written into the line as an access of the
bridge (R240); `error` while the line cannot take it. A generation that has ended takes nothing (R216). -/
def State.hostModified (s : State) (key : Nat) (upper : Bool) (bs : List Byte) : Except State State :=
  match s.winOfTag key with
  | none => .ok s
  | some (k, _) =>
    if bs.isEmpty || s.deadTag key then .ok s
    else
      let r : Req := { mkReq 0 0 (tagVa key + (if upper then 64 else 0)) bs.length 0 with win := k, gen := tagGen key }
      match s.bridgeAcc (winCtx k) r bs.length (some bs) with
      | .hold t => .error { s with asked := t.asked }
      | .push _ _ => .error s
      | .done t ts _ _ none => .ok { t with bridgePts := ts, hostHalf := s.hostHalf }
      | .done t _ _ _ (some _) => .ok { t with hostHalf := s.hostHalf }

/-- R323: the host acknowledges a back-invalidate snoop; modified data of the halves it held is written into the line, and
it holds them shared, or after BISnpInv not at all. -/
def State.snoopAck (s : State) (key : Nat) (data : List Byte) : State :=
  if s.hostAck.any fun q => q / 2 == key then
    let h := dget (0, 0) s.hostHalf key
    let put (s : State) (own : Nat) (upper : Bool) (bs : List Byte) : Except State State :=
      if own = 2 then s.hostModified key upper bs else .ok s
    match (put s h.1 false (data.take 64)).bind fun s => put s h.2 true ((data.drop 64).take 64) with
    | .error t => { s with asked := t.asked }
    | .ok t =>
      let inv := s.hostAck.contains (2 * key + 1)
      { t with
        hostAck := t.hostAck.filter fun q => q / 2 != key
        hostHalf := dset (0, 0) t.hostHalf key (if inv then (0, 0) else (min h.1 1, min h.2 1)) }
  else s

/-! ### Launch queues (R286 to R290) -/

/-- A packet (Table 19.3) with what follows its header, the time of its last read, and the time of the tail line's store
(R227). -/
structure Packet where
  w0 : BitVec 64
  arg : BitVec 64
  payload : List Byte
  ts : Nat
  tail : Nat

/-- TYPE. -/
def Packet.type (p : Packet) : Nat := (p.w0.extractLsb' 56 8).toNat
/-- Slots of the packet. -/
def Packet.slots (p : Packet) : Nat := (p.w0.extractLsb' 52 4).toNat + 1
/-- CTX. -/
def Packet.ctx (p : Packet) : Nat := (p.w0.extractLsb' 36 6).toNat
/-- 64-bit word `i` of the payload. -/
def Packet.word (p : Packet) (i : Nat) : BitVec 64 := BitVec.ofNat 64 (ofBytes ((p.payload.drop (8 * i)).take 8))
/-- A field of a payload word. -/
def Packet.field (p : Packet) (i lo width : Nat) : Nat := ((p.word i).extractLsb' lo width).toNat

/-- The agent that serves a queue. -/
def Queue.who (q : Queue) : Who := { ctx := q.owner, core := 192 + q.ccore, super := true }

/-- Payload bytes that a type needs, beyond what its own rule asks. -/
def payloadNeed : Nat → Nat
  | 2 => 64 | 4 => 16 | 5 => 16 | 7 => 40 | _ => 0

/-- What acting on a packet gives: STATUS, REASON, VALUE; a full bin, for which the queue is left (R289); or a read that has
to wait. -/
inductive Acted where
  | done (s : State) (status reason value : Nat)
  | full
  | wait (s : State)

/-- An effect of a packet type. -/
abbrev PacketAct := State → Queue → Packet → Acted

/-- R287: the checks that hold for every type: BADPKT (2), then NOCTX (3). -/
def State.packetBad (s : State) (q : Queue) (p : Packet) : Option Nat :=
  if 8 < p.type ∨ 9 < p.slots ∨ p.w0.extractLsb' 42 9 ≠ 0 ∨ p.w0.extractLsb' 32 4 ≠ 0 ∨
      ((p.type = 0 ∨ p.type = 2 ∨ p.type = 7) ∧ p.arg ≠ 0) ∨ 128 * p.slots - 16 < payloadNeed p.type ∨
      q.slots < q.head % q.slots + p.slots then some 2
  else if p.ctx ≠ q.owner ∨ (s.sysReg 0x0101 p.ctx).getLsbD 63 = false then some 3
  else none

/-- R289: the queue goes into ERROR. -/
def State.queueError (s : State) (qn : Nat) (q : Queue) : State :=
  ({ s with queues := kset s.queues qn { q with error := true, held := false } } : State).raiseIrq 0

/-- The queue of a number changed. -/
def State.modQueue (s : State) (qn : Nat) (g : Queue → Queue) : State := { s with queues := kmod s.queues qn g }

/-- R289: after a packet's act: its completion entry, then HEAD, then its vector. A write that has to wait leaves the rest for
later. -/
def State.postPacket (s : State) (qn : Nat) (q : Queue) (p : Posting) : State :=
  let k := q.entries
  let entry := if p.entryDone then AgentAcc.ok s p.ts []
    else s.agentWrite q.who p.ts (q.cq + 16 * (k % q.slots)) 8
      (toBytes 8 (p.w0 + (k / q.slots + 1) % 2 * 2 ^ 32) ++ toBytes 8 p.value)
  match entry with
  | .wait s => s
  | .bad s _ => s
  | .ok s ts _ =>
    let head := q.headCount + p.slots
    match s.agentWrite q.who ts q.head 8 (toBytes 8 head ++ toBytes 8 (k + 1)) with
    | .wait s => s.modQueue qn fun q => { q with post := some { p with ts := ts, entryDone := true } }
    | .bad s _ => s.modQueue qn fun q => { q with post := some { p with ts := ts, entryDone := true } }
    | .ok s ts _ =>
      let s := s.modWave q.ccore fun x => { x with pts := max x.pts ts }
      let s := s.modQueue qn fun q => { q with headCount := head, entries := k + 1, held := false, post := none }
      if p.irq ∧ q.vec ≠ 0 then s.raiseIrq q.vec else s

/-- R287: a packet has been acted on: what is to be posted for it is noted, and posted. -/
def State.packetDone (s : State) (qn : Nat) (q : Queue) (p : Packet) (status reason value : Nat) : State :=
  let post : Posting :=
    { type := p.type, w0 := status * 2 ^ 56 + reason * 2 ^ 48 + p.ctx * 2 ^ 36 + p.w0.toNat % 2 ^ 32, value := value
      slots := p.slots, irq := p.w0.getLsbD 51, ts := p.ts, entryDone := false }
  (s.modQueue qn fun q => { q with post := some post, held := false }).postPacket qn q post

/-- The time of the last store to the line of an address (R227). -/
def State.storeTime (s : State) (ctx va : Nat) : Nat := match s.cover ctx va with
  | some (k, w) => (s.times (s.locOf { mkReq 0 0 va 1 0 with win := k, gen := w.gen })).1
  | none => 0

/-- The tail line's count; where its 8 bytes cross a line, byte by byte (Table 19.5 gives TAIL no alignment: DESIGN CHOICE,
assumption 100). -/
def State.readTail (s : State) (a : Who) (pts va : Nat) : AgentAcc :=
  if 120 < va % 128 then s.agentRead a pts va 1 8 else s.agentRead a pts va 8 1

/-- R289, R290: the packet that stands first in a queue, with the state after reading it, once a tail store that covers it has
been observed; else the state as it stands: the queue is empty or goes into ERROR, or a read has to wait. -/
def State.headPacket (s : State) (qn : Nat) (q : Queue) : Except State (State × Packet) :=
  match s.readTail q.who (s.wave q.ccore).pts q.tail with
  | .wait s => .error s
  | .bad s _ => .error s
  | .ok s ts bs =>
    let t := ofBytes bs
    if t < q.headCount ∨ q.headCount + q.slots < t then .error (s.queueError qn q)
    else if t = q.headCount then .error s
    else
      let tail := s.storeTime q.owner q.tail
      let at_ := q.ring + 128 * (q.headCount % q.slots)
      match s.agentRead q.who ts at_ 8 2 with
      | .wait s => .error s
      | .bad s _ => .error s
      | .ok s ts hs =>
        let w0 := BitVec.ofNat 64 (ofBytes (hs.take 8))
        let n := (w0.extractLsb' 52 4).toNat + 1
        let room := min n (q.slots - q.headCount % q.slots)
        if t < q.headCount + n then .error s
        else match s.agentRead q.who ts (at_ + 16) 8 (16 * room - 2) with
          | .wait s => .error s
          | .bad s _ => .error s
          | .ok s ts bs =>
            .ok (s, { w0 := w0, arg := BitVec.ofNat 64 (ofBytes (hs.drop 8)), payload := bs, ts := ts, tail := tail })

/-- R289, R295: may the control core of a queue serve it: does it run at all? -/
def State.serves (s : State) (q : Queue) : Bool := !(s.ctlRegs q.ccore).stopped && !s.thermStop && !s.bootFailed

/-- R289: the serving control core acts on the packet first in a queue, when its type is one of `mine`; or goes on with what it
has still to write for the last one. -/
def State.servePacket (s : State) (qn : Nat) (mine : Nat → Bool) (act : PacketAct) : State :=
  match kget s.queues qn with
  | none => s
  | some q =>
    if s.serves q = false then s
    else match q.post with
      | some p => if mine p.type then s.postPacket qn q p else s
      | none =>
        if q.error then s
        else match s.headPacket qn q with
          | .error s => s
          | .ok (t, p) =>
            if mine p.type = false then s
            else match t.packetBad { q with head := q.headCount } p with
              | some c => t.packetDone qn q p c 0 0
              | none => match act t q p with
                | .done t status reason value => t.packetDone qn q p status reason value
                | .full => t.modQueue qn fun q => { q with held := true }
                | .wait t => t

/-- NOP, and every unknown TYPE, which is BADPKT. -/
def actNop : PacketAct := fun s _ _ => .done s 0 0 0

/-- RECORD (R252, R289). -/
def actRecord : PacketAct := fun s _ p =>
  match s.nodeOf p.ctx p.arg with
  | none => .done s 4 0 0
  | some n =>
    if 128 * p.slots - 16 < n.recSize then .done s 2 0 0
    else if n.binCap ≤ n.occupancy then .full
    else .done (s.binRecord p.arg.toNat (p.payload.take n.recSize) p.tail none) 0 0 n.nextSeq

/-- Roles with a code among the first `n` waves. -/
def roleCount (roles n code : Nat) : Nat := ((List.range n).filter fun i => roles / 4 ^ i % 4 == code).length

/-- R250, Table 12.2: the lowest reason that refuses a definition, or 0. `cores` are CORES narrowed to the partition. -/
def State.nodeReason (s : State) (ctx : Nat) (n : Node) (cores : List Nat) : Nat :=
  let nw := n.field 1 32 5
  let roles := n.field 1 0 32
  let high := n.field 7 0 16
  let low := n.field 7 16 16
  let minc := n.field 7 32 8
  let sealedEntry := match s.cover ctx n.entry with
    | some (_, w) => w.state == .sealed
    | none => false
  (firstReason [(decide (49152 < n.field 3 0 32), 1), (decide (nw = 0 ∨ 16 < nw), 2), (decide (4 < n.arrays), 3),
    (decide (1 < roleCount roles nw 1), 4),
    (decide (0 < roleCount roles 16 3 ∨ roles / 4 ^ nw ≠ 0 ∨ n.arrays < roleCount roles nw 2), 5),
    (decide (32 < n.hurdles), 6), (decide (n.recSize < 8 ∨ 1024 < n.recSize ∨ n.recSize % 8 ≠ 0), 7),
    (decide (n.entry % 12 ≠ 0) || !sealedEntry, 8), (cores.isEmpty || n.binCap == 0, 9),
    (if n.pgroup ≠ 0 then decide (high ≤ low ∨ minc = 0 ∨ cores.length < minc) else decide (high ≠ 0 ∨ low ≠ 0 ∨ minc ≠ 0), 10),
    ((kget s.nodes n.number).isSome, 11),
    (decide (n.field 0 56 8 ≠ 0 ∨ n.field 1 46 18 ≠ 0 ∨ n.field 2 25 7 ≠ 0 ∨ n.field 3 58 6 ≠ 0 ∨ n.field 7 44 20 ≠ 0), 12)]).getD 0

/-- R319: the cores of a context's partition. -/
def State.partCores (s : State) (ctx : Nat) : List Nat :=
  let p := ((s.sysReg 0x0205 ctx).extractLsb' 32 4).toNat
  (List.range 192).filter fun n => (s.sysReg 0x0206 (16 * p + n / 64)).getLsbD (n % 64)

/-- NODEDEF (R250, R288): the definition is kept with its CORES narrowed to the context's partition (R319). -/
def actNodeDef : PacketAct := fun s _ p =>
  let part := 16 * ((s.sysReg 0x0205 p.ctx).extractLsb' 32 4).toNat
  let n : Node := { words := (List.range 8).map fun i => if 4 ≤ i ∧ i < 7 then p.word i &&& s.sysReg 0x0206 (part + (i - 4)) else p.word i
                    ctx := p.ctx, cores := [], nextSeq := 0, bin := [], lastCore := none
                    lastUc := none, expired := false }
  let cores := (s.partCores p.ctx).filter fun c => (p.word (4 + c / 64)).getLsbD (c % 64)
  let reason := s.nodeReason p.ctx n cores
  if reason ≠ 0 then .done s 1 reason 0
  else
    let mine := if n.pgroup = 0 then cores
      else cores.filter fun c => !(s.nodes.any fun e => e.2.pgroup == n.pgroup && e.2.cores.contains c)
    if n.pgroup ≠ 0 ∧ mine.length < n.field 7 32 8 then .done s 1 14 0
    else .done { s with nodes := kset s.nodes n.number { n with cores := mine } } 0 0 0

/-- NODEDEL (R288; a live task is one of R256). -/
def actNodeDel : PacketAct := fun s _ p =>
  match s.nodeOf p.ctx p.arg with
  | none => .done s 4 0 0
  | some n =>
    if !n.bin.isEmpty || s.tasks.any (fun t => t.2.node == p.arg.toNat && t.2.liveTask) then .done s 1 13 0
    else .done { s with nodes := kdel s.nodes p.arg.toNat } 0 0 0

/-- Is an engine command of a handle in flight? -/
def State.handleBusy (s : State) (coll : Bool) (h : Nat) : Bool :=
  s.cmds.any fun c => !c.2.finished && c.2.b0.toNat == h && (match c.2.op with
    | .coll .. => coll
    | .net .. => !coll
    | _ => false)

/-- COMMDEF (Table 19.6). -/
def actCommDef : PacketAct := fun s _ p =>
  let pn := p.field 0 27 13
  let c : Comm := { next := p.field 0 52 12, prev := p.field 0 40 12, p := pn, rank := p.field 0 15 12, limit := p.field 1 0 32, number := 0 }
  let peer (e : Nat) : Bool := match kget s.eps e with
    | some x => x.kind == 0
    | none => false
  if 4096 ≤ p.arg.toNat ∨ s.handleBusy true p.arg.toNat ∨ p.field 0 0 15 ≠ 0 ∨ p.field 1 32 32 ≠ 0 then .done s 6 0 0
  else if pn = 0 then .done { s with comms := kdel s.comms p.arg.toNat } 0 0 0
  else if pn < 2 ∨ 4096 < pn ∨ pn ≤ c.rank ∨ peer c.next = false ∨ peer c.prev = false then .done s 6 0 0
  else .done { s with comms := kset s.comms p.arg.toNat c } 0 0 0

/-- EPDEF (Table 19.6); a namespace of another block size than 512 or 4,096 bytes is refused (R286). -/
def actEpDef : PacketAct := fun s _ p =>
  let kind := p.field 0 62 2
  let e : Endpoint := { kind := kind, group := p.field 0 56 3, dev := p.field 0 0 32, pctx := p.field 1 58 6, port := p.field 1 32 16
                        limit := p.field 1 0 32, addr := if kind = 1 then (p.payload.drop 16).take 16 else []
                        nqn := if kind = 1 then (p.payload.drop 32).take 256 else []
                        time := ((kget s.eps p.arg.toNat).map (·.time)).getD 0 }
  if kind = 1 ∧ 128 * p.slots - 16 < 288 then .done s 2 0 0
  else if 4096 ≤ p.arg.toNat ∨ 2 ≤ kind ∨ s.handleBusy false p.arg.toNat ∨ p.field 0 59 3 ≠ 0 ∨ p.field 0 32 24 ≠ 0 ∨
      p.field 1 48 10 ≠ 0 ∨ (kind = 0 ∧ e.port ≠ 0) ∨ (kind = 1 ∧ e.pctx ≠ 0) ∨
      (kind = 1 ∧ blockSize p.arg.toNat ≠ 512 ∧ blockSize p.arg.toNat ≠ 4096) then .done s 6 0 0
  else .done { s with eps := kset s.eps p.arg.toNat e } 0 0 0

/-- VPOOL (R257). -/
def actVpool : PacketAct := fun s _ p =>
  match s.arenaOf p.ctx p.arg with
  | some (k, w) => if w.root ∧ attrKind w.attr = 0 ∧ winGlobal k = false then
      .done { s with pools := kset s.pools p.ctx k } 0 0 0 else .done s 6 0 0
  | none => .done s 6 0 0

/-- Does every granule of a region lie in a SYSTEM-home HBM arena of a context, SYNC where asked (R286)? A GLOBAL arena that the
context's map covers is one of them (DESIGN CHOICE, assumption 99). -/
def State.queueRegion (s : State) (ctx va len : Nat) (sync : Bool) : Bool :=
  decide (va + len ≤ 2 ^ 56) && (List.range ((va % 65536 + len + 65535) / 65536)).all fun i =>
    match s.cover ctx (va + 65536 * i) with
    | some (_, w) => (w.state == .live || w.state == .sealed) && attrKind w.attr == 0 && attrHome w.attr == 5 && (!sync || attrSync w.attr)
    | none => false

/-- QCREATE (Table 19.5); TAIL may be any VA (assumption 100). -/
def actQcreate (qn : Nat) : PacketAct := fun s _ p =>
  let owner := p.field 4 58 6
  let lslot := p.field 4 48 4
  let n := 2 ^ lslot
  let va (i : Nat) : Nat := (p.word i).toNat
  let free := ((List.range 63).map (· + 1)).find? fun i => (kget s.queues i).isNone
  match free with
  | none => .done s 5 0 0
  | some i =>
    if qn ≠ 0 ∨ (List.range 4).any (fun i => decide (2 ^ 56 ≤ va i)) ∨ p.field 4 52 6 ≠ 0 ∨ p.field 4 44 4 ≠ 0 ∨ p.field 4 36 2 ≠ 0 ∨
        p.field 4 0 32 ≠ 0 ∨ lslot < 4 ∨ va 0 % 128 ≠ 0 ∨ va 2 % 128 ≠ 0 ∨ va 3 % 16 ≠ 0 ∨
        s.queueRegion owner (va 0) (128 * n) false = false ∨ s.queueRegion owner (va 1) 8 true = false ∨
        s.queueRegion owner (va 2) 16 false = false ∨ s.queueRegion owner (va 3) (16 * n) false = false then .done s 5 0 0
    else
      let q : Queue := { ring := va 0, tail := va 1, head := va 2, cq := va 3, owner := owner, slots := n, vec := p.field 4 38 6
                         ccore := 4 * p.field 4 34 2 + p.field 4 32 2, headCount := 0, entries := 0, error := false, held := false
                         post := none }
      .done { s with queues := kset s.queues i q } 0 0 i

/-- QDESTROY (R286): an idle queue. -/
def actQdestroy (qn : Nat) : PacketAct := fun s _ p =>
  match kget s.queues p.arg.toNat with
  | none => .done s 5 0 0
  | some q =>
    if qn ≠ 0 ∨ p.arg = 0 then .done s 5 0 0
    else match s.readTail q.who p.ts q.tail with
      | .ok s _ bs => if ofBytes bs ≤ q.headCount then .done { s with queues := kdel s.queues p.arg.toNat } 0 0 0 else .done s 5 0 0
      | .wait s => .wait s
      | .bad s _ => .done s 5 0 0

/-- R291: what the host reads of BAR0. -/
def State.bar0 (s : State) (off : Nat) : BitVec 64 :=
  let q := (kget s.queues 0).getD { ring := 0, tail := 0, head := 0, cq := 0, owner := 0, slots := 0, vec := 0, ccore := 0
                                    headCount := 0, entries := 0, error := false, held := false, post := none }
  match off with
  | 0x000 => 0xC41207
  | 0x008 => s.boot.setWidth 64
  | 0x010 => BitVec.ofNat 64 q.ring
  | 0x018 => BitVec.ofNat 64 q.tail
  | 0x020 => BitVec.ofNat 64 q.head
  | 0x028 => BitVec.ofNat 64 q.cq
  | 0x030 => BitVec.ofNat 64 (q.owner * 2 ^ 58 + Nat.log2 q.slots * 2 ^ 48 + q.vec * 2 ^ 38 + q.ccore * 2 ^ 32)
  | 0x038 => s.sysReg 0x0010 0
  | 0x040 => s.sysReg 0x0011 0
  | _ => 0

/-! ### The DOE mailbox (R284, R296) -/

/-- A reply stands in the mailbox; without the link there is no mailbox. -/
def State.doeReply (s : State) (bs : List Byte) : State := if s.linkUp then { s with doe := bs } else s

/-- An SPDM 1.2 response: version, code, two parameters; and what follows (assumption 11). -/
def spdm (code p1 p2 : Nat) (rest : List Byte) : List Byte := [0x12, BitVec.ofNat 8 code, BitVec.ofNat 8 p1, BitVec.ofNat 8 p2] ++ rest
/-- An SPDM ERROR. -/
def spdmError (e data : Nat) : List Byte := spdm 0x7F e data []
/-- The request codes that the mailbox answers (R296). -/
def spdmCodes : List Nat := [0x81, 0x82, 0x83, 0x84, 0xE0, 0xE1, 0xE3]
/-- VERSION: the one entry 1.2. -/
def spdmVersion : List Byte := [0x10, 0x04, 0, 0, 0, 1, 0x00, 0x12]
/-- CAPABILITIES: certificates, challenges and signed measurements; no key exchange, no sessions. -/
def spdmCapabilities : List Byte := spdm 0x61 0 0 ([0, 0, 0, 0, 0x16, 0, 0, 0] ++ Config.spdmReply 0xE1 0)
/-- ALGORITHMS: RSASSA-PSS 3072 and SHA-256, and no others. -/
def spdmAlgorithms : List Byte :=
  spdm 0x63 0 0 ([36, 0, 1, 0, 2, 0, 0, 0, 8, 0, 0, 0, 1, 0, 0, 0] ++ List.replicate 16 0)
/-- A response about slot 0, the only one that holds a chain; a request for another is an InvalidRequest. -/
def slotReply (slot : Nat) (bs : List Byte) : List Byte := if slot = 0 then bs else spdmError 1 0
/-- MEASUREMENTS: the number of Table 19.10's measurements (index 0), one of them, or all (255), and what signs them. -/
def spdmMeasurements (index : Nat) : List Byte :=
  if index = 0 then spdm 0x60 3 0 ([0, 0, 0, 0] ++ Config.spdmReply 0xE0 index)
  else if 1 ≤ index ∧ index ≤ 3 then spdm 0x60 0 0 (Config.measurement index ++ Config.spdmReply 0xE0 index)
  else if index = 255 then
    spdm 0x60 0 0 (Config.measurement 1 ++ Config.measurement 2 ++ Config.measurement 3 ++ Config.spdmReply 0xE0 index)
  else spdmError 1 0

/-! ### Resets and links (R320) -/

/-- What memory holds after a reset that leaves HBM and the reserved region unspecified: they hold anything, scratchpads
nothing, and memory outside the device keeps its bytes. -/
def State.memAfterReset (s : State) : List Host.Cell :=
  (Config.afterReset s.free).foldl (fun m c => memPut m (raKey c.1) c.2) (s.mem.filter fun c => decide (2 ^ 64 ≤ c.1))

/-- R320: the device starts anew; what the outside holds, and the model's own bookkeeping, go on. Only a power-on reset clears the
counts of errors and frees the spares (R338). -/
def State.restart (s : State) (power : Bool) : State :=
  { State.reset with
    agenda := s.agenda, turn := s.turn, free := s.free + 1, uid := s.uid, mem := s.memAfterReset
    linkUp := s.linkUp, hostData := s.hostData
    spares := if power then [] else s.spares, errs := if power then [] else s.errs }

/-- R320: every HOST line is invalidated, with its L1 copies; its M halves are written back first, or lost. -/
def State.dropHostLines (s : State) (keep : Bool) : State :=
  let ks := (s.lines.filter fun e => s.hostLine e.1).map (·.1)
  let s := if keep then ks.foldl (fun s k => s.spillHalves k) s else s
  s.killLines s.hostTag

end Sys2Proof.Machine
end

