-- ==== Sys2Proof/Machine/Events.lean ====
section
/-! DEFINITION. The events of the opcode table: what an agent other than an issuing wave does in one step. An event
whose condition does not hold changes nothing. -/
namespace Sys2Proof.Machine

/-! ### Pins and write-back at their point (R107, R108) -/

/-- Is a line pinned? -/
def State.isPinned (s : State) (key : Nat) : Bool := match kget s.lines key with
  | some x => x.pinned
  | none => false

/-- PIN: each line is read as a load reads it, and pinned within its slice's limit; d counts the lines now pinned. The slices keep
the lines that it has met until all are pinned. -/
def State.performPin (s : State) (w : Nat) (a : Acc) (d : Reg) : State :=
  let x := s.wave w
  let (s, ms) := s.meetAll x.who 0 x.pts true false [] a.reqs
  if ms.any fun m => m.2 == .wait then s.holdHead w a
  else
    let good := (ms.filter fun m => m.2 == .ok).map (·.1)
    let bad := ms.filterMap fun m => match m.2 with
      | .fault c i => some (m.1, c, i)
      | _ => none
    let s := good.foldl (fun s r => s.pinLine (s.locOf r).key) s
    let got := a.got ++ good.map fun r => (32 * r.idx + r.lane, if s.isPinned (s.locOf r).key then 1#128 else 0#128)
    match faultOf bad with
    | some r => s.faultHead w x.pts a (bad.map (·.1)) got r
    | none =>
      let n := got.foldl (fun n g => n + g.2.toNat) 0
      (s.modWave w fun x => x.landU d (BitVec.ofNat 64 n)).finishHead w x.pts

/-- UNPIN: d counts the lines whose mark is cleared. -/
def State.performUnpin (s : State) (w : Nat) (a : Acc) (d : Reg) : State :=
  let keys := ((a.reqs.map fun r => (s.locOf r).key).eraseDups).filter s.isPinned
  let s := keys.foldl (fun (s : State) k => { s with lines := kmod s.lines k fun x => { x with pinned := false } }) s
  (s.modWave w fun x => x.landU d (BitVec.ofNat 64 keys.length)).finishHead w (s.wave w).pts

/-- The lines of a WBR written back, in order; the first that fails. -/
def State.writeBacks (s : State) : List Req → State × Option (Req × Nat × Nat)
  | [] => (s, none)
  | r :: rs =>
    let l := s.locOf r
    if 3 ≤ l.kind ∨ s.deadTag l.key then s.writeBacks rs
    else match s.writeBack l.key with
      | .ok s => s.writeBacks rs
      | .error (c, i) => (s, some (r, c, i))

/-- WBR: every dirty copy is written to memory and becomes clean. -/
def State.performWbr (s : State) (w : Nat) (a : Acc) : State :=
  let x := s.wave w
  match s.writeBacks a.reqs with
  | (s, none) => s.finishHead w x.pts
  | (s, some (r, c, i)) =>
    s.faultHead w x.pts a a.reqs [] { code := c, va := r.va % 2 ^ 56, mask := a.mask, info := i }

/-! ### The head of a wave's accesses performs (R219, R225) -/

/-- The bytes of a scalar access. -/
def Acc.width (a : Acc) : Nat := match a.reqs with
  | r :: _ => r.len
  | [] => 0

/-- The head of a wave's accesses at its coherence point, by what it does. -/
def State.performHead (s : State) (w : Nat) (a : Acc) : State :=
  match a.op with
  | .loadS d sgn => s.performHeadLoad w a false fun s got => match gotAt got 0 0 with
      | some v => s.modWave w fun x => landScalar x d sgn a.width v
      | none => s
  | .loadV d bytes sgn last => s.performHeadLoad w a last fun s got => s.landV w a.fifo d bytes sgn got
  | .store => s.performHeadStore w a
  | .red ty op sc => s.performHeadAtom w a true sc (atomOp ty op) fun s _ => s
  | .atom ty op sc d scalar => s.performHeadAtom w a false sc (atomOp ty op) (landAtom w a.fifo d ty scalar a.width)
  | .cas ty sc d scalar => s.performHeadAtom w a false sc casOp (landAtom w a.fifo d ty scalar a.width)
  | .pin d _ => s.performPin w a d
  | .unpin d _ => s.performUnpin w a d
  | .wbr _ => s.performWbr w a
  | .arenaNew pn d h size attr => s.performNew w a pn d h size attr
  | .arenaAlloc pn aln d h size => s.performAlloc w a pn aln d h size
  | .arenaSeal h => s.performSeal w a h
  | .arenaReset d h => s.performReset w a d h
  | .arenaDrop h => s.performDrop w a h
  | .arenaQuota d h q => s.performQuota w a d h q
  | .arenaInfo sel pn d va => s.performInfo w sel pn d va
  | .hdlInit b _ => s.performHdlInit w a b
  | .hdlExpect b => s.performHdlAdd w a fun h => flipTest flipFuel (h.expect (b.toNat % 2 ^ 32))
  | .hdlArrive b => s.performHdlAdd w a fun h => (h.expect (b.toNat % 2 ^ 32)).arrive
  | .hdlWait parity => s.performHdlWait w a parity
  | .hdlTest d parity => s.performHdlTest w a d parity
  | .watch n d => s.performWatch w a n d
  | .enq spawn d node ea => s.performEnq w a spawn d node ea
  | .viewDecl fmt op pn d size => s.performViewDecl w a fmt op pn d size
  | .viewInfo sel d n => s.performViewInfo w sel d n
  | .cpwp ch d => s.performCpwp w ch d
  | .sysrd reg inst d => s.performSysrd w reg inst d
  | .syswr _ _ _ => s
  | .tinv ctx all x y => s.performTinv w ctx all x y
  | .snap d x y => s.performSnap w a d x y
  | .slotset d g codes => s.performSlotset w d g codes

/-- R161: has a command still to post its bytes with EXP at the hurdle of an address? -/
def Cmd.posts (c : Cmd) (va : Nat) : Bool := !c.ready && !c.finished && decide (c.d1.toNat = va) && (match c.op with
  | .copy _ _ exp _ _ => exp
  | .coll _ exp _ _ => exp
  | .net _ exp => exp
  | _ => false)

/-- R238: an arrival or expectation of a wave waits for the bytes that an older command of it posts at the hurdle, so that the phase
does not end before they have been charged (DEDUCED, assumption 101). -/
def State.awaitsPost (s : State) (w : Nat) (a : Acc) : Bool :=
  (match a.op with
    | .hdlArrive _ | .hdlExpect _ => true
    | _ => false) && s.cmds.any fun c => c.2.wave == w && decide (c.2.uid < a.uid) && a.reqs.any fun r => c.2.posts r.va

/-- The head of a wave that may perform now: no reply is on its way, no acknowledgement is missing, it waits for no command, and the
wave is neither parked nor saved. -/
def State.readyHead (s : State) (w : Nat) : Option Acc :=
  match kget s.waves w with
  | none => none
  | some x => match x.head with
    | none => none
    | some a => if a.reply.isNone && !a.unacked && !s.awaitsPost w a && x.park.isNone && !s.waveAway x then some a else none

/-- The registers whose read clears them. -/
def clearing (reg : Nat) : Bool := [0x0018, 0x0021, 0x020B, 0x0124].contains reg

/-- Does a head perform in a step of its own name? -/
def Acc.named (a : Acc) : Bool := match a.regOp with
  | some (wr, reg, _, _) => wr || clearing reg
  | none => false

/-- R261, R331: the next lines of a merge, in a merge slot or in what demand leaves of its own. -/
def State.mergeMove (s : State) (task : Nat) : State := if s.slotNow ≤ 1 then s.mergeStep task else s

/-- ACCESS_PERFORM (R225): the oldest access of a wave, the next of a command, or the next lines of a merge. -/
def execAccessPerform (agent : Nat) (s : State) : Result :=
  .next (match s.readyHead agent with
    | some a => if a.named then s else s.performHead agent a
    | none =>
      if 2 ^ 33 ≤ agent then s.mergeMove (agent - 2 ^ 33)
      else if 2 ^ 32 ≤ agent then s.progressCmd (agent - 2 ^ 32)
      else s)

/-- SYNC_PUSH_ACK (R234): a sharer applies the pushed value and acknowledges it. -/
def execSyncPushAck (agent cluster : Nat) (s : State) : Result :=
  .next (match (s.wave agent).head with
    | some a => match a.acks with
      | some (out, gave) =>
        if out.contains cluster then
          let s := (s.locsOf a.reqs).foldl (fun s l => s.ackLine cluster l) s
          s.modWave agent fun x => x.setHead { a with acks := some (out.filter (· != cluster), gave ++ [cluster]) }
        else s
      | none => s
    | none => s)

/-- R230: the expired L1 copies that a load at the head may have consumed, and whether each line still has the copy's
wts. -/
def State.renewals (s : State) (x : Wave) (a : Acc) : List Bool :=
  (s.locsOf a.reqs).filterMap fun l => match x.who.cluster with
    | some c => match kget s.l1 (l1Key c l.key) with
      | some y => if l.kind < 3 ∧ s.isSync l = false ∧ y.rts < x.pts then some ((s.times l).1 == y.wts) else none
      | none => none
    | none => none

/-- L1_RENEWAL_REPLY (R230): with the same wts the load performs; with another one the wave is rewound to the load, which
is replayed with the new data. -/
def execL1RenewalReply (agent : Nat) (s : State) : Result :=
  .next (match s.readyHead agent with
    | some a =>
      let rs := s.renewals (s.wave agent) a
      let load := match a.op with
        | .loadS .. => true
        | .loadV _ _ _ last => !last
        | _ => false
      if !load || rs.isEmpty then s
      else if rs.all (· == true) then s.performHead agent a
      else (s.rewind agent a).performHead agent a
    | none => s)

/-- R121, R196, R220: the reply of a deferred fault reaches its wave: it is rewound, and parks or takes the trap. A wave that
has stopped for a halt issues nothing more, so nothing is replayed: it keeps its place and parks for the access alone
(R197). -/
def State.waveFault (s : State) (w : Nat) (a : Acc) (r : Reply) : State :=
  let t : Trap := { Trap.of r.code r.mask with va := r.va, info := r.info, half := a.half }
  if (s.wave w).super = false ∧ (r.code = 8 ∨ r.code = 9 ∨ r.code = 10) then
    let s := (if (s.wave w).stopped then s else s.rewind w a).modWave w fun x => x.setHead { a with reply := none }
    s.parkWave w a.uid a.pcb a.pc t none
  else s.raiseAt w a t

/-- FAULT_REPLY (R220). -/
def execFaultReply (agent : Nat) (s : State) : Result :=
  .next (if 2 ^ 33 ≤ agent then s.mergeFault (agent - 2 ^ 33)
    else if 2 ^ 32 ≤ agent then s.cmdFault (agent - 2 ^ 32)
    else match (s.wave agent).head with
      | some a => match a.reply with
        | some r => s.waveFault agent a r
        | none => s
      | none => s)

/-- ENGINE_START (R143). -/
def execEngineStart (cmd : Nat) (s : State) : Result := .next (s.startCmd cmd)
/-- ENGINE_COMPLETE (R143). -/
def execEngineComplete (cmd : Nat) (s : State) : Result := .next (s.completeCmd cmd)

/-! ### Limits (R128, R130, R180, R198, R227) -/

/-- A path that may meet the end of a limit: live, its wave neither parked, stopped nor saved. -/
def State.waiting (s : State) (w : Nat) (pcb : Bool) : Bool :=
  let x := s.wave w
  (x.path pcb).live && x.park.isNone && !x.stopped && !s.waveAway x

/-- Has the limit of a path's HDL.WAIT passed? -/
def State.hurdleLate (s : State) (p : Path) : Bool := p.live && (match p.hold with
  | .hdlWait _ _ _ true limit _ => s.limitPassed p limit
  | _ => false)
/-- Has the limit of a path's WAITW passed? -/
def State.waitwLate (s : State) (p : Path) : Bool := p.live && (match p.hold with
  | .waitw _ _ limit _ => s.limitPassed p limit
  | _ => false)

/-- R128: the trap of a path's HDL.WAIT whose limit has passed. -/
def State.hurdleTimeout (s : State) (w : Nat) (pcb : Bool) : State :=
  match ((s.wave w).path pcb).hold with
  | .hdlWait uid _ _ true limit mask =>
    if s.waiting w pcb && s.limitPassed ((s.wave w).path pcb) limit then
      (s.standAt w pcb uid).raise w pcb (Trap.of 14 mask)
    else s
  | _ => s

/-- R130: a path's WAITW whose limit has passed goes on; it is no trap. -/
def State.waitwExpiry (s : State) (w : Nat) (pcb : Bool) : State :=
  match ((s.wave w).path pcb).hold with
  | .waitw uid mask limit d =>
    if s.waiting w pcb && s.limitPassed ((s.wave w).path pcb) limit then
      s.finishWaitw w pcb uid ((s.wave w).readyWatches mask) d
    else s
  | _ => s

/-- HURDLE_TIMEOUT (R128), of the path named, and of those that the wave's divergence stack holds (R77). -/
def execHurdleTimeout (agent : Nat) (pcb : Bool) (s : State) : Result :=
  .next ((s.hurdleTimeout agent pcb).eachSpilled agent s.hurdleLate fun s => s.hurdleTimeout agent false)

/-- WAITW_LIMIT_EXPIRY (R130), of the path named, and of those that the wave's divergence stack holds (R77). -/
def execWaitwLimitExpiry (agent : Nat) (pcb : Bool) (s : State) : Result :=
  .next ((s.waitwExpiry agent pcb).eachSpilled agent s.waitwLate fun s => s.waitwExpiry agent false)

/-- HALT_WAKE (R180): d takes the events that hold. -/
def State.haltWake (s : State) (w : Nat) (pcb : Bool) : State :=
  match ((s.wave w).path pcb).hold with
  | .halt uid mask limit d =>
    let ev := s.haltEvents w (s.limitPassed ((s.wave w).path pcb) limit)
    if (s.wave w).super && s.waiting w pcb && (ev &&& mask) != 0 then (s.putU w uid d (ev.setWidth 64)).release w pcb uid 0 else s
  | _ => s

/-- HALT_WAKE (R180). -/
def execHaltWake (agent : Nat) (s : State) : Result := .next ((s.haltWake agent false).haltWake agent true)

/-- R198: the oldest live wave of a block. -/
def State.oldestWave (s : State) (bid : Nat) : Option Nat :=
  (s.liveWaves bid).foldl (fun m w => match m with
    | some v => if (s.wave w).age < (s.wave v).age then some w else some v
    | none => some w) none

/-- A block on a core traps with a code at its oldest live wave, on the path that issued last of those that live. -/
def State.haltBlock (s : State) (block code : Nat) : State :=
  match s.block? block, s.oldestWave block with
  | some b, some w =>
    if !b.away && !b.stopping then
      let pcb := (s.wave w).lastPath
      s.raise w pcb (Trap.of code ((s.wave w).path pcb).mask)
    else s
  | _, _ => s

/-- WATCHDOG (R198): a block traps once a counted cc has found its count at the limit (R318). -/
def execWatchdog (block : Nat) (s : State) : Result :=
  .next (if (s.block? block).any (·.bark) then s.haltBlock block 16 else s)

/-- PTS_CREEP (R227): the pts of every live wave of a core advances at the end of each 1,024 cc. -/
def execPtsCreep (core : Nat) (s : State) : Result :=
  .next (if dget 0 s.crept core < (s.clk - dget 0 s.coreReset core) / 1024 then
      { s with
        crept := dset 0 s.crept core (dget 0 s.crept core + 1)
        waves := s.waves.map fun (e : Nat × Wave) =>
          (e.1, if e.2.core == core && !e.2.ended && !s.waveAway e.2 && (e.2.pca.live || e.2.pcb.live) then
              { e.2 with pts := e.2.pts + 1 } else e.2) }
    else s)

/-! ### Yield and end of a task (R134, R139) -/

/-- Has the block a matrix command that has not completed? -/
def State.matrixBusy (s : State) (bid : Nat) : Bool :=
  s.cmds.any fun c => c.2.block == bid && !c.2.finished && (match c.2.op with
    | .copy .. | .coll .. | .net .. => false
    | _ => true)

/-- YIELD_SAVE (R134): every live wave holds at a YIELD, and every access of the block has performed. -/
def execYieldSave (block : Nat) (s : State) : Result :=
  .next (match s.block? block with
    | some b =>
      if s.yielded block && !b.away && !b.stopping && !b.vacating && s.drained block b && !s.matrixBusy block then
        match s.freeAreas (dieOf b.core) with
        | img :: _ => s.saveBlock block img
        | [] => s
      else s
    | none => s)

/-- R134: does the condition of a saved wave's YIELD hold now? -/
def State.yieldCond (s : State) (w : Nat) : Bool :=
  let x := s.wave w
  match (if x.pca.atYield then x.pca.hold else x.pcb.hold) with
  | .yield _ kind n k va parity => match kind with
    | 0 => true
    | 1 => decide ((x.ctr n).count ≤ k)
    | 2 => match s.hurdleAt x.ctx va with
      | some (h, _) => h.phase != parity
      | none => false
    | _ => x.watches.any fun t => t.2.armed && t.2.fired
  | _ => true

/-- R134: the waves of a saved task whose condition holds are noted: each has to hold once since the save. -/
def State.noteConds (s : State) (tid : Nat) : State :=
  match kget s.tasks tid with
  | none => s
  | some t => match t.state, t.saved, t.block with
    | .saved, some sv, some bid =>
      let now := (s.liveWaves bid).filter fun w => !sv.conds.contains w && s.yieldCond w
      if now.isEmpty then s
      else { s with tasks := kset s.tasks tid { t with saved := some { sv with conds := sv.conds ++ now } } }
    | _, _, _ => s

/-- The conditions of every saved task are noted. -/
def State.noteAllConds (s : State) : State := s.tasks.foldl (fun s e => if e.2.state = .saved then s.noteConds e.1 else s) s

/-- YIELD_RESUME_RECORD (R134): every condition has held since the save. -/
def execYieldResumeRecord (task : Nat) (s : State) : Result :=
  let s' := s.noteConds task
  .next (match kget s'.tasks task with
    | some t => match t.state, t.saved, t.block with
      | .saved, some sv, some bid => if (s'.liveWaves bid).all sv.conds.contains then s'.binResume task else s'
      | _, _, _ => s
    | none => s)

/-- TEND_POINT (R139). -/
def execTendPoint (block : Nat) (s : State) : Result := .next (s.tendPoint block)

/-- MERGE_COMPLETE (R246, R261). -/
def execMergeComplete (task : Nat) (s : State) : Result := .next (s.mergeMove task)

/-- TASK_PLACE (R254): the node whose turn it is places its head. -/
def execTaskPlace (node : Nat) (s : State) : Result :=
  .next (if s.placer = some node then (s.tryPlace node).getD s else s)

/-- R253: has the timer of a node's bin passed? -/
def Node.timerPassed (n : Node) (uc : Nat) : Bool :=
  match n.bin.filter fun r => r.resume.isNone with
  | r :: _ => r.spawn.isNone && decide (n.timer ≠ 0) && decide (r.entered + n.timer ≤ uc)
  | [] => false

/-- BATCH_TIMER_EXPIRY (R253). -/
def execBatchTimerExpiry (node : Nat) (s : State) : Result :=
  .next (match kget s.nodes node with
    | some n => if n.timerPassed s.uc then { s with nodes := kset s.nodes node { n with expired := true } } else s
    | none => s)

/-- F0_REFILL (R132): the next entry of the batch, where F0 has room beside the pushes still to come. -/
def execF0Refill (block : Nat) (s : State) : Result :=
  .next (match s.block? block with
    | some b => match b.refill with
      | e :: es =>
        if s.fifoLoad block 0 < 16 ∧ b.away = false then
          s.modBlock block fun b => { b with fifos := dset [] b.fifos 0 (dget [] b.fifos 0 ++ [e]), refill := es }
        else s
      | [] => s
    | none => s)

/-! ### Slots (R331 to R339) -/

/-- LAP_START (R182). -/
def execLapStart (s : State) : Result := .next s.startLap
/-- SCRUB_AND_DROP_SWEEP (R336): in a scrub slot, what one unit does; the argument is the unit (`scrubUnit`). -/
def execScrubAndDropSweep (slice : Nat) (s : State) : Result := .next (if s.slotNow = 3 then s.scrubUnit slice else s)
/-- LINE_EVICTION (R107, R216). -/
def execLineEviction (line : Nat) (s : State) : Result := .next (s.evict line).retireDrops
/-- SNAPSHOT_DRAIN (R333): in a drain slot. -/
def execSnapshotDrain (snap : Nat) (s : State) : Result := .next (if s.slotNow = 2 then s.drainSnap snap else s)
/-- FROZEN_GRANULE_COPY (R334). -/
def execFrozenGranuleCopy (agent : Nat) (s : State) : Result :=
  .next (match s.frozenFor agent with
    | some f => s.copyGranule f
    | none => s)
/-- MIGRATION_SLOT (R339). -/
def execMigrationSlot (s : State) : Result := .next (if s.slotNow = 4 then s.migrationStep else s)
/-- TELEMETRY_SLOT (R338). -/
def execTelemetrySlot (stack : Nat) (s : State) : Result :=
  .next (if s.slotNow = 5 ∧ stack < 16 then s.telemetryStep stack else s)

/-! ### Collectives, network and storage (R168, R174) -/

/-- A started command that has not finished stops with a reason, if `p` holds of it. -/
def State.stopIf (s : State) (cmd reason info : Nat) (p : Cmd → Bool) : State :=
  match kget s.cmds cmd with
  | some c => if c.started && !c.finished && p c then s.stopCmd cmd c reason info else s
  | none => s

/-- Is a command a collective? -/
def Cmd.isColl (c : Cmd) : Bool := match c.op with
  | .coll .. => true
  | _ => false
/-- Is a command a network or storage command? -/
def Cmd.isNet (c : Cmd) : Bool := match c.op with
  | .net .. => true
  | _ => false
/-- Has a command's time limit passed? -/
def State.deadlinePassed (s : State) (c : Cmd) : Bool := match c.deadline with
  | some t => decide (t ≤ s.clk)
  | none => false

/-- COLL_ANNOUNCEMENT (R168): a failure or a disagreement reaches this rank, which has written no byte; past its time limit the
command stops with LINK. -/
def execCollAnnouncement (cmd : Nat) (s : State) : Result :=
  .next (s.stopIf cmd (if (kget s.cmds cmd).any s.deadlinePassed then 12 else 11) 0 fun c => c.isColl && c.pos == 0)
/-- COLL_TIME_LIMIT (R168). -/
def execCollTimeLimit (cmd : Nat) (s : State) : Result := .next (s.stopIf cmd 12 0 fun c => c.isColl && s.deadlinePassed c)
/-- ENDPOINT_TIME_LIMIT (R174). -/
def execEndpointTimeLimit (cmd : Nat) (s : State) : Result := .next (s.stopIf cmd 12 0 fun c => c.isNet && s.deadlinePassed c)
/-- TRANSPORT_FAILURE (R164, R168, R174): LINK, for a collective as for a network or storage command. -/
def execTransportFailure (cmd : Nat) (s : State) : Result := .next (s.stopIf cmd 12 0 fun c => c.isColl || c.isNet)
/-- NVME_COMPLETION (R174): a status other than zero stops the command. -/
def execNvmeCompletion (cmd : Nat) (status : BitVec 16) (s : State) : Result :=
  .next (s.stopIf cmd 13 status.toNat fun c => status != 0 && (match c.op with
    | .net 2 _ => true
    | _ => false))

/-! ### Peers and the host (R173, R241, R285, R322, R323) -/

/-- PEER_REMOTE_ACCESS (R173, R241). -/
def execPeerRemoteAccess (ep : Nat) (va : Addr) (kind : PeerKind) (pts : Nat) (bytes : List Byte) (s : State) : Result :=
  .next (if s.bootFailed then s else s.peerAccess ep va.toNat pts (peerReq kind bytes))
/-- R295, R320: does CXL.mem work: is the link up, and has the boot not failed? -/
def State.cxlMem (s : State) : Bool := s.linkUp && !s.bootFailed
/-- HOST_CXL_MEM_READ (R285): at most to the end of the link line (R284). -/
def execHostCxlMemRead (req : HostRange) (s : State) : Result :=
  .next (if s.cxlMem then s.hostAccess req.hpa (linkBytes req.hpa req.n) none else s)
/-- HOST_CXL_MEM_WRITE (R285): at most to the end of the link line (R284). -/
def execHostCxlMemWrite (hpa : Nat) (bytes : List Byte) (s : State) : Result :=
  .next (if s.cxlMem && !bytes.isEmpty then
      s.hostAccess hpa (linkBytes hpa bytes.length) (some (bytes.take (linkBytes hpa bytes.length)))
    else s)
/-- SNPDATA (R322). -/
def execSnpData (line : Nat) (s : State) : Result := .next (s.snoopData line)
/-- SNPINV (R322). -/
def execSnpInv (line : Nat) (s : State) : Result := .next (s.snoopInv line)
/-- SNPCUR (R322). -/
def execSnpCur (line : Nat) (s : State) : Result := .next (s.snoopCur line)
/-- BACK_INVALIDATE_ACKNOWLEDGED (R323); the answer crosses the link. -/
def execBackInvalidateAcknowledged (line : Nat) (data : List Byte) (s : State) : Result :=
  .next (if s.linkUp then s.snoopAck line data else s)

/-! ### Packets (R286 to R290) -/

/-- NOP, and the packets of every unknown TYPE (R287). -/
def execNopPacket (queue : Nat) (s : State) : Result :=
  .next (s.servePacket queue (fun t => t == 0 || decide (8 < t)) actNop)
/-- RECORD. -/
def execRecordPacket (queue : Nat) (s : State) : Result := .next (s.servePacket queue (· == 1) actRecord)
/-- NODEDEF. -/
def execNodeDef (queue : Nat) (s : State) : Result := .next (s.servePacket queue (· == 2) actNodeDef)
/-- NODEDEL. -/
def execNodeDel (queue : Nat) (s : State) : Result := .next (s.servePacket queue (· == 3) actNodeDel)
/-- COMMDEF. -/
def execCommDef (queue : Nat) (s : State) : Result := .next (s.servePacket queue (· == 4) actCommDef)
/-- EPDEF. -/
def execEpDef (queue : Nat) (s : State) : Result := .next (s.servePacket queue (· == 5) actEpDef)
/-- VPOOL. -/
def execVpool (queue : Nat) (s : State) : Result := .next (s.servePacket queue (· == 6) actVpool)
/-- QCREATE. -/
def execQcreate (queue : Nat) (s : State) : Result := .next (s.servePacket queue (· == 7) (actQcreate queue))
/-- QDESTROY. -/
def execQdestroy (queue : Nat) (s : State) : Result := .next (s.servePacket queue (· == 8) (actQdestroy queue))

/-! ### The DOE mailbox (R284, R296); the request codes are SPDM's (assumption 11) -/

/-- GET_VERSION. -/
def execGetVersion (s : State) : Result := .next (s.doeReply spdmVersion)
/-- GET_CAPABILITIES. -/
def execGetCapabilities (s : State) : Result := .next (s.doeReply spdmCapabilities)
/-- NEGOTIATE_ALGORITHMS. -/
def execNegotiateAlgorithms (s : State) : Result := .next (s.doeReply spdmAlgorithms)
/-- GET_DIGESTS: slot 0 alone holds a chain. -/
def execGetDigests (s : State) : Result := .next (s.doeReply (spdm 0x01 0 1 (Config.spdmReply 0x81 0)))
/-- GET_CERTIFICATE. -/
def execGetCertificate (slot : Nat) (s : State) : Result :=
  .next (s.doeReply (slotReply slot (spdm 0x02 slot 0 (Config.spdmReply 0x82 slot))))
/-- CHALLENGE. -/
def execChallenge (slot : Nat) (s : State) : Result :=
  .next (s.doeReply (slotReply slot (spdm 0x03 slot 1 (Config.spdmReply 0x83 slot))))
/-- GET_MEASUREMENTS: the measurement of an index of Table 19.10, with what signs it. -/
def execGetMeasurements (index : Nat) (s : State) : Result := .next (s.doeReply (spdmMeasurements index))
/-- UNSUPPORTED_REQUEST: an SPDM ERROR of UnsupportedRequest; no request that the mailbox answers is one. -/
def execUnsupportedRequest (code : Nat) (s : State) : Result :=
  .next (if spdmCodes.contains code then s else s.doeReply (spdmError 7 code))
/-- CDAT_REQUEST. -/
def execCdatRequest (s : State) : Result := .next (s.doeReply Config.cdat)

/-! ### System-register reads and writes at their points (R178, R292) -/

/-- The head of a control core's accesses, if it reads (or writes) the register. -/
def State.regHead (s : State) (w : Nat) (wr : Bool) (reg : Nat) : Option (Acc × Nat × BitVec 64) :=
  match s.readyHead w with
  | some a => match a.regOp with
    | some (q, r, inst, v) => if q = wr ∧ r = reg then some (a, inst, v) else none
    | none => none
  | none => none

/-- A write of a register at its point, by what it does. -/
def State.onWrite (s : State) (w reg : Nat) (k : Acc → Nat → BitVec 64 → State) : State :=
  match s.regHead w true reg with
  | some (a, inst, v) => k a inst v
  | none => s

/-- AMINV (R298, R302): a core's view of an arena is republished; it completes when every core has taken it. Its wave's time follows a
placement change that it makes (R242, R305). -/
def execAminv (agent : Nat) (s : State) : Result :=
  .next (s.onWrite agent 0x0103 fun _ _ v => let (s, ts) := s.aminvArena v; (s.joinPts agent ts).deferHead agent 0 0)

/-- FQREPLY with the action given (R308). -/
def State.writeFqReply (s : State) (w : Nat) (resume : Bool) : State :=
  s.onWrite w 0x011C fun _ _ v =>
    if replyAction v = some resume then (s.fqReply (w % 16) v resume).finishHead w (s.wave w).pts else s

/-- FQREPLY_RESUME (R308). -/
def execFqreplyResume (agent : Nat) (s : State) : Result := .next (s.writeFqReply agent true)
/-- FQREPLY_DECLINE (R308). -/
def execFqreplyDecline (agent : Nat) (s : State) : Result := .next (s.writeFqReply agent false)

/-- MIGRATE (R309, R310). -/
def execMigrate (agent : Nat) (s : State) : Result :=
  .next (s.onWrite agent 0x0128 fun a _ v =>
    let p := s.pageDesc v.toNat
    if p.bad = false ∧ p.op = 1 then s.startMigrate agent a v.toNat else s)
/-- UNMAP (R311). -/
def execUnmap (agent : Nat) (s : State) : Result :=
  .next (s.onWrite agent 0x0128 fun _ _ v =>
    let p := s.pageDesc v.toNat
    if p.bad = false ∧ p.op = 2 then s.performUnmap agent v.toNat else s)

/-- ICMSG (R292). -/
def execIcmsg (agent : Nat) (s : State) : Result :=
  .next (s.onWrite agent 0x0020 fun _ inst _ => (s.postMessage (agent % 16) inst).finishHead agent (s.wave agent).pts)
/-- HIRQ (R292). -/
def execHirq (agent : Nat) (s : State) : Result :=
  .next (s.onWrite agent 0x0030 fun _ _ v => (s.raiseIrq (v.toNat % 64)).finishHead agent (s.wave agent).pts)
/-- VACATE (R315). -/
def execVacate (agent : Nat) (s : State) : Result :=
  .next (s.onWrite agent 0x0200 fun _ _ v => s.startVacate agent v.toNat)
/-- CRST (R321); it waits while the drop lists have no room for what the core's tasks drop (R216). -/
def execCrst (agent : Nat) (s : State) : Result :=
  .next (s.onWrite agent 0x0207 fun _ _ v =>
    let core := v.toNat % 256
    if core < 192 ∧ s.resetRoom core = false then s else (if core < 192 then s.resetCore core else s).deferHead agent 0 0)
/-- L2HM_WRITE (R305, R329); its wave's time follows the change (R242). -/
def execL2hmWrite (agent : Nat) (s : State) : Result :=
  .next (s.onWrite agent 0x0110 fun _ inst v => let (s, ts) := s.writeL2hm inst v; (s.joinPts agent ts).deferHead agent 0 0)
/-- PWRST_REQUEST (R325). -/
def execPwrstRequest (agent : Nat) (s : State) : Result :=
  .next (s.onWrite agent 0x0208 fun _ inst v => (s.sysWrite (agent % 16) 0x0208 inst v).finishHead agent (s.wave agent).pts)
/-- CLUSTER_POWER_STATE_REACHED (R325). -/
def execClusterPowerStateReached (cluster : Nat) (s : State) : Result :=
  .next (if cluster < 48 ∧ s.powerReady cluster then s.reachPower cluster else s)

/-- A read that clears its register. -/
def State.readClearing (s : State) (w reg : Nat) : State :=
  match s.regHead w false reg with
  | some (a, inst, _) => match a.op with
    | .sysrd _ _ d => (s.performSysrd w reg inst d).clearRead (w % 16) reg inst
    | _ => s
  | none => s

/-- HERR_READ (R292). -/
def execHerrRead (agent : Nat) (s : State) : Result := .next (s.readClearing agent 0x0018)
/-- ICPEND_READ (R292). -/
def execIcpendRead (agent : Nat) (s : State) : Result := .next (s.readClearing agent 0x0021)
/-- CLAMPC_READ (Table 21.1). -/
def execClampcRead (agent : Nat) (s : State) : Result := .next (s.readClearing agent 0x020B)
/-- SRDROP_READ (R298). -/
def execSrdropRead (agent : Nat) (s : State) : Result := .next (s.readClearing agent 0x0124)

/-- R178: a write of any other register, of FQREPLY with no action (R308), or of PGOP with a malformed descriptor (R309). -/
def State.plainWrite (s : State) (w reg inst : Nat) (v : BitVec 64) : State :=
  if reg = 0x0128 then
    if (s.pageDesc v.toNat).bad then (s.pageStatus v.toNat 1).deferHead w 0 0 else s
  else if reg = 0x011C then
    if replyAction v = none then s.finishHead w (s.wave w).pts else s
  else if ownStep reg then s
  else ((s.sysWrite (w % 16) reg inst v).finishHead w (s.wave w).pts).flushRecords

/-- SYSREG_WRITE (R178). -/
def execSysregWrite (agent : Nat) (s : State) : Result :=
  .next (match s.readyHead agent with
    | some a => match a.regOp with
      | some (true, reg, inst, v) => s.plainWrite agent reg inst v
      | _ => s
    | none => s)

/-- ASYNCHRONOUS_COMPLETION (R28, R178): a vacate goes on, or an operation that has done all it does completes. -/
def execAsynchronousCompletion (op : Nat) (s : State) : Result := .next ((s.vacateStep op).completeAsync op)

/-! ### Resets, links, power (R320, R326, R338) -/

/-- POWER_ON_RESET (R320): the agenda is the model's own and goes on. -/
def execPowerOnReset (s : State) : Result := .next { s.restart true with linkUp := true }
/-- FUNCTION_LEVEL_RESET (R320). -/
def execFunctionLevelReset (s : State) : Result := .next (if s.linkUp then (s.dropHostLines true).restart false else s)
/-- LINK_DOWN (R320). -/
def execLinkDown (s : State) : Result := .next ({ s.dropHostLines false with linkUp := false } : State)
/-- LINK_UP (R320). -/
def execLinkUp (s : State) : Result := .next { s with linkUp := true }

/-- Has a core issued in the cc under way (R26)? -/
def State.portsUsed (s : State) (core : Nat) : Bool := (List.range 4).any fun p => dget 0 s.ports (4 * core + p) == s.clk + 1

/-- POWER_CLAMP (R326): the cc under way is a clamped one of a core that has not issued in it: it issues nothing in it, and neither
its watchdogs nor R193's count of its waves' wait counts it. -/
def execPowerClamp (core : Nat) (s : State) : Result :=
  .next (if s.portsUsed core || dget 0 s.clampAt core == s.clk + 1 then s
    else { s with
      clamped := dset 0 s.clamped (dieOf core) (dget 0 s.clamped (dieOf core) + 1)
      clampAt := dset 0 s.clampAt core (s.clk + 1) })

/-- R326: every core stops issuing, or goes on. -/
def State.stopIssue (s : State) (on : Bool) : State := { s with thermStop := on }

/-- THERMAL_TRIP (R326): a sensor reads above 105 °C, in units of 1/16 °C. -/
def execThermalTrip (die : Nat) (temp : BitVec 16) (s : State) : Result :=
  .next (if die < 4 ∧ 105 * 16 < temp.toNat then
      ((s.setSys 0x020A die (BitVec.ofNat 64 (2 ^ 16 + temp.toNat))).stopIssue true).raiseIrq 0
    else s)
/-- THERMAL_RESUME (R326): the reading is below 95 °C. -/
def execThermalResume (die : Nat) (temp : BitVec 16) (s : State) : Result :=
  .next (if die < 4 ∧ temp.toNat < 95 * 16 then
      (s.setSys 0x020A die (BitVec.ofNat 64 temp.toNat)).stopIssue
        ((List.range 4).any fun i => i != die && (s.sysReg 0x020A i).getLsbD 16)
    else s)

/-- FIRMWARE_ENDS_THE_TASK (R256): a HALTED task, once the drop lists have room for its buffers (R216). -/
def execFirmwareEndsTheTask (task : Nat) (s : State) : Result :=
  .next (match kget s.tasks task with
    | some t => if t.state = .halted ∧ s.endRoom t then s.endTask task else s
    | none => s)

/-- GROUP_RETRAINS (R338): a lane group has retrained. -/
def execGroupRetrains (group : Nat) (s : State) : Result := .next (s.groupRetrained group)

end Sys2Proof.Machine
end

