-- ==== Sys2Proof/Machine/Float.lean ====
section
/-! DEFINITION. The floating-point family (R82 to R85), the transcendentals (R86), the conversions (R88 to R94) and
SEED (R95, R96), 0x40 to 0x53. -/
namespace Sys2Proof.Machine

/-! ### The floating-point family -/

/-- A format of Table 2.2 by code. -/
def fmtOf (c : Nat) : FloatFmt := (floatFmt c).getD f32

/-- R84: an operation on the values of a lane: the whole lane in F32, or each half in BF16 or F16. -/
def byForm (ft : BitVec 2) (op : FloatFmt → Nat → Nat → Nat → Nat) (x y z : Nat) : Nat :=
  if ft = 0 then op f32 x y z
  else
    let fm := fmtOf (if ft = 1 then 2 else 1)
    let h (i : Nat) : Nat := op fm (x / 2 ^ (16 * i) % 65536) (y / 2 ^ (16 * i) % 65536) (z / 2 ^ (16 * i) % 65536)
    h 0 + 65536 * h 1

/-- R83, R84: a form of the family with up to three sources. -/
def floatOp (s : State) (f : Sched) (ft : BitVec 2) (op : FloatFmt → Nat → Nat → Nat → Nat) (d : Reg) (srcs : List Reg) : Result :=
  fixedL s f 6 0 d srcs fun r x l =>
    let v (i : Nat) : Nat := match srcs[i]? with
      | some q => (r.readL x (srcs.take i) q l).toNat
      | none => 0
    byForm ft op (v 0) (v 1) (v 2)

/-- VFADD. -/
def execVfadd (f : Sched) (ft : BitVec 2) (rm : BitVec 3) (d a b : Reg) (s : State) : Result :=
  floatOp s f ft (fun fm x y _ => addCode fm rm.toNat x y) d [a, b]
/-- VFSUB. -/
def execVfsub (f : Sched) (ft : BitVec 2) (rm : BitVec 3) (d a b : Reg) (s : State) : Result :=
  floatOp s f ft (fun fm x y _ => subCode fm rm.toNat x y) d [a, b]
/-- VFMUL. -/
def execVfmul (f : Sched) (ft : BitVec 2) (rm : BitVec 3) (d a b : Reg) (s : State) : Result :=
  floatOp s f ft (fun fm x y _ => mulCode fm rm.toNat x y) d [a, b]
/-- VFMA: one rounding. -/
def execVfma (f : Sched) (ft : BitVec 2) (rm : BitVec 3) (d a b c : Reg) (s : State) : Result :=
  floatOp s f ft (fun fm x y z => fmaCode fm rm.toNat x y z) d [a, b, c]
/-- VFMIN (R56). -/
def execVfmin (f : Sched) (ft : BitVec 2) (d a b : Reg) (s : State) : Result :=
  floatOp s f ft (fun fm x y _ => minMaxCode fm false x y) d [a, b]
/-- VFMAX (R56). -/
def execVfmax (f : Sched) (ft : BitVec 2) (d a b : Reg) (s : State) : Result :=
  floatOp s f ft (fun fm x y _ => minMaxCode fm true x y) d [a, b]
/-- VFABS. -/
def execVfabs (f : Sched) (ft : BitVec 2) (d a : Reg) (s : State) : Result :=
  floatOp s f ft (fun fm x _ _ => absCode fm x) d [a]
/-- VFNEG. -/
def execVfneg (f : Sched) (ft : BitVec 2) (d a : Reg) (s : State) : Result :=
  floatOp s f ft (fun fm x _ _ => negCode fm x) d [a]

/-- VFCMP (R85). -/
def execVfcmp (f : Sched) (cnd : BitVec 3) (d a b : Reg) (s : State) : Result :=
  fixedP s f 6 d false [a, b] fun r x _ => laneBits fun l =>
    cmpCode f32 cnd.toNat (r.readL x [] a l).toNat (r.readL x [a] b l).toNat

/-! ### Transcendentals (R86, R87) -/

/-- A function of one F32 source. -/
def transcend (s : State) (f : Sched) (g : BitVec 32 → BitVec 32) (d a : Reg) : Result :=
  fixedL s f 16 0 d [a] fun r x l => (g (r.readL x [] a l)).toNat

/-- VRCP. -/
def execVrcp (f : Sched) (d a : Reg) (s : State) : Result := transcend s f rcpCode d a
/-- VRSQ. -/
def execVrsq (f : Sched) (d a : Reg) (s : State) : Result := transcend s f rsqCode d a
/-- VEXP2. -/
def execVexp2 (f : Sched) (d a : Reg) (s : State) : Result := transcend s f exp2Code d a
/-- VLOG2. -/
def execVlog2 (f : Sched) (d a : Reg) (s : State) : Result := transcend s f log2Code d a

/-! ### Stochastic draws (R49, R96) -/

/-- The draws of `n` elements in order, and the LFSR after them. -/
def drawMany : Nat → BitVec 64 → List Nat × BitVec 64
  | 0, v => ([], v)
  | n + 1, v =>
    let (x, v) := draw24 v
    let (xs, v) := drawMany n v
    (x :: xs, v)

/-- R96: the LFSR changed at issue, logged like a register. -/
def State.setLfsr (s : State) (w uid : Nat) (v : BitVec 64) : State := s.modWave w fun x => { x.log uid (.lfsr x.lfsr) with lfsr := v }

/-- How many active lanes lie below a lane. -/
def rankOf (act : BitVec 32) (l : Nat) : Nat := ((List.range l).filter fun i => act.getLsbD i).length
/-- How many lanes are active. -/
def countLanes (act : BitVec 32) : Nat := rankOf act 32

/-- R49: the draws of a conversion of `per` elements per active lane: draw `i` of lane `l`, and the LFSR afterwards. -/
def drawsFor (v : BitVec 64) (act : BitVec 32) (per : Nat) : (Nat → Nat → Nat) × BitVec 64 :=
  let (ds, v) := drawMany (countLanes act * per) v
  (fun l i => ds.getD (rankOf act l * per + i) 0, v)

/-! ### CVT, VPACK, VUNPACK -/

/-- R91: the source element of a CVT in lane `l`: a 64-bit pair, or element EI of the lane. -/
def State.cvtSource (r : State) (x : Wave) (sf : BitVec 5) (ei : BitVec 3) (a : Reg) (l : Nat) : Nat :=
  if fmtWidth sf.toNat = 64 then (r.readL64 x a l).toNat
  else (r.readL x [] a l).toNat / 2 ^ (fmtWidth sf.toNat * ei.toNat) % 2 ^ fmtWidth sf.toNat

/-- R96: the LFSR after the draws of a conversion, which only RM 4 makes. -/
def State.drawn (s : State) (w uid : Nat) (rm : BitVec 3) (v : BitVec 64) : State := if rm = 4 then s.setLfsr w uid v else s

/-- The draw used for an element; 0 where RM makes none. -/
def drawIf (rm : BitVec 3) (n : Nat) : Nat := if rm = 4 then n else 0

/-- CVT (R91). -/
def execCvt (f : Sched) (df sf : BitVec 5) (rm : BitVec 3) (sat : Bool) (ei : BitVec 3) (d a : Reg) (s : State) : Result :=
  fixed s f 8 fun w _ r x act u =>
    ((u.drawn w s.uid rm (drawsFor x.lfsr act 1).2).popPorts x [a]).writeT w s.uid 8 (if fmtWidth df.toNat = 64 then 2 else 0) d act
      fun l => convertCode df.toNat sf.toNat rm.toNat sat (drawIf rm ((drawsFor x.lfsr act 1).1 l 0)) (r.cvtSource x sf ei a l)

/-- R92: the word that lane `l` of a VPACK packs: element i from lane `l` of register A + i. -/
def State.packedLane (r : State) (x : Wave) (df : BitVec 5) (rm : BitVec 3) (sat : Bool) (a : Reg) (draw : Nat → Nat → Nat) (l : Nat) : BitVec 32 :=
  let wd := fmtWidth df.toNat
  BitVec.ofNat 32 ((List.range (32 / wd)).foldl (fun o i =>
    o + convertVal df.toNat rm.toNat sat (drawIf rm (draw l i)) (fmtVal 0 (r.readL x [] (a + BitVec.ofNat 8 i) l).toNat) * 2 ^ (wd * i)) 0)

/-- VPACK, non-block (R92). -/
def execVpack (f : Sched) (df : BitVec 5) (rm : BitVec 3) (sat : Bool) (d a : Reg) (s : State) : Result :=
  fixed s f 8 fun w _ r x act u =>
    let n := 32 / fmtWidth df.toNat
    (u.drawn w s.uid rm (drawsFor x.lfsr act n).2).writeL w s.uid 8 d act (r.packedLane x df rm sat a (drawsFor x.lfsr act n).1)

/-- R93: the codes and scale byte of one block of 32 values under a tag, with its draws. -/
def packBlock (mx8 : Bool) (tag rm : Nat) (xs : List Val) (draw : Nat → Nat) : List Nat × Nat :=
  match tagFormat mx8 tag with
  | none => (List.replicate 32 0, 255)
  | some (fmt, k) =>
    let sc := blockScale fmt xs
    if sc = 255 then (List.replicate 32 0, 255)
    else (xs.zipIdx.map fun x => convertVal fmt rm true (draw x.2) (x.1.scale (127 - (sc : Int) - k)), sc)

/-- The blocks that one VPACK.MX8 (4) or VPACK.MX4 (8) packs. -/
def mxCount (mx4 : Bool) : Nat := if mx4 then 8 else 4

/-- R93: the blocks of a VPACK.MX8 or VPACK.MX4: block j holds the 32 lanes of register A + j under the tag of field j of
C. -/
def State.mxBlocks (r : State) (x : Wave) (mx4 : Bool) (rm : BitVec 3) (a c : Reg) : List (List Nat × Nat) :=
  (List.range (mxCount mx4)).map fun j =>
    packBlock (!mx4) ((r.readU x c).toNat / 4 ^ j % 4) rm.toNat
      ((List.range 32).map fun m => fmtVal 0 (r.readL x [] (a + BitVec.ofNat 8 j) m).toNat)
      (fun m => drawIf rm ((drawMany (32 * mxCount mx4) x.lfsr).1.getD (32 * j + m) 0))

/-- R93: the codes that lane `l` of D takes. -/
def mxLane (mx4 : Bool) (blocks : List (List Nat × Nat)) (l : Nat) : BitVec 32 :=
  let wd := if mx4 then 4 else 8
  BitVec.ofNat 32 ((List.range (32 / wd)).foldl (fun o i =>
    o + (blocks.flatMap (·.1)).getD (l * (32 / wd) + i) 0 % 2 ^ wd * 2 ^ (wd * i)) 0)

/-- R93: the scale bytes of the blocks, block 0 lowest. -/
def mxScales (blocks : List (List Nat × Nat)) : BitVec 64 := BitVec.ofNat 64 (blocks.zipIdx.foldl (fun o b => o + b.1.2 * 256 ^ b.2) 0)

/-- VPACK.MX8 and VPACK.MX4 (R93): every lane of the group is read and every lane of D written; the scales go to B and
the tags to B + 1. -/
def execVpackMx8 (f : Sched) (mx4 : Bool) (rm : BitVec 3) (d a b c : Reg) (s : State) : Result :=
  fixed s f 8 fun w _ r x _ u =>
    let blocks := r.mxBlocks x mx4 rm a c
    let u := (u.drawn w s.uid rm (drawMany (32 * mxCount mx4) x.lfsr).2).writeL w s.uid 8 d 0xFFFFFFFF (mxLane mx4 blocks)
    if isS b then
      (u.writeU w s.uid 8 b (mxScales blocks)).writeU w s.uid 8 (b + 1) (BitVec.ofNat 64 ((r.readU x c).toNat % 4 ^ mxCount mx4))
    else u

/-- R94: the result of an unpacked value. -/
def unpacked (df rm : Nat) (v : Val) : Nat := convertVal df rm false 0 v

/-- R94: what lane `l` of register D + i takes. -/
def State.unpackLane (r : State) (x : Wave) (df sf : BitVec 5) (rm : BitVec 3) (a b : Reg) (i l : Nat) : BitVec 32 :=
  let wd := fmtWidth sf.toNat
  BitVec.ofNat 32 (if isBlock sf then
    let k := 32 * i + l
    let per := 32 / wd
    let code := (r.readL x [] a (k / per)).toNat / 2 ^ (wd * (k % per)) % 2 ^ wd
    let sc := (r.readU x b).toNat / 256 ^ i % 256
    let tag := (if isS b then (r.readU x (b + 1)).toNat else 0) / 4 ^ i % 4
    unpacked df.toNat rm.toNat (blockVal (sf == 0x10) tag sc code)
  else
    let code := (r.readL x [] a l).toNat / 2 ^ (wd * i) % 2 ^ wd
    if df = 8 ∧ sf = 6 ∧ code = 8 then 0 else unpacked df.toNat rm.toNat (fmtVal sf.toNat code))

/-- VUNPACK (R94). -/
def execVunpack (f : Sched) (df sf : BitVec 5) (rm : BitVec 3) (d a b : Reg) (s : State) : Result :=
  fixed s f 8 fun w _ r x act u =>
    (List.range (vunpackN sf)).foldl (fun (u : State) i =>
      u.writeL w s.uid 8 (d + BitVec.ofNat 8 i) act (r.unpackLane x df sf rm a b i)) (u.popPorts x [a])

/-! ### SEED (R95) -/

/-- The LFSR exchanged with a value, zero standing for one. -/
def seedWith (s : State) (f : Sched) (d : Reg) (val : State → Wave → BitVec 64) : Result :=
  fixed s f 8 fun w _ r x _ u =>
    let v := val r x
    (u.writeU w s.uid 8 d x.lfsr).setLfsr w s.uid (if v = 0 then 1 else v)

/-- SEED, register form. -/
def execSeedRR (f : Sched) (d a : Reg) (s : State) : Result := seedWith s f d fun r x => r.readU x a
/-- SEED, immediate form. -/
def execSeedRI (f : Sched) (d : Reg) (imm : BitVec 32) (s : State) : Result := seedWith s f d fun _ _ => imm.setWidth 64

end Sys2Proof.Machine
end

