-- ==== Sys2Proof/Machine/LanePred.lean ====
section
/-! DEFINITION. The lane family (R71, R72) and the predicate family (R73), 0x2B to 0x37. -/
namespace Sys2Proof.Machine

/-! ### Lanes -/

/-- The lane number that a uniform operand or an immediate names: its low five bits. -/
def laneOf (v : Nat) : Nat := v % 32

/-- VBCAST, register form (R71). -/
def execVbcastRR (f : Sched) (t : BitVec 2) (d a b : Reg) (s : State) : Result :=
  fixedL s f 8 t d [a] fun r x _ => r.lBits x [] t a (laneOf (r.readU x b).toNat)

/-- VBCAST, immediate form (R71). -/
def execVbcastRI (f : Sched) (t : BitVec 2) (d a : Reg) (imm : BitVec 32) (s : State) : Result :=
  fixedL s f 8 t d [a] fun r x _ => r.lBits x [] t a (laneOf imm.toNat)

/-- V2S's result: one lane's value extended by its type; the queue port named by A pops. -/
def laneToScalar (s : State) (f : Sched) (t : BitVec 2) (d a : Reg) (k : State → Wave → Nat) : Result :=
  fixed s f 8 fun w _ r x _ u =>
    (u.popPorts x [a]).writeU w s.uid 8 d (widen (vectorW t) (typeSigned t) (r.lBits x [] t a (k r x)))

/-- V2S, register form (R71). -/
def execV2sRR (f : Sched) (t : BitVec 2) (d a b : Reg) (s : State) : Result :=
  laneToScalar s f t d a fun r x => laneOf (r.readU x b).toNat

/-- V2S, immediate form (R71). -/
def execV2sRI (f : Sched) (t : BitVec 2) (d a : Reg) (imm : BitVec 32) (s : State) : Result :=
  laneToScalar s f t d a fun _ _ => laneOf imm.toNat

/-- R71, Table 3.5: the source lane of a shuffle by a mode and an amount. -/
def shuffleLane (mode : BitVec 2) (l k : Nat) : Nat :=
  match mode.toNat with
  | 1 => if k ≤ l then l - k else l
  | 2 => if l + k ≤ 31 then l + k else l
  | 3 => l ^^^ k
  | _ => k

/-- VSHFL, register form (R71): a lane number per lane for .IDX, a uniform amount otherwise. A pair's bits 4:0 stand in its
low register. -/
def execVshflRR (f : Sched) (t mode : BitVec 2) (d a b : Reg) (s : State) : Result :=
  fixedL s f 8 t d (if mode = 0 then [a, b] else [a]) fun r x l =>
    let k := if mode = 0 then laneOf (r.readL x [a] b l).toNat else laneOf (r.readU x b).toNat
    r.lBits x [] t a (shuffleLane mode l k)

/-- VSHFL, immediate form (R71). -/
def execVshflRI (f : Sched) (t mode : BitVec 2) (d a : Reg) (imm : BitVec 32) (s : State) : Result :=
  fixedL s f 8 t d [a] fun r x l => r.lBits x [] t a (shuffleLane mode l (laneOf imm.toNat))

/-- VRED (R72). -/
def execVred (f : Sched) (t op : BitVec 2) (d a : Reg) (s : State) : Result :=
  fixed s f 12 fun w _ r x act u =>
    let xs := ((List.range 32).filter fun l => act.getLsbD l).map (r.lBits x [] t a)
    (u.popPorts x [a]).writeU w s.uid 12 d
      (widen (vectorW t) (typeSigned t) (redLanes op.toNat (vectorW t) (typeSigned t) xs))

/-! ### Predicates -/

/-- PAND (R73). -/
def execPand (f : Sched) (d a b : Reg) (s : State) : Result :=
  fixedP s f 2 d false [] fun r x _ => x.readPred r.free a.toNat &&& x.readPred r.free b.toNat

/-- POR (R73). -/
def execPor (f : Sched) (d a b : Reg) (s : State) : Result :=
  fixedP s f 2 d false [] fun r x _ => x.readPred r.free a.toNat ||| x.readPred r.free b.toNat

/-- PXOR (R73). -/
def execPxor (f : Sched) (d a b : Reg) (s : State) : Result :=
  fixedP s f 2 d false [] fun r x _ => x.readPred r.free a.toNat ^^^ x.readPred r.free b.toNat

/-- PNOT (R73). -/
def execPnot (f : Sched) (d a : Reg) (s : State) : Result :=
  fixedP s f 2 d false [] fun r x _ => ~~~(x.readPred r.free a.toNat)

/-- PMOV (R73). -/
def execPmov (f : Sched) (d a : Reg) (s : State) : Result :=
  fixedP s f 2 d false [] fun r x _ => x.readPred r.free a.toNat

/-- PANY (R73). -/
def execPany (f : Sched) (d a : Reg) (s : State) : Result :=
  fixedP s f 2 d true [] fun r x act => allBits (x.readPred r.free a.toNat &&& act != 0)

/-- PALL (R73). -/
def execPall (f : Sched) (d a : Reg) (s : State) : Result :=
  fixedP s f 2 d true [] fun r x act => allBits (act &&& ~~~(x.readPred r.free a.toNat) == 0)

/-- PSET (R73). -/
def execPset (f : Sched) (d a : Reg) (s : State) : Result :=
  fixedP s f 2 d true [] fun r x _ => (r.readU x a).setWidth 32

end Sys2Proof.Machine
end

