-- ==== Sys2Proof/Machine/Scalar.lean ====
section
/-! DEFINITION. The scalar family (R64 to R66), 0x00 to 0x13. -/
namespace Sys2Proof.Machine

/-- NOP (R74). -/
def execNop (f : Sched) (s : State) : Result := fixed s f 0 fun _ _ _ _ _ t => t

/-- SADD, register form: x + y (R64, R65). -/
def execSaddRR (f : Sched) (t : BitVec 2) (d a b : Reg) (s : State) : Result := scalarRR s f 2 t false false opAdd d a b
/-- SADD, immediate form (R63 to R65). -/
def execSaddRI (f : Sched) (t : BitVec 2) (d a : Reg) (imm : BitVec 32) (s : State) : Result := scalarRI s f 2 t false false opAdd d a imm

/-- SSUB, register form: x − y (R64, R65). -/
def execSsubRR (f : Sched) (t : BitVec 2) (d a b : Reg) (s : State) : Result := scalarRR s f 2 t false false opSub d a b
/-- SSUB, immediate form (R63 to R65). -/
def execSsubRI (f : Sched) (t : BitVec 2) (d a : Reg) (imm : BitVec 32) (s : State) : Result := scalarRI s f 2 t false false opSub d a imm

/-- SMUL, register form: x × y (R64, R65). -/
def execSmulRR (f : Sched) (t : BitVec 2) (d a b : Reg) (s : State) : Result := scalarRR s f 4 t false false opMul d a b
/-- SMUL, immediate form (R63 to R65). -/
def execSmulRI (f : Sched) (t : BitVec 2) (d a : Reg) (imm : BitVec 32) (s : State) : Result := scalarRI s f 4 t false false opMul d a imm

/-- SMULH, register form: the high half of x × y (R64, R65). -/
def execSmulhRR (f : Sched) (t : BitVec 2) (d a b : Reg) (s : State) : Result := scalarRR s f 4 t false false opMulh d a b
/-- SMULH, immediate form (R63 to R65). -/
def execSmulhRI (f : Sched) (t : BitVec 2) (d a : Reg) (imm : BitVec 32) (s : State) : Result := scalarRI s f 4 t false false opMulh d a imm

/-- SDIV, register form: x ÷ y toward zero, all ones for y = 0 (R64, R65). -/
def execSdivRR (f : Sched) (t : BitVec 2) (d a b : Reg) (s : State) : Result := scalarRR s f 16 t false false opDiv d a b
/-- SDIV, immediate form (R63 to R65). -/
def execSdivRI (f : Sched) (t : BitVec 2) (d a : Reg) (imm : BitVec 32) (s : State) : Result := scalarRI s f 16 t false false opDiv d a imm

/-- SAND, register form: bitwise and (R64, R65). -/
def execSandRR (f : Sched) (d a b : Reg) (s : State) : Result := scalarRR s f 2 0 false false opAnd d a b
/-- SAND, immediate form (R63 to R65). -/
def execSandRI (f : Sched) (d a : Reg) (imm : BitVec 32) (s : State) : Result := scalarRI s f 2 0 false false opAnd d a imm

/-- SOR, register form: bitwise or (R64, R65). -/
def execSorRR (f : Sched) (d a b : Reg) (s : State) : Result := scalarRR s f 2 0 false false opOr d a b
/-- SOR, immediate form (R63 to R65). -/
def execSorRI (f : Sched) (d a : Reg) (imm : BitVec 32) (s : State) : Result := scalarRI s f 2 0 false false opOr d a imm

/-- SXOR, register form: bitwise exclusive or (R64, R65). -/
def execSxorRR (f : Sched) (d a b : Reg) (s : State) : Result := scalarRR s f 2 0 false false opXor d a b
/-- SXOR, immediate form (R63 to R65). -/
def execSxorRI (f : Sched) (d a : Reg) (imm : BitVec 32) (s : State) : Result := scalarRI s f 2 0 false false opXor d a imm

/-- SSHL, register form: left shift (R64, R65). -/
def execSshlRR (f : Sched) (t : BitVec 2) (d a b : Reg) (s : State) : Result := scalarRR s f 2 t true true opShl d a b
/-- SSHL, immediate form (R63 to R65). -/
def execSshlRI (f : Sched) (t : BitVec 2) (d a : Reg) (imm : BitVec 32) (s : State) : Result := scalarRI s f 2 t true true opShl d a imm

/-- SSHR, register form: logical right shift (R64, R65). -/
def execSshrRR (f : Sched) (t : BitVec 2) (d a b : Reg) (s : State) : Result := scalarRR s f 2 t true true opShr d a b
/-- SSHR, immediate form (R63 to R65). -/
def execSshrRI (f : Sched) (t : BitVec 2) (d a : Reg) (imm : BitVec 32) (s : State) : Result := scalarRI s f 2 t true true opShr d a imm

/-- SSAR, register form: arithmetic right shift (R64, R65). -/
def execSsarRR (f : Sched) (t : BitVec 2) (d a b : Reg) (s : State) : Result := scalarRR s f 2 t true false opSar d a b
/-- SSAR, immediate form (R63 to R65). -/
def execSsarRI (f : Sched) (t : BitVec 2) (d a : Reg) (imm : BitVec 32) (s : State) : Result := scalarRI s f 2 t true false opSar d a imm

/-- SMIN, register form: the smaller (R64, R65). -/
def execSminRR (f : Sched) (t : BitVec 2) (d a b : Reg) (s : State) : Result := scalarRR s f 2 t false false opMin d a b
/-- SMIN, immediate form (R63 to R65). -/
def execSminRI (f : Sched) (t : BitVec 2) (d a : Reg) (imm : BitVec 32) (s : State) : Result := scalarRI s f 2 t false false opMin d a imm

/-- SMAX, register form: the larger (R64, R65). -/
def execSmaxRR (f : Sched) (t : BitVec 2) (d a b : Reg) (s : State) : Result := scalarRR s f 2 t false false opMax d a b
/-- SMAX, immediate form (R63 to R65). -/
def execSmaxRI (f : Sched) (t : BitVec 2) (d a : Reg) (imm : BitVec 32) (s : State) : Result := scalarRI s f 2 t false false opMax d a imm

/-- SNOT (R64). -/
def execSnot (f : Sched) (d a : Reg) (s : State) : Result := fixedU s f 2 d fun r x _ => ~~~(r.readU x a)

/-- SMOV (R64). -/
def execSmov (f : Sched) (d a : Reg) (s : State) : Result := fixedU s f 2 d fun r x _ => r.readU x a

/-- SLIL (R66). -/
def execSlil (f : Sched) (d : Reg) (imm : BitVec 32) (s : State) : Result := fixedU s f 2 d fun _ _ _ => imm.setWidth 64

/-- SLIH (R66). -/
def execSlih (f : Sched) (d a : Reg) (imm : BitVec 32) (s : State) : Result :=
  fixedU s f 2 d fun r x _ => imm ++ (r.readU x a).setWidth 32

/-- SSEL (R66). -/
def execSsel (f : Sched) (n : BitVec 3) (neg : Bool) (d a b : Reg) (s : State) : Result :=
  fixedU s f 2 d fun r x act =>
    if negIf neg (x.readPred r.free n.toNat) &&& act ≠ 0 then r.readU x a else r.readU x b

/-- SCMP, register form (R66): every bit of the predicate. -/
def execScmpRR (f : Sched) (t : BitVec 2) (cnd : BitVec 3) (d a b : Reg) (s : State) : Result :=
  fixedP s f 2 d true [] fun r x _ =>
    allBits (cond cnd (intOf (scalarW t) (typeSigned t) (r.uBits x (scalarW t) a))
      (intOf (scalarW t) (typeSigned t) (r.uBits x (scalarW t) b)))

/-- SCMP, immediate form (R63, R66). -/
def execScmpRI (f : Sched) (t : BitVec 2) (cnd : BitVec 3) (d a : Reg) (imm : BitVec 32) (s : State) : Result :=
  fixedP s f 2 d true [] fun r x _ =>
    allBits (cond cnd (intOf (scalarW t) (typeSigned t) (r.uBits x (scalarW t) a))
      (intOf (scalarW t) (typeSigned t) (immBits (scalarW t) (typeSigned t) imm)))

end Sys2Proof.Machine
end

