-- ==== Sys2Proof/Machine/VectorInt.lean ====
section
/-! DEFINITION. The vector integer family (R67 to R70), 0x14 to 0x2A. A shift amount is unsigned, per lane. -/
namespace Sys2Proof.Machine

/-- VADD, register form: x + y (R67, R68). -/
def execVaddRR (f : Sched) (t : BitVec 2) (d a b : Reg) (s : State) : Result := vectorRR s f 4 t opAdd d a b
/-- VADD, immediate form (R63, R67, R68). -/
def execVaddRI (f : Sched) (t : BitVec 2) (d a : Reg) (imm : BitVec 32) (s : State) : Result := vectorRI s f 4 t false opAdd d a imm

/-- VSUB, register form: x − y (R67, R68). -/
def execVsubRR (f : Sched) (t : BitVec 2) (d a b : Reg) (s : State) : Result := vectorRR s f 4 t opSub d a b
/-- VSUB, immediate form (R63, R67, R68). -/
def execVsubRI (f : Sched) (t : BitVec 2) (d a : Reg) (imm : BitVec 32) (s : State) : Result := vectorRI s f 4 t false opSub d a imm

/-- VMUL, register form: x × y (R67, R68). -/
def execVmulRR (f : Sched) (t : BitVec 2) (d a b : Reg) (s : State) : Result := vectorRR s f 6 t opMul d a b
/-- VMUL, immediate form (R63, R67, R68). -/
def execVmulRI (f : Sched) (t : BitVec 2) (d a : Reg) (imm : BitVec 32) (s : State) : Result := vectorRI s f 6 t false opMul d a imm

/-- VMULH, register form: the high half of x × y (R67, R68). -/
def execVmulhRR (f : Sched) (t : BitVec 2) (d a b : Reg) (s : State) : Result := vectorRR s f 6 t opMulh d a b
/-- VMULH, immediate form (R63, R67, R68). -/
def execVmulhRI (f : Sched) (t : BitVec 2) (d a : Reg) (imm : BitVec 32) (s : State) : Result := vectorRI s f 6 t false opMulh d a imm

/-- VAND, register form: bitwise and (R67, R68). -/
def execVandRR (f : Sched) (t : BitVec 2) (d a b : Reg) (s : State) : Result := vectorRR s f 4 t opAnd d a b
/-- VAND, immediate form (R63, R67, R68). -/
def execVandRI (f : Sched) (t : BitVec 2) (d a : Reg) (imm : BitVec 32) (s : State) : Result := vectorRI s f 4 t false opAnd d a imm

/-- VOR, register form: bitwise or (R67, R68). -/
def execVorRR (f : Sched) (t : BitVec 2) (d a b : Reg) (s : State) : Result := vectorRR s f 4 t opOr d a b
/-- VOR, immediate form (R63, R67, R68). -/
def execVorRI (f : Sched) (t : BitVec 2) (d a : Reg) (imm : BitVec 32) (s : State) : Result := vectorRI s f 4 t false opOr d a imm

/-- VXOR, register form: bitwise exclusive or (R67, R68). -/
def execVxorRR (f : Sched) (t : BitVec 2) (d a b : Reg) (s : State) : Result := vectorRR s f 4 t opXor d a b
/-- VXOR, immediate form (R63, R67, R68). -/
def execVxorRI (f : Sched) (t : BitVec 2) (d a : Reg) (imm : BitVec 32) (s : State) : Result := vectorRI s f 4 t false opXor d a imm

/-- VSHL, register form: left shift (R67, R68). -/
def execVshlRR (f : Sched) (t : BitVec 2) (d a b : Reg) (s : State) : Result := vectorRR s f 4 t opShl d a b
/-- VSHL, immediate form (R63, R67, R68). -/
def execVshlRI (f : Sched) (t : BitVec 2) (d a : Reg) (imm : BitVec 32) (s : State) : Result := vectorRI s f 4 t true opShl d a imm

/-- VSHR, register form: logical right shift (R67, R68). -/
def execVshrRR (f : Sched) (t : BitVec 2) (d a b : Reg) (s : State) : Result := vectorRR s f 4 t opShr d a b
/-- VSHR, immediate form (R63, R67, R68). -/
def execVshrRI (f : Sched) (t : BitVec 2) (d a : Reg) (imm : BitVec 32) (s : State) : Result := vectorRI s f 4 t true opShr d a imm

/-- VSAR, register form: arithmetic right shift (R67, R68). -/
def execVsarRR (f : Sched) (t : BitVec 2) (d a b : Reg) (s : State) : Result := vectorRR s f 4 t opSar d a b
/-- VSAR, immediate form (R63, R67, R68). -/
def execVsarRI (f : Sched) (t : BitVec 2) (d a : Reg) (imm : BitVec 32) (s : State) : Result := vectorRI s f 4 t true opSar d a imm

/-- VMIN, register form: the smaller (R67, R68). -/
def execVminRR (f : Sched) (t : BitVec 2) (d a b : Reg) (s : State) : Result := vectorRR s f 4 t opMin d a b
/-- VMIN, immediate form (R63, R67, R68). -/
def execVminRI (f : Sched) (t : BitVec 2) (d a : Reg) (imm : BitVec 32) (s : State) : Result := vectorRI s f 4 t false opMin d a imm

/-- VMAX, register form: the larger (R67, R68). -/
def execVmaxRR (f : Sched) (t : BitVec 2) (d a b : Reg) (s : State) : Result := vectorRR s f 4 t opMax d a b
/-- VMAX, immediate form (R63, R67, R68). -/
def execVmaxRI (f : Sched) (t : BitVec 2) (d a : Reg) (imm : BitVec 32) (s : State) : Result := vectorRI s f 4 t false opMax d a imm

/-- VMAD: x × y + z (R67). -/
def execVmad (f : Sched) (t : BitVec 2) (d a b c : Reg) (s : State) : Result :=
  fixedL s f 6 t d [a, b, c] fun r x l =>
    truncTo (vectorW t) (opMul (vectorW t) (typeSigned t) (r.lBits x [] t a l) (r.lBits x [a] t b l) +
      intOf (vectorW t) (typeSigned t) (r.lBits x [a, b] t c l))

/-- VABS (R67). -/
def execVabs (f : Sched) (t : BitVec 2) (d a : Reg) (s : State) : Result :=
  vectorU s f 4 t t d a fun v => (intOf (vectorW t) true v).natAbs

/-- VCMP, register form (R69): the bits of the active lanes. -/
def execVcmpRR (f : Sched) (t : BitVec 2) (cnd : BitVec 3) (d a b : Reg) (s : State) : Result :=
  fixedP s f 4 d false [a, b] fun r x _ => laneBits fun l =>
    cond cnd (intOf (vectorW t) (typeSigned t) (r.lBits x [] t a l)) (intOf (vectorW t) (typeSigned t) (r.lBits x [a] t b l))

/-- VCMP, immediate form (R63, R69). -/
def execVcmpRI (f : Sched) (t : BitVec 2) (cnd : BitVec 3) (d a : Reg) (imm : BitVec 32) (s : State) : Result :=
  fixedP s f 4 d false [a] fun r x _ => laneBits fun l =>
    cond cnd (intOf (vectorW t) (typeSigned t) (r.lBits x [] t a l))
      (intOf (vectorW t) (typeSigned t) (immBits (vectorW t) (typeSigned t) imm))

/-- VSEL (R69). -/
def execVsel (f : Sched) (t : BitVec 2) (n : BitVec 3) (neg : Bool) (d a b : Reg) (s : State) : Result :=
  fixedL s f 4 t d [a, b] fun r x l =>
    if (negIf neg (x.readPred r.free n.toNat)).getLsbD l then r.lBits x [] t a l else r.lBits x [a] t b l

/-- VPOPC (R67): a 32-bit result for either type. -/
def execVpopc (f : Sched) (t : BitVec 2) (d a : Reg) (s : State) : Result :=
  vectorU s f 4 t 0 d a fun v => onesOf (vectorW t) v

/-- VCLZ (R67): a 32-bit result for either type. -/
def execVclz (f : Sched) (t : BitVec 2) (d a : Reg) (s : State) : Result :=
  vectorU s f 4 t 0 d a fun v => leadZeros (vectorW t) v

/-- VBFE, register form (R69). -/
def execVbfeRR (f : Sched) (t : BitVec 2) (d a b : Reg) (s : State) : Result :=
  fixedL s f 4 t d [a, b] fun r x l =>
    fieldExtract (vectorW t) (typeSigned t) (r.lBits x [] t a l) (r.lBits x [a] t b l)

/-- VBFE, immediate form (R69). -/
def execVbfeRI (f : Sched) (t : BitVec 2) (d a : Reg) (imm : BitVec 32) (s : State) : Result :=
  fixedL s f 4 t d [a] fun r x l => fieldExtract (vectorW t) (typeSigned t) (r.lBits x [] t a l) imm.toNat

/-- VBFI, register form (R69). -/
def execVbfiRR (f : Sched) (t : BitVec 2) (d a b c : Reg) (s : State) : Result :=
  fixedL s f 4 t d [a, b, c] fun r x l =>
    fieldInsert (vectorW t) (r.lBits x [] t a l) (r.lBits x [a] t b l) (r.lBits x [a, b] t c l)

/-- VBFI, immediate form (R69): over the old value of D, or over zero for a port or Z. -/
def execVbfiRI (f : Sched) (t : BitVec 2) (d a : Reg) (imm : BitVec 32) (s : State) : Result :=
  fixedL s f 4 t d [a] fun r x l =>
    fieldInsert (vectorW t) (r.lBits x [] t a l) imm.toNat (if isV d then r.lBits x [a] t d l else 0)

/-- VMOV (R67). -/
def execVmov (f : Sched) (t : BitVec 2) (d a : Reg) (s : State) : Result := vectorU s f 4 t t d a fun v => v

/-- VLI (R63, R67). -/
def execVli (f : Sched) (t : BitVec 2) (d : Reg) (imm : BitVec 32) (s : State) : Result :=
  fixedL s f 4 t d [] fun _ _ _ => immBits (vectorW t) (typeSigned t) imm

/-- VADDR, register form (R70). -/
def execVaddrRR (f : Sched) (scl : BitVec 3) (uns : Bool) (d a b : Reg) (s : State) : Result :=
  fixedL s f 4 2 d [b] fun r x l =>
    let v := r.readL x [] b l
    (r.readL64 x a l + (if uns then v.setWidth 64 else v.signExtend 64) * BitVec.ofNat 64 (2 ^ scl.toNat)).toNat

/-- VADDR, immediate form (R70). -/
def execVaddrRI (f : Sched) (d a : Reg) (imm : BitVec 32) (s : State) : Result :=
  fixedL s f 4 2 d [] fun r x l => (r.readL64 x a l + imm.signExtend 64).toNat

end Sys2Proof.Machine
end

