-- ==== Sys2Proof/Machine/Dispatch.lean ====
section
/-! DEFINITION. One arm per row of the opcode table: the meaning of each instruction and event. -/
namespace Sys2Proof.Machine

/-- What one instruction or event does. -/
def exec (i : Instr) (s : State) : Host.Outcome State Fault Refusal :=
  match i with
  | .nop f => Sys2Proof.Machine.execNop f s
  | .saddRR f t d a b => Sys2Proof.Machine.execSaddRR f t d a b s
  | .saddRI f t d a imm => Sys2Proof.Machine.execSaddRI f t d a imm s
  | .ssubRR f t d a b => Sys2Proof.Machine.execSsubRR f t d a b s
  | .ssubRI f t d a imm => Sys2Proof.Machine.execSsubRI f t d a imm s
  | .smulRR f t d a b => Sys2Proof.Machine.execSmulRR f t d a b s
  | .smulRI f t d a imm => Sys2Proof.Machine.execSmulRI f t d a imm s
  | .smulhRR f t d a b => Sys2Proof.Machine.execSmulhRR f t d a b s
  | .smulhRI f t d a imm => Sys2Proof.Machine.execSmulhRI f t d a imm s
  | .sdivRR f t d a b => Sys2Proof.Machine.execSdivRR f t d a b s
  | .sdivRI f t d a imm => Sys2Proof.Machine.execSdivRI f t d a imm s
  | .sandRR f d a b => Sys2Proof.Machine.execSandRR f d a b s
  | .sandRI f d a imm => Sys2Proof.Machine.execSandRI f d a imm s
  | .sorRR f d a b => Sys2Proof.Machine.execSorRR f d a b s
  | .sorRI f d a imm => Sys2Proof.Machine.execSorRI f d a imm s
  | .sxorRR f d a b => Sys2Proof.Machine.execSxorRR f d a b s
  | .sxorRI f d a imm => Sys2Proof.Machine.execSxorRI f d a imm s
  | .snot f d a => Sys2Proof.Machine.execSnot f d a s
  | .sshlRR f t d a b => Sys2Proof.Machine.execSshlRR f t d a b s
  | .sshlRI f t d a imm => Sys2Proof.Machine.execSshlRI f t d a imm s
  | .sshrRR f t d a b => Sys2Proof.Machine.execSshrRR f t d a b s
  | .sshrRI f t d a imm => Sys2Proof.Machine.execSshrRI f t d a imm s
  | .ssarRR f t d a b => Sys2Proof.Machine.execSsarRR f t d a b s
  | .ssarRI f t d a imm => Sys2Proof.Machine.execSsarRI f t d a imm s
  | .sminRR f t d a b => Sys2Proof.Machine.execSminRR f t d a b s
  | .sminRI f t d a imm => Sys2Proof.Machine.execSminRI f t d a imm s
  | .smaxRR f t d a b => Sys2Proof.Machine.execSmaxRR f t d a b s
  | .smaxRI f t d a imm => Sys2Proof.Machine.execSmaxRI f t d a imm s
  | .smov f d a => Sys2Proof.Machine.execSmov f d a s
  | .slil f d imm => Sys2Proof.Machine.execSlil f d imm s
  | .slih f d a imm => Sys2Proof.Machine.execSlih f d a imm s
  | .ssel f n neg d a b => Sys2Proof.Machine.execSsel f n neg d a b s
  | .scmpRR f t cnd d a b => Sys2Proof.Machine.execScmpRR f t cnd d a b s
  | .scmpRI f t cnd d a imm => Sys2Proof.Machine.execScmpRI f t cnd d a imm s
  | .vaddRR f t d a b => Sys2Proof.Machine.execVaddRR f t d a b s
  | .vaddRI f t d a imm => Sys2Proof.Machine.execVaddRI f t d a imm s
  | .vsubRR f t d a b => Sys2Proof.Machine.execVsubRR f t d a b s
  | .vsubRI f t d a imm => Sys2Proof.Machine.execVsubRI f t d a imm s
  | .vmulRR f t d a b => Sys2Proof.Machine.execVmulRR f t d a b s
  | .vmulRI f t d a imm => Sys2Proof.Machine.execVmulRI f t d a imm s
  | .vmulhRR f t d a b => Sys2Proof.Machine.execVmulhRR f t d a b s
  | .vmulhRI f t d a imm => Sys2Proof.Machine.execVmulhRI f t d a imm s
  | .vmad f t d a b c => Sys2Proof.Machine.execVmad f t d a b c s
  | .vandRR f t d a b => Sys2Proof.Machine.execVandRR f t d a b s
  | .vandRI f t d a imm => Sys2Proof.Machine.execVandRI f t d a imm s
  | .vorRR f t d a b => Sys2Proof.Machine.execVorRR f t d a b s
  | .vorRI f t d a imm => Sys2Proof.Machine.execVorRI f t d a imm s
  | .vxorRR f t d a b => Sys2Proof.Machine.execVxorRR f t d a b s
  | .vxorRI f t d a imm => Sys2Proof.Machine.execVxorRI f t d a imm s
  | .vshlRR f t d a b => Sys2Proof.Machine.execVshlRR f t d a b s
  | .vshlRI f t d a imm => Sys2Proof.Machine.execVshlRI f t d a imm s
  | .vshrRR f t d a b => Sys2Proof.Machine.execVshrRR f t d a b s
  | .vshrRI f t d a imm => Sys2Proof.Machine.execVshrRI f t d a imm s
  | .vsarRR f t d a b => Sys2Proof.Machine.execVsarRR f t d a b s
  | .vsarRI f t d a imm => Sys2Proof.Machine.execVsarRI f t d a imm s
  | .vminRR f t d a b => Sys2Proof.Machine.execVminRR f t d a b s
  | .vminRI f t d a imm => Sys2Proof.Machine.execVminRI f t d a imm s
  | .vmaxRR f t d a b => Sys2Proof.Machine.execVmaxRR f t d a b s
  | .vmaxRI f t d a imm => Sys2Proof.Machine.execVmaxRI f t d a imm s
  | .vabs f t d a => Sys2Proof.Machine.execVabs f t d a s
  | .vcmpRR f t cnd d a b => Sys2Proof.Machine.execVcmpRR f t cnd d a b s
  | .vcmpRI f t cnd d a imm => Sys2Proof.Machine.execVcmpRI f t cnd d a imm s
  | .vsel f t n neg d a b => Sys2Proof.Machine.execVsel f t n neg d a b s
  | .vpopc f t d a => Sys2Proof.Machine.execVpopc f t d a s
  | .vclz f t d a => Sys2Proof.Machine.execVclz f t d a s
  | .vbfeRR f t d a b => Sys2Proof.Machine.execVbfeRR f t d a b s
  | .vbfeRI f t d a imm => Sys2Proof.Machine.execVbfeRI f t d a imm s
  | .vbfiRR f t d a b c => Sys2Proof.Machine.execVbfiRR f t d a b c s
  | .vbfiRI f t d a imm => Sys2Proof.Machine.execVbfiRI f t d a imm s
  | .vmov f t d a => Sys2Proof.Machine.execVmov f t d a s
  | .vli f t d imm => Sys2Proof.Machine.execVli f t d imm s
  | .vaddrRR f scl uns d a b => Sys2Proof.Machine.execVaddrRR f scl uns d a b s
  | .vaddrRI f d a imm => Sys2Proof.Machine.execVaddrRI f d a imm s
  | .vbcastRR f t d a b => Sys2Proof.Machine.execVbcastRR f t d a b s
  | .vbcastRI f t d a imm => Sys2Proof.Machine.execVbcastRI f t d a imm s
  | .v2sRR f t d a b => Sys2Proof.Machine.execV2sRR f t d a b s
  | .v2sRI f t d a imm => Sys2Proof.Machine.execV2sRI f t d a imm s
  | .vshflRR f t mode d a b => Sys2Proof.Machine.execVshflRR f t mode d a b s
  | .vshflRI f t mode d a imm => Sys2Proof.Machine.execVshflRI f t mode d a imm s
  | .vred f t op d a => Sys2Proof.Machine.execVred f t op d a s
  | .pand f d a b => Sys2Proof.Machine.execPand f d a b s
  | .por f d a b => Sys2Proof.Machine.execPor f d a b s
  | .pxor f d a b => Sys2Proof.Machine.execPxor f d a b s
  | .pnot f d a => Sys2Proof.Machine.execPnot f d a s
  | .pmov f d a => Sys2Proof.Machine.execPmov f d a s
  | .pany f d a => Sys2Proof.Machine.execPany f d a s
  | .pall f d a => Sys2Proof.Machine.execPall f d a s
  | .pset f d a => Sys2Proof.Machine.execPset f d a s
  | .bra f disp => Sys2Proof.Machine.execBra f disp s
  | .brc f n neg mode disp => Sys2Proof.Machine.execBrc f n neg mode disp s
  | .brd f n neg jlo jhi disp => Sys2Proof.Machine.execBrd f n neg jlo jhi disp s
  | .join f => Sys2Proof.Machine.execJoin f s
  | .call f d disp => Sys2Proof.Machine.execCall f d disp s
  | .ret f a => Sys2Proof.Machine.execRet f a s
  | .loop f d disp => Sys2Proof.Machine.execLoop f d disp s
  | .exit f => Sys2Proof.Machine.execExit f s
  | .vfadd f ft rm d a b => Sys2Proof.Machine.execVfadd f ft rm d a b s
  | .vfsub f ft rm d a b => Sys2Proof.Machine.execVfsub f ft rm d a b s
  | .vfmul f ft rm d a b => Sys2Proof.Machine.execVfmul f ft rm d a b s
  | .vfma f ft rm d a b c => Sys2Proof.Machine.execVfma f ft rm d a b c s
  | .vfmin f ft d a b => Sys2Proof.Machine.execVfmin f ft d a b s
  | .vfmax f ft d a b => Sys2Proof.Machine.execVfmax f ft d a b s
  | .vfcmp f cnd d a b => Sys2Proof.Machine.execVfcmp f cnd d a b s
  | .vfabs f ft d a => Sys2Proof.Machine.execVfabs f ft d a s
  | .vfneg f ft d a => Sys2Proof.Machine.execVfneg f ft d a s
  | .vrcp f d a => Sys2Proof.Machine.execVrcp f d a s
  | .vrsq f d a => Sys2Proof.Machine.execVrsq f d a s
  | .vexp2 f d a => Sys2Proof.Machine.execVexp2 f d a s
  | .vlog2 f d a => Sys2Proof.Machine.execVlog2 f d a s
  | .cvt f df sf rm sat ei d a => Sys2Proof.Machine.execCvt f df sf rm sat ei d a s
  | .vpack f df rm sat d a => Sys2Proof.Machine.execVpack f df rm sat d a s
  | .vpackMx8 f mx4 rm d a b c => Sys2Proof.Machine.execVpackMx8 f mx4 rm d a b c s
  | .vunpack f df sf rm d a b => Sys2Proof.Machine.execVunpack f df sf rm d a b s
  | .seedRR f d a => Sys2Proof.Machine.execSeedRR f d a s
  | .seedRI f d imm => Sys2Proof.Machine.execSeedRI f d imm s
  | .ldS f off ty d a => Sys2Proof.Machine.execLdS f off ty d a s
  | .ldV f off ty d a => Sys2Proof.Machine.execLdV f off ty d a s
  | .ldVb f off cnt d a => Sys2Proof.Machine.execLdVb f off cnt d a s
  | .ldT f off cnt d a b => Sys2Proof.Machine.execLdT f off cnt d a b s
  | .ldLast f off ty d a => Sys2Proof.Machine.execLdLast f off ty d a s
  | .stS f off ty d a => Sys2Proof.Machine.execStS f off ty d a s
  | .stV f off ty d a => Sys2Proof.Machine.execStV f off ty d a s
  | .stVb f off cnt d a => Sys2Proof.Machine.execStVb f off cnt d a s
  | .stPair f off cnt d a b => Sys2Proof.Machine.execStPair f off cnt d a b s
  | .pref f off lv a b => Sys2Proof.Machine.execPref f off lv a b s
  | .pin f off d a b => Sys2Proof.Machine.execPin f off d a b s
  | .unpin f off d a b => Sys2Proof.Machine.execUnpin f off d a b s
  | .wbr f off a b => Sys2Proof.Machine.execWbr f off a b s
  | .red f off ty sc op d a => Sys2Proof.Machine.execRed f off ty sc op d a s
  | .atom f off ty sc op d a b => Sys2Proof.Machine.execAtom f off ty sc op d a b s
  | .cas f off ty sc d a b => Sys2Proof.Machine.execCas f off ty sc d a b s
  | .arenaNew f pn d a b => Sys2Proof.Machine.execArenaNew f pn d a b s
  | .arenaAlloc f pn aln d a b => Sys2Proof.Machine.execArenaAlloc f pn aln d a b s
  | .arenaSeal f a => Sys2Proof.Machine.execArenaSeal f a s
  | .arenaReset f d a => Sys2Proof.Machine.execArenaReset f d a s
  | .arenaDrop f a => Sys2Proof.Machine.execArenaDrop f a s
  | .arenaQuota f d a b => Sys2Proof.Machine.execArenaQuota f d a b s
  | .arenaInfo f off pn sel d a => Sys2Proof.Machine.execArenaInfo f off pn sel d a s
  | .waitc f n k => Sys2Proof.Machine.execWaitc f n k s
  | .waitcTest f n k d => Sys2Proof.Machine.execWaitcTest f n k d s
  | .bar f bn n => Sys2Proof.Machine.execBar f bn n s
  | .hdlInit f off a b => Sys2Proof.Machine.execHdlInit f off a b s
  | .hdlInitRelease f off a b => Sys2Proof.Machine.execHdlInitRelease f off a b s
  | .hdlExpect f off a b => Sys2Proof.Machine.execHdlExpect f off a b s
  | .hdlArrive f off a b => Sys2Proof.Machine.execHdlArrive f off a b s
  | .hdlWait f off a b => Sys2Proof.Machine.execHdlWait f off a b s
  | .hdlTest f off d a b => Sys2Proof.Machine.execHdlTest f off d a b s
  | .watch f off n d a => Sys2Proof.Machine.execWatch f off n d a s
  | .waitw f mask limit d => Sys2Proof.Machine.execWaitw f mask limit d s
  | .yield f kind n k a b => Sys2Proof.Machine.execYield f kind n k a b s
  | .qbind f fifo on d => Sys2Proof.Machine.execQbind f fifo on d s
  | .enq f off d a b => Sys2Proof.Machine.execEnq f off d a b s
  | .spawn f off d a b => Sys2Proof.Machine.execSpawn f off d a b s
  | .viewDecl f off fmt op pn d a b => Sys2Proof.Machine.execViewDecl f off fmt op pn d a b s
  | .viewInfo f sel d a => Sys2Proof.Machine.execViewInfo f sel d a s
  | .tend f => Sys2Proof.Machine.execTend f s
  | .mw f k a b => Sys2Proof.Machine.execMw f k a b s
  | .mws f k a b => Sys2Proof.Machine.execMws f k a b s
  | .mswap f => Sys2Proof.Machine.execMswap f s
  | .ms f z d a b => Sys2Proof.Machine.execMs f z d a b s
  | .mst f z d a b => Sys2Proof.Machine.execMst f z d a b s
  | .mchain f cm1 => Sys2Proof.Machine.execMchain f cm1 s
  | .mq f sel clr d => Sys2Proof.Machine.execMq f sel clr d s
  | .cp f ch exp d a b => Sys2Proof.Machine.execCp f ch exp d a b s
  | .cpG f ch exp d a b => Sys2Proof.Machine.execCpG f ch exp d a b s
  | .cpS f ch exp d a b => Sys2Proof.Machine.execCpS f ch exp d a b s
  | .cpRed f ch exp fmt op d a b => Sys2Proof.Machine.execCpRed f ch exp fmt op d a b s
  | .cpwp f ch d => Sys2Proof.Machine.execCpwp f ch d s
  | .collAr f exp fmt op d a b => Sys2Proof.Machine.execCollAr f exp fmt op d a b s
  | .collAg f exp d a b => Sys2Proof.Machine.execCollAg f exp d a b s
  | .collRs f exp fmt op d a b => Sys2Proof.Machine.execCollRs f exp fmt op d a b s
  | .collBc f exp d a b => Sys2Proof.Machine.execCollBc f exp d a b s
  | .netGet f exp d a b => Sys2Proof.Machine.execNetGet f exp d a b s
  | .netPut f exp d a b => Sys2Proof.Machine.execNetPut f exp d a b s
  | .netRead f exp d a b => Sys2Proof.Machine.execNetRead f exp d a b s
  | .trap f n d a b => Sys2Proof.Machine.execTrap f n d a b s
  | .brk f n => Sys2Proof.Machine.execBrk f n s
  | .rft f => Sys2Proof.Machine.execRft f s
  | .sysrd f reg inst d => Sys2Proof.Machine.execSysrd f reg inst d s
  | .syswr f reg inst a => Sys2Proof.Machine.execSyswr f reg inst a s
  | .tinv f ctx all a b => Sys2Proof.Machine.execTinv f ctx all a b s
  | .halt f mask limit d => Sys2Proof.Machine.execHalt f mask limit d s
  | .snap f d a b => Sys2Proof.Machine.execSnap f d a b s
  | .slotset f g d a => Sys2Proof.Machine.execSlotset f g d a s
  | .accessPerform agent => Sys2Proof.Machine.execAccessPerform agent s
  | .syncPushAck agent cluster => Sys2Proof.Machine.execSyncPushAck agent cluster s
  | .l1RenewalReply agent => Sys2Proof.Machine.execL1RenewalReply agent s
  | .faultReply agent => Sys2Proof.Machine.execFaultReply agent s
  | .engineStart cmd => Sys2Proof.Machine.execEngineStart cmd s
  | .engineComplete cmd => Sys2Proof.Machine.execEngineComplete cmd s
  | .hurdleTimeout agent pcb => Sys2Proof.Machine.execHurdleTimeout agent pcb s
  | .waitwLimitExpiry agent pcb => Sys2Proof.Machine.execWaitwLimitExpiry agent pcb s
  | .haltWake agent => Sys2Proof.Machine.execHaltWake agent s
  | .watchdog block => Sys2Proof.Machine.execWatchdog block s
  | .ptsCreep core => Sys2Proof.Machine.execPtsCreep core s
  | .yieldSave block => Sys2Proof.Machine.execYieldSave block s
  | .yieldResumeRecord task => Sys2Proof.Machine.execYieldResumeRecord task s
  | .tendPoint block => Sys2Proof.Machine.execTendPoint block s
  | .mergeComplete task => Sys2Proof.Machine.execMergeComplete task s
  | .taskPlace node => Sys2Proof.Machine.execTaskPlace node s
  | .batchTimerExpiry node => Sys2Proof.Machine.execBatchTimerExpiry node s
  | .f0Refill block => Sys2Proof.Machine.execF0Refill block s
  | .lapStart => Sys2Proof.Machine.execLapStart s
  | .scrubAndDropSweep slice => Sys2Proof.Machine.execScrubAndDropSweep slice s
  | .lineEviction line => Sys2Proof.Machine.execLineEviction line s
  | .snapshotDrain snap => Sys2Proof.Machine.execSnapshotDrain snap s
  | .frozenGranuleCopy agent => Sys2Proof.Machine.execFrozenGranuleCopy agent s
  | .migrationSlot => Sys2Proof.Machine.execMigrationSlot s
  | .telemetrySlot stack => Sys2Proof.Machine.execTelemetrySlot stack s
  | .collAnnouncement cmd => Sys2Proof.Machine.execCollAnnouncement cmd s
  | .collTimeLimit cmd => Sys2Proof.Machine.execCollTimeLimit cmd s
  | .endpointTimeLimit cmd => Sys2Proof.Machine.execEndpointTimeLimit cmd s
  | .transportFailure cmd => Sys2Proof.Machine.execTransportFailure cmd s
  | .nvmeCompletion cmd status => Sys2Proof.Machine.execNvmeCompletion cmd status s
  | .nopPacket queue => Sys2Proof.Machine.execNopPacket queue s
  | .recordPacket queue => Sys2Proof.Machine.execRecordPacket queue s
  | .nodeDef queue => Sys2Proof.Machine.execNodeDef queue s
  | .nodeDel queue => Sys2Proof.Machine.execNodeDel queue s
  | .commDef queue => Sys2Proof.Machine.execCommDef queue s
  | .epDef queue => Sys2Proof.Machine.execEpDef queue s
  | .vpool queue => Sys2Proof.Machine.execVpool queue s
  | .qcreate queue => Sys2Proof.Machine.execQcreate queue s
  | .qdestroy queue => Sys2Proof.Machine.execQdestroy queue s
  | .aminv agent => Sys2Proof.Machine.execAminv agent s
  | .fqreplyResume agent => Sys2Proof.Machine.execFqreplyResume agent s
  | .fqreplyDecline agent => Sys2Proof.Machine.execFqreplyDecline agent s
  | .migrate agent => Sys2Proof.Machine.execMigrate agent s
  | .unmap agent => Sys2Proof.Machine.execUnmap agent s
  | .icmsg agent => Sys2Proof.Machine.execIcmsg agent s
  | .hirq agent => Sys2Proof.Machine.execHirq agent s
  | .vacate agent => Sys2Proof.Machine.execVacate agent s
  | .crst agent => Sys2Proof.Machine.execCrst agent s
  | .l2hmWrite agent => Sys2Proof.Machine.execL2hmWrite agent s
  | .pwrstRequest agent => Sys2Proof.Machine.execPwrstRequest agent s
  | .clusterPowerStateReached cluster => Sys2Proof.Machine.execClusterPowerStateReached cluster s
  | .herrRead agent => Sys2Proof.Machine.execHerrRead agent s
  | .icpendRead agent => Sys2Proof.Machine.execIcpendRead agent s
  | .clampcRead agent => Sys2Proof.Machine.execClampcRead agent s
  | .srdropRead agent => Sys2Proof.Machine.execSrdropRead agent s
  | .sysregWrite agent => Sys2Proof.Machine.execSysregWrite agent s
  | .asynchronousCompletion op => Sys2Proof.Machine.execAsynchronousCompletion op s
  | .getCertificate slot => Sys2Proof.Machine.execGetCertificate slot s
  | .challenge slot => Sys2Proof.Machine.execChallenge slot s
  | .getMeasurements index => Sys2Proof.Machine.execGetMeasurements index s
  | .unsupportedRequest code => Sys2Proof.Machine.execUnsupportedRequest code s
  | .powerClamp core => Sys2Proof.Machine.execPowerClamp core s
  | .thermalTrip die temp => Sys2Proof.Machine.execThermalTrip die temp s
  | .thermalResume die temp => Sys2Proof.Machine.execThermalResume die temp s
  | .backInvalidateAcknowledged line data => Sys2Proof.Machine.execBackInvalidateAcknowledged line data s
  | .firmwareEndsTheTask task => Sys2Proof.Machine.execFirmwareEndsTheTask task s
  | .groupRetrains group => Sys2Proof.Machine.execGroupRetrains group s
  | .peerRemoteAccess ep va kind pts bytes => Sys2Proof.Machine.execPeerRemoteAccess ep va kind pts bytes s
  | .hostCxlMemRead req => Sys2Proof.Machine.execHostCxlMemRead req s
  | .hostCxlMemWrite hpa bytes => Sys2Proof.Machine.execHostCxlMemWrite hpa bytes s
  | .snpData line => Sys2Proof.Machine.execSnpData line s
  | .snpInv line => Sys2Proof.Machine.execSnpInv line s
  | .snpCur line => Sys2Proof.Machine.execSnpCur line s
  | .getVersion => Sys2Proof.Machine.execGetVersion s
  | .getCapabilities => Sys2Proof.Machine.execGetCapabilities s
  | .negotiateAlgorithms => Sys2Proof.Machine.execNegotiateAlgorithms s
  | .getDigests => Sys2Proof.Machine.execGetDigests s
  | .cdatRequest => Sys2Proof.Machine.execCdatRequest s
  | .powerOnReset => Sys2Proof.Machine.execPowerOnReset s
  | .functionLevelReset => Sys2Proof.Machine.execFunctionLevelReset s
  | .linkDown => Sys2Proof.Machine.execLinkDown s
  | .linkUp => Sys2Proof.Machine.execLinkUp s

end Sys2Proof.Machine
end

