-- ==== Sys2Proof/WellFormed.lean ====
section
/-! DEFINITION. A well-formed instruction: one that a word passing checks 1 to 7 of Table 1.11 stands for. -/
namespace Sys2Proof
open Sys2Proof.Machine

/-- R25, R38: the scheduling fields pass checks 2 and 7. -/
def schedOk (i : Instr) (f : Sched) : Bool :=
  (decide (f.sig.toNat < 12) || f.sig == 15) && f.guard != 15 && (!mustBeUnguarded i || f.guard == 7)

/-- An instruction that a decoded word stands for: its modifiers, operands and scheduling fields pass the checks of
Table 1.11. No event is one, nor is HDL.INIT with RELEASE: its word is that of HDL.INIT (R126). -/
def WellFormed (i : Instr) : Prop :=
  modOk i = true ∧ opsOk i = true ∧ (∃ f, schedOf i = some f ∧ schedOk i f = true)

/-- The same as a Boolean. -/
def wellFormed (i : Instr) : Bool :=
  modOk i && opsOk i && (match schedOf i with
    | some f => schedOk i f
    | none => false)

theorem wellFormed_iff (i : Instr) : wellFormed i = true ↔ WellFormed i := by
  unfold wellFormed WellFormed
  cases schedOf i <;> simp [and_assoc]

end Sys2Proof
end

