-- ==== Sys2Proof/Decode.lean ====
section
/-! DEFINITION. The decoder of 96-bit instruction words (R12 to R14, R38), total and rejecting by the number of the
first failed check of Table 1.11, and after it the encoder, written from the same encoding tables. -/
namespace Sys2Proof
open Sys2Proof.Machine

/-- The fields of Table 1.1: a word cut up, before any form is known. -/
structure Raw where
  fmt : BitVec 3
  sched : Sched
  mid : BitVec 32
  b : Reg
  a : Reg
  d : Reg
  opc : BitVec 8
  deriving DecidableEq, Repr

/-- Table 1.1: the fields of a word. -/
def rawOf (w : BitVec 96) : Raw :=
  { fmt := w.extractLsb' 93 3
    sched := { stall := w.extractLsb' 87 6, wait := w.extractLsb' 75 12, sig := w.extractLsb' 71 4,
               yld := w.getLsbD 70, reuse := w.extractLsb' 68 2, guard := w.extractLsb' 64 4 }
    mid := w.extractLsb' 32 32, b := w.extractLsb' 24 8, a := w.extractLsb' 16 8, d := w.extractLsb' 8 8,
    opc := w.extractLsb' 0 8 }

/-- The RR forms (Table 1.10) by opcode; none where the opcode does not admit the format. -/
def buildRR (r : Raw) : Option Instr :=
  match r.opc.toNat with
  | 0x00 => some (.nop r.sched )
  | 0x01 => some (.saddRR r.sched (r.mid.extractLsb' 8 2) r.d r.a r.b)
  | 0x02 => some (.ssubRR r.sched (r.mid.extractLsb' 8 2) r.d r.a r.b)
  | 0x03 => some (.smulRR r.sched (r.mid.extractLsb' 8 2) r.d r.a r.b)
  | 0x04 => some (.smulhRR r.sched (r.mid.extractLsb' 8 2) r.d r.a r.b)
  | 0x05 => some (.sdivRR r.sched (r.mid.extractLsb' 8 2) r.d r.a r.b)
  | 0x06 => some (.sandRR r.sched r.d r.a r.b)
  | 0x07 => some (.sorRR r.sched r.d r.a r.b)
  | 0x08 => some (.sxorRR r.sched r.d r.a r.b)
  | 0x09 => some (.snot r.sched r.d r.a)
  | 0x0A => some (.sshlRR r.sched (r.mid.extractLsb' 8 2) r.d r.a r.b)
  | 0x0B => some (.sshrRR r.sched (r.mid.extractLsb' 8 2) r.d r.a r.b)
  | 0x0C => some (.ssarRR r.sched (r.mid.extractLsb' 8 2) r.d r.a r.b)
  | 0x0D => some (.sminRR r.sched (r.mid.extractLsb' 8 2) r.d r.a r.b)
  | 0x0E => some (.smaxRR r.sched (r.mid.extractLsb' 8 2) r.d r.a r.b)
  | 0x0F => some (.smov r.sched r.d r.a)
  | 0x12 => some (.ssel r.sched (r.mid.extractLsb' 10 3) (r.mid.getLsbD 13) r.d r.a r.b)
  | 0x13 => some (.scmpRR r.sched (r.mid.extractLsb' 8 2) (r.mid.extractLsb' 10 3) r.d r.a r.b)
  | 0x14 => some (.vaddRR r.sched (r.mid.extractLsb' 8 2) r.d r.a r.b)
  | 0x15 => some (.vsubRR r.sched (r.mid.extractLsb' 8 2) r.d r.a r.b)
  | 0x16 => some (.vmulRR r.sched (r.mid.extractLsb' 8 2) r.d r.a r.b)
  | 0x17 => some (.vmulhRR r.sched (r.mid.extractLsb' 8 2) r.d r.a r.b)
  | 0x18 => some (.vmad r.sched (r.mid.extractLsb' 8 2) r.d r.a r.b (r.mid.extractLsb' 0 8))
  | 0x19 => some (.vandRR r.sched (r.mid.extractLsb' 8 2) r.d r.a r.b)
  | 0x1A => some (.vorRR r.sched (r.mid.extractLsb' 8 2) r.d r.a r.b)
  | 0x1B => some (.vxorRR r.sched (r.mid.extractLsb' 8 2) r.d r.a r.b)
  | 0x1C => some (.vshlRR r.sched (r.mid.extractLsb' 8 2) r.d r.a r.b)
  | 0x1D => some (.vshrRR r.sched (r.mid.extractLsb' 8 2) r.d r.a r.b)
  | 0x1E => some (.vsarRR r.sched (r.mid.extractLsb' 8 2) r.d r.a r.b)
  | 0x1F => some (.vminRR r.sched (r.mid.extractLsb' 8 2) r.d r.a r.b)
  | 0x20 => some (.vmaxRR r.sched (r.mid.extractLsb' 8 2) r.d r.a r.b)
  | 0x21 => some (.vabs r.sched (r.mid.extractLsb' 8 2) r.d r.a)
  | 0x22 => some (.vcmpRR r.sched (r.mid.extractLsb' 8 2) (r.mid.extractLsb' 10 3) r.d r.a r.b)
  | 0x23 => some (.vsel r.sched (r.mid.extractLsb' 8 2) (r.mid.extractLsb' 10 3) (r.mid.getLsbD 13) r.d r.a r.b)
  | 0x24 => some (.vpopc r.sched (r.mid.extractLsb' 8 2) r.d r.a)
  | 0x25 => some (.vclz r.sched (r.mid.extractLsb' 8 2) r.d r.a)
  | 0x26 => some (.vbfeRR r.sched (r.mid.extractLsb' 8 2) r.d r.a r.b)
  | 0x27 => some (.vbfiRR r.sched (r.mid.extractLsb' 8 2) r.d r.a r.b (r.mid.extractLsb' 0 8))
  | 0x28 => some (.vmov r.sched (r.mid.extractLsb' 8 2) r.d r.a)
  | 0x2A => some (.vaddrRR r.sched (r.mid.extractLsb' 8 3) (r.mid.getLsbD 11) r.d r.a r.b)
  | 0x2B => some (.vbcastRR r.sched (r.mid.extractLsb' 8 2) r.d r.a r.b)
  | 0x2C => some (.v2sRR r.sched (r.mid.extractLsb' 8 2) r.d r.a r.b)
  | 0x2D => some (.vshflRR r.sched (r.mid.extractLsb' 8 2) (r.mid.extractLsb' 10 2) r.d r.a r.b)
  | 0x2E => some (.vred r.sched (r.mid.extractLsb' 8 2) (r.mid.extractLsb' 10 2) r.d r.a)
  | 0x30 => some (.pand r.sched r.d r.a r.b)
  | 0x31 => some (.por r.sched r.d r.a r.b)
  | 0x32 => some (.pxor r.sched r.d r.a r.b)
  | 0x33 => some (.pnot r.sched r.d r.a)
  | 0x34 => some (.pmov r.sched r.d r.a)
  | 0x35 => some (.pany r.sched r.d r.a)
  | 0x36 => some (.pall r.sched r.d r.a)
  | 0x37 => some (.pset r.sched r.d r.a)
  | 0x40 => some (.vfadd r.sched (r.mid.extractLsb' 8 2) (r.mid.extractLsb' 10 3) r.d r.a r.b)
  | 0x41 => some (.vfsub r.sched (r.mid.extractLsb' 8 2) (r.mid.extractLsb' 10 3) r.d r.a r.b)
  | 0x42 => some (.vfmul r.sched (r.mid.extractLsb' 8 2) (r.mid.extractLsb' 10 3) r.d r.a r.b)
  | 0x43 => some (.vfma r.sched (r.mid.extractLsb' 8 2) (r.mid.extractLsb' 10 3) r.d r.a r.b (r.mid.extractLsb' 0 8))
  | 0x44 => some (.vfmin r.sched (r.mid.extractLsb' 8 2) r.d r.a r.b)
  | 0x45 => some (.vfmax r.sched (r.mid.extractLsb' 8 2) r.d r.a r.b)
  | 0x46 => some (.vfcmp r.sched (r.mid.extractLsb' 13 3) r.d r.a r.b)
  | 0x47 => some (.vfabs r.sched (r.mid.extractLsb' 8 2) r.d r.a)
  | 0x48 => some (.vfneg r.sched (r.mid.extractLsb' 8 2) r.d r.a)
  | 0x49 => some (.vrcp r.sched r.d r.a)
  | 0x4A => some (.vrsq r.sched r.d r.a)
  | 0x4B => some (.vexp2 r.sched r.d r.a)
  | 0x4C => some (.vlog2 r.sched r.d r.a)
  | 0x50 => some (.cvt r.sched (r.mid.extractLsb' 8 5) (r.mid.extractLsb' 13 5) (r.mid.extractLsb' 18 3) (r.mid.getLsbD 21) (r.mid.extractLsb' 22 3) r.d r.a)
  | 0x51 => some (if r.mid.extractLsb' 9 4 = 8 then .vpackMx8 r.sched (r.mid.getLsbD 8) (r.mid.extractLsb' 18 3) r.d r.a r.b (r.mid.extractLsb' 0 8) else .vpack r.sched (r.mid.extractLsb' 8 5) (r.mid.extractLsb' 18 3) (r.mid.getLsbD 21) r.d r.a)
  | 0x52 => some (.vunpack r.sched (r.mid.extractLsb' 8 5) (r.mid.extractLsb' 13 5) (r.mid.extractLsb' 18 3) r.d r.a r.b)
  | 0x53 => some (.seedRR r.sched r.d r.a)
  | 0xB9 => some (.yield r.sched (r.mid.extractLsb' 8 2) (r.mid.extractLsb' 10 4) (r.mid.extractLsb' 14 6) r.a r.b)
  | 0xBF => some (.viewInfo r.sched (r.mid.extractLsb' 8 3) r.d r.a)
  | 0xC0 => some (.tend r.sched )
  | _ => none

/-- The RI forms (Table 1.10) by opcode; none where the opcode does not admit the format. -/
def buildRI (r : Raw) : Option Instr :=
  match r.opc.toNat with
  | 0x01 => some (.saddRI r.sched (r.b.extractLsb' 0 2) r.d r.a r.mid)
  | 0x02 => some (.ssubRI r.sched (r.b.extractLsb' 0 2) r.d r.a r.mid)
  | 0x03 => some (.smulRI r.sched (r.b.extractLsb' 0 2) r.d r.a r.mid)
  | 0x04 => some (.smulhRI r.sched (r.b.extractLsb' 0 2) r.d r.a r.mid)
  | 0x05 => some (.sdivRI r.sched (r.b.extractLsb' 0 2) r.d r.a r.mid)
  | 0x06 => some (.sandRI r.sched r.d r.a r.mid)
  | 0x07 => some (.sorRI r.sched r.d r.a r.mid)
  | 0x08 => some (.sxorRI r.sched r.d r.a r.mid)
  | 0x0A => some (.sshlRI r.sched (r.b.extractLsb' 0 2) r.d r.a r.mid)
  | 0x0B => some (.sshrRI r.sched (r.b.extractLsb' 0 2) r.d r.a r.mid)
  | 0x0C => some (.ssarRI r.sched (r.b.extractLsb' 0 2) r.d r.a r.mid)
  | 0x0D => some (.sminRI r.sched (r.b.extractLsb' 0 2) r.d r.a r.mid)
  | 0x0E => some (.smaxRI r.sched (r.b.extractLsb' 0 2) r.d r.a r.mid)
  | 0x10 => some (.slil r.sched r.d r.mid)
  | 0x11 => some (.slih r.sched r.d r.a r.mid)
  | 0x13 => some (.scmpRI r.sched (r.b.extractLsb' 0 2) (r.b.extractLsb' 2 3) r.d r.a r.mid)
  | 0x14 => some (.vaddRI r.sched (r.b.extractLsb' 0 2) r.d r.a r.mid)
  | 0x15 => some (.vsubRI r.sched (r.b.extractLsb' 0 2) r.d r.a r.mid)
  | 0x16 => some (.vmulRI r.sched (r.b.extractLsb' 0 2) r.d r.a r.mid)
  | 0x17 => some (.vmulhRI r.sched (r.b.extractLsb' 0 2) r.d r.a r.mid)
  | 0x19 => some (.vandRI r.sched (r.b.extractLsb' 0 2) r.d r.a r.mid)
  | 0x1A => some (.vorRI r.sched (r.b.extractLsb' 0 2) r.d r.a r.mid)
  | 0x1B => some (.vxorRI r.sched (r.b.extractLsb' 0 2) r.d r.a r.mid)
  | 0x1C => some (.vshlRI r.sched (r.b.extractLsb' 0 2) r.d r.a r.mid)
  | 0x1D => some (.vshrRI r.sched (r.b.extractLsb' 0 2) r.d r.a r.mid)
  | 0x1E => some (.vsarRI r.sched (r.b.extractLsb' 0 2) r.d r.a r.mid)
  | 0x1F => some (.vminRI r.sched (r.b.extractLsb' 0 2) r.d r.a r.mid)
  | 0x20 => some (.vmaxRI r.sched (r.b.extractLsb' 0 2) r.d r.a r.mid)
  | 0x22 => some (.vcmpRI r.sched (r.b.extractLsb' 0 2) (r.b.extractLsb' 2 3) r.d r.a r.mid)
  | 0x26 => some (.vbfeRI r.sched (r.b.extractLsb' 0 2) r.d r.a r.mid)
  | 0x27 => some (.vbfiRI r.sched (r.b.extractLsb' 0 2) r.d r.a r.mid)
  | 0x29 => some (.vli r.sched (r.b.extractLsb' 0 2) r.d r.mid)
  | 0x2A => some (.vaddrRI r.sched r.d r.a r.mid)
  | 0x2B => some (.vbcastRI r.sched (r.b.extractLsb' 0 2) r.d r.a r.mid)
  | 0x2C => some (.v2sRI r.sched (r.b.extractLsb' 0 2) r.d r.a r.mid)
  | 0x2D => some (.vshflRI r.sched (r.b.extractLsb' 0 2) (r.b.extractLsb' 2 2) r.d r.a r.mid)
  | 0x53 => some (.seedRI r.sched r.d r.mid)
  | 0xB0 => some (if r.b.getLsbD 4 then .waitcTest r.sched (r.b.extractLsb' 0 4) (r.mid.extractLsb' 0 6) r.d else .waitc r.sched (r.b.extractLsb' 0 4) (r.mid.extractLsb' 0 6))
  | 0xB1 => some (.bar r.sched (r.mid.extractLsb' 0 2) (r.mid.extractLsb' 8 5))
  | 0xB8 => some (.waitw r.sched (r.mid.extractLsb' 0 4) (r.mid.extractLsb' 8 24) r.d)
  | 0xBA => some (.qbind r.sched (r.mid.extractLsb' 0 3) (r.mid.getLsbD 3) r.d)
  | _ => none

/-- The MEM forms (Table 1.10) by opcode; none where the opcode does not admit the format. -/
def buildMEM (r : Raw) : Option Instr :=
  match r.opc.toNat with
  | 0x80 => some (.ldS r.sched (r.mid.extractLsb' 12 20) (r.mid.extractLsb' 0 4) r.d r.a)
  | 0x81 => some (.ldV r.sched (r.mid.extractLsb' 12 20) (r.mid.extractLsb' 0 4) r.d r.a)
  | 0x82 => some (.ldVb r.sched (r.mid.extractLsb' 12 20) (r.mid.extractLsb' 10 2) r.d r.a)
  | 0x83 => some (.ldT r.sched (r.mid.extractLsb' 12 20) (r.mid.extractLsb' 10 2) r.d r.a r.b)
  | 0x84 => some (.ldLast r.sched (r.mid.extractLsb' 12 20) (r.mid.extractLsb' 0 4) r.d r.a)
  | 0x88 => some (.stS r.sched (r.mid.extractLsb' 12 20) (r.mid.extractLsb' 0 4) r.d r.a)
  | 0x89 => some (.stV r.sched (r.mid.extractLsb' 12 20) (r.mid.extractLsb' 0 4) r.d r.a)
  | 0x8A => some (.stVb r.sched (r.mid.extractLsb' 12 20) (r.mid.extractLsb' 10 2) r.d r.a)
  | 0x8B => some (.stPair r.sched (r.mid.extractLsb' 12 20) (r.mid.extractLsb' 10 2) r.d r.a r.b)
  | 0x90 => some (.pref r.sched (r.mid.extractLsb' 12 20) (r.mid.getLsbD 0) r.a r.b)
  | 0x91 => some (.pin r.sched (r.mid.extractLsb' 12 20) r.d r.a r.b)
  | 0x92 => some (.unpin r.sched (r.mid.extractLsb' 12 20) r.d r.a r.b)
  | 0x93 => some (.wbr r.sched (r.mid.extractLsb' 12 20) r.a r.b)
  | 0x98 => some (.red r.sched (r.mid.extractLsb' 12 20) (r.mid.extractLsb' 0 4) (r.mid.extractLsb' 4 3) (r.mid.extractLsb' 7 3) r.d r.a)
  | 0x99 => some (.atom r.sched (r.mid.extractLsb' 12 20) (r.mid.extractLsb' 0 4) (r.mid.extractLsb' 4 3) (r.mid.extractLsb' 7 3) r.d r.a r.b)
  | 0x9A => some (.cas r.sched (r.mid.extractLsb' 12 20) (r.mid.extractLsb' 0 4) (r.mid.extractLsb' 4 3) r.d r.a r.b)
  | 0xA0 => some (.arenaNew r.sched (r.mid.extractLsb' 0 3) r.d r.a r.b)
  | 0xA1 => some (.arenaAlloc r.sched (r.mid.extractLsb' 0 3) (r.mid.extractLsb' 3 4) r.d r.a r.b)
  | 0xA2 => some (.arenaSeal r.sched r.a)
  | 0xA3 => some (.arenaReset r.sched r.d r.a)
  | 0xA4 => some (.arenaDrop r.sched r.a)
  | 0xA5 => some (.arenaQuota r.sched r.d r.a r.b)
  | 0xA6 => some (.arenaInfo r.sched (r.mid.extractLsb' 12 20) (r.mid.extractLsb' 0 3) (r.mid.extractLsb' 3 4) r.d r.a)
  | 0xB2 => some (.hdlInit r.sched (r.mid.extractLsb' 12 20) r.a r.b)
  | 0xB3 => some (.hdlExpect r.sched (r.mid.extractLsb' 12 20) r.a r.b)
  | 0xB4 => some (.hdlArrive r.sched (r.mid.extractLsb' 12 20) r.a r.b)
  | 0xB5 => some (.hdlWait r.sched (r.mid.extractLsb' 12 20) r.a r.b)
  | 0xB6 => some (.hdlTest r.sched (r.mid.extractLsb' 12 20) r.d r.a r.b)
  | 0xB7 => some (.watch r.sched (r.mid.extractLsb' 12 20) (r.mid.extractLsb' 0 2) r.d r.a)
  | 0xBC => some (.enq r.sched (r.mid.extractLsb' 12 20) r.d r.a r.b)
  | 0xBD => some (.spawn r.sched (r.mid.extractLsb' 12 20) r.d r.a r.b)
  | 0xBE => some (.viewDecl r.sched (r.mid.extractLsb' 12 20) (r.mid.extractLsb' 0 5) (r.mid.extractLsb' 5 3) (r.mid.extractLsb' 8 3) r.d r.a r.b)
  | _ => none

/-- The BR forms (Table 1.10) by opcode; none where the opcode does not admit the format. -/
def buildBR (r : Raw) : Option Instr :=
  match r.opc.toNat with
  | 0x38 => some (.bra r.sched r.mid)
  | 0x39 => some (.brc r.sched (r.a.extractLsb' 0 3) (r.a.getLsbD 3) r.b r.mid)
  | 0x3A => some (.brd r.sched (r.a.extractLsb' 0 3) (r.a.getLsbD 3) r.d r.b r.mid)
  | 0x3B => some (.join r.sched )
  | 0x3C => some (.call r.sched r.d r.mid)
  | 0x3D => some (.ret r.sched r.a)
  | 0x3E => some (.loop r.sched r.d r.mid)
  | 0x3F => some (.exit r.sched )
  | _ => none

/-- The ENG forms (Table 1.10) by opcode; none where the opcode does not admit the format. -/
def buildENG (r : Raw) : Option Instr :=
  match r.opc.toNat with
  | 0xC8 => some (.mw r.sched (r.mid.extractLsb' 0 9) r.a r.b)
  | 0xC9 => some (.mws r.sched (r.mid.extractLsb' 0 9) r.a r.b)
  | 0xCA => some (.mswap r.sched )
  | 0xCB => some (.ms r.sched (r.mid.getLsbD 0) r.d r.a r.b)
  | 0xCC => some (.mst r.sched (r.mid.getLsbD 0) r.d r.a r.b)
  | 0xCD => some (.mchain r.sched (r.mid.extractLsb' 0 2))
  | 0xCE => some (.mq r.sched (r.mid.extractLsb' 0 2) (r.mid.getLsbD 2) r.d)
  | 0xD8 => some (.cp r.sched (r.mid.extractLsb' 0 2) (r.mid.getLsbD 2) r.d r.a r.b)
  | 0xD9 => some (.cpG r.sched (r.mid.extractLsb' 0 2) (r.mid.getLsbD 2) r.d r.a r.b)
  | 0xDA => some (.cpS r.sched (r.mid.extractLsb' 0 2) (r.mid.getLsbD 2) r.d r.a r.b)
  | 0xDB => some (.cpRed r.sched (r.mid.extractLsb' 0 2) (r.mid.getLsbD 2) (r.mid.extractLsb' 3 5) (r.mid.extractLsb' 8 3) r.d r.a r.b)
  | 0xDC => some (.cpwp r.sched (r.mid.extractLsb' 0 2) r.d)
  | 0xE0 => some (.collAr r.sched (r.mid.getLsbD 2) (r.mid.extractLsb' 3 5) (r.mid.extractLsb' 8 3) r.d r.a r.b)
  | 0xE1 => some (.collAg r.sched (r.mid.getLsbD 2) r.d r.a r.b)
  | 0xE2 => some (.collRs r.sched (r.mid.getLsbD 2) (r.mid.extractLsb' 3 5) (r.mid.extractLsb' 8 3) r.d r.a r.b)
  | 0xE3 => some (.collBc r.sched (r.mid.getLsbD 2) r.d r.a r.b)
  | 0xE8 => some (.netGet r.sched (r.mid.getLsbD 2) r.d r.a r.b)
  | 0xE9 => some (.netPut r.sched (r.mid.getLsbD 2) r.d r.a r.b)
  | 0xEA => some (.netRead r.sched (r.mid.getLsbD 2) r.d r.a r.b)
  | _ => none

/-- The SYS forms (Table 1.10) by opcode; none where the opcode does not admit the format. -/
def buildSYS (r : Raw) : Option Instr :=
  match r.opc.toNat with
  | 0xF0 => some (.trap r.sched (r.mid.extractLsb' 0 16) r.d r.a r.b)
  | 0xF1 => some (.brk r.sched (r.mid.extractLsb' 0 16))
  | 0xF2 => some (.rft r.sched )
  | 0xF3 => some (.sysrd r.sched (r.mid.extractLsb' 0 16) (r.mid.extractLsb' 16 16) r.d)
  | 0xF4 => some (.syswr r.sched (r.mid.extractLsb' 0 16) (r.mid.extractLsb' 16 16) r.a)
  | 0xF5 => some (.tinv r.sched (r.mid.extractLsb' 0 6) (r.mid.getLsbD 6) r.a r.b)
  | 0xF6 => some (.halt r.sched (r.mid.extractLsb' 0 4) (r.mid.extractLsb' 8 24) r.d)
  | 0xF7 => some (.snap r.sched r.d r.a r.b)
  | 0xF8 => some (.slotset r.sched (r.mid.extractLsb' 0 2) r.d r.a)
  | _ => none

/-- R14, R61, R82, R88, R98: the bits 63:8 (the middle word, then B, A and D) that a form leaves unused. -/
def reservedBits : Nat → Nat → Nat
  | 0, 0x00 => 0xFFFFFFFFFFFFFF
  | 0, 0x01 => 0xFFFFFCFF000000
  | 0, 0x02 => 0xFFFFFCFF000000
  | 0, 0x03 => 0xFFFFFCFF000000
  | 0, 0x04 => 0xFFFFFCFF000000
  | 0, 0x05 => 0xFFFFFCFF000000
  | 0, 0x06 => 0xFFFFFFFF000000
  | 0, 0x07 => 0xFFFFFFFF000000
  | 0, 0x08 => 0xFFFFFFFF000000
  | 0, 0x09 => 0xFFFFFFFFFF0000
  | 0, 0x0A => 0xFFFFFCFF000000
  | 0, 0x0B => 0xFFFFFCFF000000
  | 0, 0x0C => 0xFFFFFCFF000000
  | 0, 0x0D => 0xFFFFFCFF000000
  | 0, 0x0E => 0xFFFFFCFF000000
  | 0, 0x0F => 0xFFFFFFFFFF0000
  | 0, 0x12 => 0xFFFFC3FF000000
  | 0, 0x13 => 0xFFFFE0FF000000
  | 0, 0x14 => 0xFFFFFCFF000000
  | 0, 0x15 => 0xFFFFFCFF000000
  | 0, 0x16 => 0xFFFFFCFF000000
  | 0, 0x17 => 0xFFFFFCFF000000
  | 0, 0x18 => 0xFFFFFC00000000
  | 0, 0x19 => 0xFFFFFCFF000000
  | 0, 0x1A => 0xFFFFFCFF000000
  | 0, 0x1B => 0xFFFFFCFF000000
  | 0, 0x1C => 0xFFFFFCFF000000
  | 0, 0x1D => 0xFFFFFCFF000000
  | 0, 0x1E => 0xFFFFFCFF000000
  | 0, 0x1F => 0xFFFFFCFF000000
  | 0, 0x20 => 0xFFFFFCFF000000
  | 0, 0x21 => 0xFFFFFCFFFF0000
  | 0, 0x22 => 0xFFFFE0FF000000
  | 0, 0x23 => 0xFFFFC0FF000000
  | 0, 0x24 => 0xFFFFFCFFFF0000
  | 0, 0x25 => 0xFFFFFCFFFF0000
  | 0, 0x26 => 0xFFFFFCFF000000
  | 0, 0x27 => 0xFFFFFC00000000
  | 0, 0x28 => 0xFFFFFCFFFF0000
  | 0, 0x2A => 0xFFFFF0FF000000
  | 0, 0x2B => 0xFFFFFCFF000000
  | 0, 0x2C => 0xFFFFFCFF000000
  | 0, 0x2D => 0xFFFFF0FF000000
  | 0, 0x2E => 0xFFFFF0FFFF0000
  | 0, 0x30 => 0xFFFFFFFF000000
  | 0, 0x31 => 0xFFFFFFFF000000
  | 0, 0x32 => 0xFFFFFFFF000000
  | 0, 0x33 => 0xFFFFFFFFFF0000
  | 0, 0x34 => 0xFFFFFFFFFF0000
  | 0, 0x35 => 0xFFFFFFFFFF0000
  | 0, 0x36 => 0xFFFFFFFFFF0000
  | 0, 0x37 => 0xFFFFFFFFFF0000
  | 0, 0x40 => 0xFFFFE0FF000000
  | 0, 0x41 => 0xFFFFE0FF000000
  | 0, 0x42 => 0xFFFFE0FF000000
  | 0, 0x43 => 0xFFFFE000000000
  | 0, 0x44 => 0xFFFFFCFF000000
  | 0, 0x45 => 0xFFFFFCFF000000
  | 0, 0x46 => 0xFFFF1FFF000000
  | 0, 0x47 => 0xFFFFFCFFFF0000
  | 0, 0x48 => 0xFFFFFCFFFF0000
  | 0, 0x49 => 0xFFFFFFFFFF0000
  | 0, 0x4A => 0xFFFFFFFFFF0000
  | 0, 0x4B => 0xFFFFFFFFFF0000
  | 0, 0x4C => 0xFFFFFFFFFF0000
  | 0, 0x50 => 0xFE0000FFFF0000
  | 0, 0x52 => 0xFFE000FF000000
  | 0, 0x53 => 0xFFFFFFFFFF0000
  | 0, 0xB9 => 0xFFF000FF0000FF
  | 0, 0xBF => 0xFFFFF8FFFF0000
  | 0, 0xC0 => 0xFFFFFFFFFFFFFF
  | 1, 0x01 => 0x00000000FC0000
  | 1, 0x02 => 0x00000000FC0000
  | 1, 0x03 => 0x00000000FC0000
  | 1, 0x04 => 0x00000000FC0000
  | 1, 0x05 => 0x00000000FC0000
  | 1, 0x06 => 0x00000000FF0000
  | 1, 0x07 => 0x00000000FF0000
  | 1, 0x08 => 0x00000000FF0000
  | 1, 0x0A => 0x00000000FC0000
  | 1, 0x0B => 0x00000000FC0000
  | 1, 0x0C => 0x00000000FC0000
  | 1, 0x0D => 0x00000000FC0000
  | 1, 0x0E => 0x00000000FC0000
  | 1, 0x10 => 0x00000000FFFF00
  | 1, 0x11 => 0x00000000FF0000
  | 1, 0x13 => 0x00000000E00000
  | 1, 0x14 => 0x00000000FC0000
  | 1, 0x15 => 0x00000000FC0000
  | 1, 0x16 => 0x00000000FC0000
  | 1, 0x17 => 0x00000000FC0000
  | 1, 0x19 => 0x00000000FC0000
  | 1, 0x1A => 0x00000000FC0000
  | 1, 0x1B => 0x00000000FC0000
  | 1, 0x1C => 0x00000000FC0000
  | 1, 0x1D => 0x00000000FC0000
  | 1, 0x1E => 0x00000000FC0000
  | 1, 0x1F => 0x00000000FC0000
  | 1, 0x20 => 0x00000000FC0000
  | 1, 0x22 => 0x00000000E00000
  | 1, 0x26 => 0x00000000FC0000
  | 1, 0x27 => 0x00000000FC0000
  | 1, 0x29 => 0x00000000FCFF00
  | 1, 0x2A => 0x00000000FF0000
  | 1, 0x2B => 0x00000000FC0000
  | 1, 0x2C => 0x00000000FC0000
  | 1, 0x2D => 0x00000000F00000
  | 1, 0x53 => 0x00000000FFFF00
  | 1, 0xB0 => 0xFFFFFFC0E0FF00
  | 1, 0xB1 => 0xFFFFE0FCFFFFFF
  | 1, 0xB8 => 0x000000F0FFFF00
  | 1, 0xBA => 0xFFFFFFF0FFFF00
  | 2, 0x80 => 0x00000FF0FF0000
  | 2, 0x81 => 0x00000FF0FF0000
  | 2, 0x82 => 0x000003FFFF0000
  | 2, 0x83 => 0x000003FF000000
  | 2, 0x84 => 0x00000FF0FF0000
  | 2, 0x88 => 0x00000FF0FF0000
  | 2, 0x89 => 0x00000FF0FF0000
  | 2, 0x8A => 0x000003FFFF0000
  | 2, 0x8B => 0x000003FF000000
  | 2, 0x90 => 0x00000FFE0000FF
  | 2, 0x91 => 0x00000FFF000000
  | 2, 0x92 => 0x00000FFF000000
  | 2, 0x93 => 0x00000FFF0000FF
  | 2, 0x98 => 0x00000C00FF0000
  | 2, 0x99 => 0x00000C00000000
  | 2, 0x9A => 0x00000F80000000
  | 2, 0xA0 => 0xFFFFFFF8000000
  | 2, 0xA1 => 0xFFFFFF80000000
  | 2, 0xA2 => 0xFFFFFFFFFF00FF
  | 2, 0xA3 => 0xFFFFFFFFFF0000
  | 2, 0xA4 => 0xFFFFFFFFFF00FF
  | 2, 0xA5 => 0xFFFFFFFF000000
  | 2, 0xA6 => 0x00000F80FF0000
  | 2, 0xB2 => 0x00000FFF0000FF
  | 2, 0xB3 => 0x00000FFF0000FF
  | 2, 0xB4 => 0x00000FFF0000FF
  | 2, 0xB5 => 0x00000FFF0000FF
  | 2, 0xB6 => 0x00000FFF000000
  | 2, 0xB7 => 0x00000FFCFF0000
  | 2, 0xBC => 0x00000FFF000000
  | 2, 0xBD => 0x00000FFF000000
  | 2, 0xBE => 0x00000800000000
  | 3, 0x38 => 0x00000000FFFFFF
  | 3, 0x39 => 0x0000000000F0FF
  | 3, 0x3A => 0x0000000000F000
  | 3, 0x3B => 0xFFFFFFFFFFFFFF
  | 3, 0x3C => 0x00000000FFFF00
  | 3, 0x3D => 0xFFFFFFFFFF00FF
  | 3, 0x3E => 0x00000000FFFF00
  | 3, 0x3F => 0xFFFFFFFFFFFFFF
  | 4, 0xC8 => 0xFFFFFE000000FF
  | 4, 0xC9 => 0xFFFFFE000000FF
  | 4, 0xCA => 0xFFFFFFFFFFFFFF
  | 4, 0xCB => 0xFFFFFFFE000000
  | 4, 0xCC => 0xFFFFFFFE000000
  | 4, 0xCD => 0xFFFFFFFCFFFFFF
  | 4, 0xCE => 0xFFFFFFF8FFFF00
  | 4, 0xD8 => 0xFFFFFFF8000000
  | 4, 0xD9 => 0xFFFFFFF8000000
  | 4, 0xDA => 0xFFFFFFF8000000
  | 4, 0xDB => 0xFFFFF800000000
  | 4, 0xDC => 0xFFFFFFFCFFFF00
  | 4, 0xE0 => 0xFFFFF803000000
  | 4, 0xE1 => 0xFFFFFFFB000000
  | 4, 0xE2 => 0xFFFFF803000000
  | 4, 0xE3 => 0xFFFFFFFB000000
  | 4, 0xE8 => 0xFFFFFFFB000000
  | 4, 0xE9 => 0xFFFFFFFB000000
  | 4, 0xEA => 0xFFFFFFFB000000
  | 5, 0xF0 => 0xFFFF0000000000
  | 5, 0xF1 => 0xFFFF0000FFFFFF
  | 5, 0xF2 => 0xFFFFFFFFFFFFFF
  | 5, 0xF3 => 0x00000000FFFF00
  | 5, 0xF4 => 0x00000000FF00FF
  | 5, 0xF5 => 0xFFFFFF800000FF
  | 5, 0xF6 => 0x000000F0FFFF00
  | 5, 0xF7 => 0xFFFFFFFF000000
  | 5, 0xF8 => 0xFFFFFFFCFF0000
  | _, _ => 0

/-- R14: the reserved bits of the word `r`; VPACK and VPACK.MX8 share an opcode. -/
def Raw.reserved (r : Raw) : Nat :=
  if r.fmt.toNat = 0 ∧ r.opc.toNat = 0x51 then
    (if r.mid.extractLsb' 9 4 = 8 then 0xFFE3E000000000 else 0xFFC3E0FFFF0000)
  else reservedBits r.fmt.toNat r.opc.toNat

/-- Table 1.9: is the opcode assigned? -/
def opcodeAssigned (o : Nat) : Bool :=
  decide (o ≤ 0x2E) || (decide (0x30 ≤ o) && decide (o ≤ 0x4C)) || (decide (0x50 ≤ o) && decide (o ≤ 0x53)) ||
  (decide (0x80 ≤ o) && decide (o ≤ 0x84)) || (decide (0x88 ≤ o) && decide (o ≤ 0x8B)) ||
  (decide (0x90 ≤ o) && decide (o ≤ 0x93)) || (decide (0x98 ≤ o) && decide (o ≤ 0x9A)) ||
  (decide (0xA0 ≤ o) && decide (o ≤ 0xA6)) || (decide (0xB0 ≤ o) && decide (o ≤ 0xBA)) ||
  (decide (0xBC ≤ o) && decide (o ≤ 0xC0)) || (decide (0xC8 ≤ o) && decide (o ≤ 0xCE)) ||
  (decide (0xD8 ≤ o) && decide (o ≤ 0xDC)) || (decide (0xE0 ≤ o) && decide (o ≤ 0xE3)) ||
  (decide (0xE8 ≤ o) && decide (o ≤ 0xEA)) || (decide (0xF0 ≤ o) && decide (o ≤ 0xF8))

/-- The form of a word by format and opcode; none where Table 1.10 does not admit the format. -/
def buildForm (r : Raw) : Option Instr :=
  match r.fmt.toNat with
  | 0 => buildRR r
  | 1 => buildRI r
  | 2 => buildMEM r
  | 3 => buildBR r
  | 4 => buildENG r
  | 5 => buildSYS r
  | _ => none

/-- Bits 63:8 of the word as one number. -/
def Raw.body (r : Raw) : Nat := r.mid.toNat * 2 ^ 24 + r.b.toNat * 2 ^ 16 + r.a.toNat * 2 ^ 8 + r.d.toNat

/-- Table 6.1: field D of WAITC without TEST is 0, or the word fails check 6. -/
def Raw.strayD (r : Raw) : Bool := r.fmt == 1 && r.opc == 0xB0 && !r.b.getLsbD 4 && r.d != 0

/-- R38: the first failed check of Table 1.11, from 1 to 7, or the instruction. Checks 8 to 10, and the part of
check 5 that needs the block, are made at issue. -/
def decodeRaw (r : Raw) : Except Nat Instr :=
  if 6 ≤ r.fmt.toNat then .error 1
  else if 12 ≤ r.sched.sig.toNat ∧ r.sched.sig.toNat ≤ 14 then .error 2
  else if opcodeAssigned r.opc.toNat = false then .error 3
  else match buildForm r with
    | none => .error 4
    | some i =>
      if r.body &&& r.reserved ≠ 0 ∨ modOk i = false then .error 5
      else if opsOk i = false ∨ r.strayD = true then .error 6
      else if r.sched.guard = 0xF ∨ (mustBeUnguarded i = true ∧ r.sched.guard ≠ 7) then .error 7
      else .ok i

/-- R12, R38: the instruction of a 96-bit word, or the detail value of the first failed check. -/
def decode (w : BitVec 96) : Except Nat Instr := decodeRaw (rawOf w)

/-- R12: a word from its twelve bytes, lowest address first; a missing byte is zero. -/
def wordOfBytes (bs : List Byte) : BitVec 96 :=
  BitVec.ofNat 96 ((bs.take 12).foldr (fun b acc => acc * 256 + b.toNat) 0)

/-- The bytes of a word, lowest address first (R12). -/
def bytesOfWord (w : BitVec 96) : List Byte := (List.range 12).map fun i => w.extractLsb' (8 * i) 8

/-- The instruction of a table word of `nbits` bits, bit 0 the least significant bit of the first word. -/
def decodeTableWord (nbits w : Nat) : Option Instr :=
  match decode (wordOfBytes (bytesOfWord (BitVec.ofNat 96 (w % 2 ^ nbits)))) with
  | .ok i => some i
  | .error _ => none

/-! ### The encoder -/

/-- Table 1.1: a word from its fields. -/
def join (fmt : BitVec 3) (f : Sched) (mid : BitVec 32) (b a d opc : BitVec 8) : BitVec 96 :=
  fmt ++ f.stall ++ f.wait ++ f.sig ++ BitVec.ofBool f.yld ++ f.reuse ++ f.guard ++ mid ++ b ++ a ++ d ++ opc

/-- The word of an instruction, from the encoding tables of its chapter (Tables 1.1, 1.2, 3.1, 4.1, 4.4, 5.1 and the
forms of the instruction chapters); an event has no word, and the value given for one means nothing. -/
def encode : Instr → BitVec 96
  | .nop f => join 0 f 0#32 0#8 0#8 0#8 0x00
  | .saddRR f t d a b => join 0 f (0#22 ++ t ++ 0#8) b a d 0x01
  | .saddRI f t d a imm => join 1 f imm (0#6 ++ t) a d 0x01
  | .ssubRR f t d a b => join 0 f (0#22 ++ t ++ 0#8) b a d 0x02
  | .ssubRI f t d a imm => join 1 f imm (0#6 ++ t) a d 0x02
  | .smulRR f t d a b => join 0 f (0#22 ++ t ++ 0#8) b a d 0x03
  | .smulRI f t d a imm => join 1 f imm (0#6 ++ t) a d 0x03
  | .smulhRR f t d a b => join 0 f (0#22 ++ t ++ 0#8) b a d 0x04
  | .smulhRI f t d a imm => join 1 f imm (0#6 ++ t) a d 0x04
  | .sdivRR f t d a b => join 0 f (0#22 ++ t ++ 0#8) b a d 0x05
  | .sdivRI f t d a imm => join 1 f imm (0#6 ++ t) a d 0x05
  | .sandRR f d a b => join 0 f 0#32 b a d 0x06
  | .sandRI f d a imm => join 1 f imm 0#8 a d 0x06
  | .sorRR f d a b => join 0 f 0#32 b a d 0x07
  | .sorRI f d a imm => join 1 f imm 0#8 a d 0x07
  | .sxorRR f d a b => join 0 f 0#32 b a d 0x08
  | .sxorRI f d a imm => join 1 f imm 0#8 a d 0x08
  | .snot f d a => join 0 f 0#32 0#8 a d 0x09
  | .sshlRR f t d a b => join 0 f (0#22 ++ t ++ 0#8) b a d 0x0A
  | .sshlRI f t d a imm => join 1 f imm (0#6 ++ t) a d 0x0A
  | .sshrRR f t d a b => join 0 f (0#22 ++ t ++ 0#8) b a d 0x0B
  | .sshrRI f t d a imm => join 1 f imm (0#6 ++ t) a d 0x0B
  | .ssarRR f t d a b => join 0 f (0#22 ++ t ++ 0#8) b a d 0x0C
  | .ssarRI f t d a imm => join 1 f imm (0#6 ++ t) a d 0x0C
  | .sminRR f t d a b => join 0 f (0#22 ++ t ++ 0#8) b a d 0x0D
  | .sminRI f t d a imm => join 1 f imm (0#6 ++ t) a d 0x0D
  | .smaxRR f t d a b => join 0 f (0#22 ++ t ++ 0#8) b a d 0x0E
  | .smaxRI f t d a imm => join 1 f imm (0#6 ++ t) a d 0x0E
  | .smov f d a => join 0 f 0#32 0#8 a d 0x0F
  | .slil f d imm => join 1 f imm 0#8 0#8 d 0x10
  | .slih f d a imm => join 1 f imm 0#8 a d 0x11
  | .ssel f n neg d a b => join 0 f (0#18 ++ BitVec.ofBool neg ++ n ++ 0#10) b a d 0x12
  | .scmpRR f t cnd d a b => join 0 f (0#19 ++ cnd ++ t ++ 0#8) b a d 0x13
  | .scmpRI f t cnd d a imm => join 1 f imm (0#3 ++ cnd ++ t) a d 0x13
  | .vaddRR f t d a b => join 0 f (0#22 ++ t ++ 0#8) b a d 0x14
  | .vaddRI f t d a imm => join 1 f imm (0#6 ++ t) a d 0x14
  | .vsubRR f t d a b => join 0 f (0#22 ++ t ++ 0#8) b a d 0x15
  | .vsubRI f t d a imm => join 1 f imm (0#6 ++ t) a d 0x15
  | .vmulRR f t d a b => join 0 f (0#22 ++ t ++ 0#8) b a d 0x16
  | .vmulRI f t d a imm => join 1 f imm (0#6 ++ t) a d 0x16
  | .vmulhRR f t d a b => join 0 f (0#22 ++ t ++ 0#8) b a d 0x17
  | .vmulhRI f t d a imm => join 1 f imm (0#6 ++ t) a d 0x17
  | .vmad f t d a b c => join 0 f (0#22 ++ t ++ c) b a d 0x18
  | .vandRR f t d a b => join 0 f (0#22 ++ t ++ 0#8) b a d 0x19
  | .vandRI f t d a imm => join 1 f imm (0#6 ++ t) a d 0x19
  | .vorRR f t d a b => join 0 f (0#22 ++ t ++ 0#8) b a d 0x1A
  | .vorRI f t d a imm => join 1 f imm (0#6 ++ t) a d 0x1A
  | .vxorRR f t d a b => join 0 f (0#22 ++ t ++ 0#8) b a d 0x1B
  | .vxorRI f t d a imm => join 1 f imm (0#6 ++ t) a d 0x1B
  | .vshlRR f t d a b => join 0 f (0#22 ++ t ++ 0#8) b a d 0x1C
  | .vshlRI f t d a imm => join 1 f imm (0#6 ++ t) a d 0x1C
  | .vshrRR f t d a b => join 0 f (0#22 ++ t ++ 0#8) b a d 0x1D
  | .vshrRI f t d a imm => join 1 f imm (0#6 ++ t) a d 0x1D
  | .vsarRR f t d a b => join 0 f (0#22 ++ t ++ 0#8) b a d 0x1E
  | .vsarRI f t d a imm => join 1 f imm (0#6 ++ t) a d 0x1E
  | .vminRR f t d a b => join 0 f (0#22 ++ t ++ 0#8) b a d 0x1F
  | .vminRI f t d a imm => join 1 f imm (0#6 ++ t) a d 0x1F
  | .vmaxRR f t d a b => join 0 f (0#22 ++ t ++ 0#8) b a d 0x20
  | .vmaxRI f t d a imm => join 1 f imm (0#6 ++ t) a d 0x20
  | .vabs f t d a => join 0 f (0#22 ++ t ++ 0#8) 0#8 a d 0x21
  | .vcmpRR f t cnd d a b => join 0 f (0#19 ++ cnd ++ t ++ 0#8) b a d 0x22
  | .vcmpRI f t cnd d a imm => join 1 f imm (0#3 ++ cnd ++ t) a d 0x22
  | .vsel f t n neg d a b => join 0 f (0#18 ++ BitVec.ofBool neg ++ n ++ t ++ 0#8) b a d 0x23
  | .vpopc f t d a => join 0 f (0#22 ++ t ++ 0#8) 0#8 a d 0x24
  | .vclz f t d a => join 0 f (0#22 ++ t ++ 0#8) 0#8 a d 0x25
  | .vbfeRR f t d a b => join 0 f (0#22 ++ t ++ 0#8) b a d 0x26
  | .vbfeRI f t d a imm => join 1 f imm (0#6 ++ t) a d 0x26
  | .vbfiRR f t d a b c => join 0 f (0#22 ++ t ++ c) b a d 0x27
  | .vbfiRI f t d a imm => join 1 f imm (0#6 ++ t) a d 0x27
  | .vmov f t d a => join 0 f (0#22 ++ t ++ 0#8) 0#8 a d 0x28
  | .vli f t d imm => join 1 f imm (0#6 ++ t) 0#8 d 0x29
  | .vaddrRR f scl uns d a b => join 0 f (0#20 ++ BitVec.ofBool uns ++ scl ++ 0#8) b a d 0x2A
  | .vaddrRI f d a imm => join 1 f imm 0#8 a d 0x2A
  | .vbcastRR f t d a b => join 0 f (0#22 ++ t ++ 0#8) b a d 0x2B
  | .vbcastRI f t d a imm => join 1 f imm (0#6 ++ t) a d 0x2B
  | .v2sRR f t d a b => join 0 f (0#22 ++ t ++ 0#8) b a d 0x2C
  | .v2sRI f t d a imm => join 1 f imm (0#6 ++ t) a d 0x2C
  | .vshflRR f t mode d a b => join 0 f (0#20 ++ mode ++ t ++ 0#8) b a d 0x2D
  | .vshflRI f t mode d a imm => join 1 f imm (0#4 ++ mode ++ t) a d 0x2D
  | .vred f t op d a => join 0 f (0#20 ++ op ++ t ++ 0#8) 0#8 a d 0x2E
  | .pand f d a b => join 0 f 0#32 b a d 0x30
  | .por f d a b => join 0 f 0#32 b a d 0x31
  | .pxor f d a b => join 0 f 0#32 b a d 0x32
  | .pnot f d a => join 0 f 0#32 0#8 a d 0x33
  | .pmov f d a => join 0 f 0#32 0#8 a d 0x34
  | .pany f d a => join 0 f 0#32 0#8 a d 0x35
  | .pall f d a => join 0 f 0#32 0#8 a d 0x36
  | .pset f d a => join 0 f 0#32 0#8 a d 0x37
  | .bra f disp => join 3 f disp 0#8 0#8 0#8 0x38
  | .brc f n neg mode disp => join 3 f disp mode (0#4 ++ BitVec.ofBool neg ++ n) 0#8 0x39
  | .brd f n neg jlo jhi disp => join 3 f disp jhi (0#4 ++ BitVec.ofBool neg ++ n) jlo 0x3A
  | .join f => join 3 f 0#32 0#8 0#8 0#8 0x3B
  | .call f d disp => join 3 f disp 0#8 0#8 d 0x3C
  | .ret f a => join 3 f 0#32 0#8 a 0#8 0x3D
  | .loop f d disp => join 3 f disp 0#8 0#8 d 0x3E
  | .exit f => join 3 f 0#32 0#8 0#8 0#8 0x3F
  | .vfadd f ft rm d a b => join 0 f (0#19 ++ rm ++ ft ++ 0#8) b a d 0x40
  | .vfsub f ft rm d a b => join 0 f (0#19 ++ rm ++ ft ++ 0#8) b a d 0x41
  | .vfmul f ft rm d a b => join 0 f (0#19 ++ rm ++ ft ++ 0#8) b a d 0x42
  | .vfma f ft rm d a b c => join 0 f (0#19 ++ rm ++ ft ++ c) b a d 0x43
  | .vfmin f ft d a b => join 0 f (0#22 ++ ft ++ 0#8) b a d 0x44
  | .vfmax f ft d a b => join 0 f (0#22 ++ ft ++ 0#8) b a d 0x45
  | .vfcmp f cnd d a b => join 0 f (0#16 ++ cnd ++ 0#13) b a d 0x46
  | .vfabs f ft d a => join 0 f (0#22 ++ ft ++ 0#8) 0#8 a d 0x47
  | .vfneg f ft d a => join 0 f (0#22 ++ ft ++ 0#8) 0#8 a d 0x48
  | .vrcp f d a => join 0 f 0#32 0#8 a d 0x49
  | .vrsq f d a => join 0 f 0#32 0#8 a d 0x4A
  | .vexp2 f d a => join 0 f 0#32 0#8 a d 0x4B
  | .vlog2 f d a => join 0 f 0#32 0#8 a d 0x4C
  | .cvt f df sf rm sat ei d a => join 0 f (0#7 ++ ei ++ BitVec.ofBool sat ++ rm ++ sf ++ df ++ 0#8) 0#8 a d 0x50
  | .vpack f df rm sat d a => join 0 f (0#10 ++ BitVec.ofBool sat ++ rm ++ 0#5 ++ df ++ 0#8) 0#8 a d 0x51
  | .vpackMx8 f mx4 rm d a b c => join 0 f (0#11 ++ rm ++ 0#5 ++ 8#4 ++ BitVec.ofBool mx4 ++ c) b a d 0x51
  | .vunpack f df sf rm d a b => join 0 f (0#11 ++ rm ++ sf ++ df ++ 0#8) b a d 0x52
  | .seedRR f d a => join 0 f 0#32 0#8 a d 0x53
  | .seedRI f d imm => join 1 f imm 0#8 0#8 d 0x53
  | .ldS f off ty d a => join 2 f (off ++ 0#8 ++ ty) 0#8 a d 0x80
  | .ldV f off ty d a => join 2 f (off ++ 0#8 ++ ty) 0#8 a d 0x81
  | .ldVb f off cnt d a => join 2 f (off ++ cnt ++ 0#10) 0#8 a d 0x82
  | .ldT f off cnt d a b => join 2 f (off ++ cnt ++ 0#10) b a d 0x83
  | .ldLast f off ty d a => join 2 f (off ++ 0#8 ++ ty) 0#8 a d 0x84
  | .stS f off ty d a => join 2 f (off ++ 0#8 ++ ty) 0#8 a d 0x88
  | .stV f off ty d a => join 2 f (off ++ 0#8 ++ ty) 0#8 a d 0x89
  | .stVb f off cnt d a => join 2 f (off ++ cnt ++ 0#10) 0#8 a d 0x8A
  | .stPair f off cnt d a b => join 2 f (off ++ cnt ++ 0#10) b a d 0x8B
  | .pref f off lv a b => join 2 f (off ++ 0#11 ++ BitVec.ofBool lv) b a 0#8 0x90
  | .pin f off d a b => join 2 f (off ++ 0#12) b a d 0x91
  | .unpin f off d a b => join 2 f (off ++ 0#12) b a d 0x92
  | .wbr f off a b => join 2 f (off ++ 0#12) b a 0#8 0x93
  | .red f off ty sc op d a => join 2 f (off ++ 0#2 ++ op ++ sc ++ ty) 0#8 a d 0x98
  | .atom f off ty sc op d a b => join 2 f (off ++ 0#2 ++ op ++ sc ++ ty) b a d 0x99
  | .cas f off ty sc d a b => join 2 f (off ++ 0#5 ++ sc ++ ty) b a d 0x9A
  | .arenaNew f pn d a b => join 2 f (0#29 ++ pn) b a d 0xA0
  | .arenaAlloc f pn aln d a b => join 2 f (0#25 ++ aln ++ pn) b a d 0xA1
  | .arenaSeal f a => join 2 f 0#32 0#8 a 0#8 0xA2
  | .arenaReset f d a => join 2 f 0#32 0#8 a d 0xA3
  | .arenaDrop f a => join 2 f 0#32 0#8 a 0#8 0xA4
  | .arenaQuota f d a b => join 2 f 0#32 b a d 0xA5
  | .arenaInfo f off pn sel d a => join 2 f (off ++ 0#5 ++ sel ++ pn) 0#8 a d 0xA6
  | .waitc f n k => join 1 f (0#26 ++ k) (0#4 ++ n) 0#8 0#8 0xB0
  | .waitcTest f n k d => join 1 f (0#26 ++ k) (0#3 ++ 1#1 ++ n) 0#8 d 0xB0
  | .bar f bn n => join 1 f (0#19 ++ n ++ 0#6 ++ bn) 0#8 0#8 0#8 0xB1
  | .hdlInit f off a b => join 2 f (off ++ 0#12) b a 0#8 0xB2
  | .hdlInitRelease f off a b => join 2 f (off ++ 0#12) b a 0#8 0xB2
  | .hdlExpect f off a b => join 2 f (off ++ 0#12) b a 0#8 0xB3
  | .hdlArrive f off a b => join 2 f (off ++ 0#12) b a 0#8 0xB4
  | .hdlWait f off a b => join 2 f (off ++ 0#12) b a 0#8 0xB5
  | .hdlTest f off d a b => join 2 f (off ++ 0#12) b a d 0xB6
  | .watch f off n d a => join 2 f (off ++ 0#10 ++ n) 0#8 a d 0xB7
  | .waitw f mask limit d => join 1 f (limit ++ 0#4 ++ mask) 0#8 0#8 d 0xB8
  | .yield f kind n k a b => join 0 f (0#12 ++ k ++ n ++ kind ++ 0#8) b a 0#8 0xB9
  | .qbind f fifo on d => join 1 f (0#28 ++ BitVec.ofBool on ++ fifo) 0#8 0#8 d 0xBA
  | .enq f off d a b => join 2 f (off ++ 0#12) b a d 0xBC
  | .spawn f off d a b => join 2 f (off ++ 0#12) b a d 0xBD
  | .viewDecl f off fmt op pn d a b => join 2 f (off ++ 0#1 ++ pn ++ op ++ fmt) b a d 0xBE
  | .viewInfo f sel d a => join 0 f (0#21 ++ sel ++ 0#8) 0#8 a d 0xBF
  | .tend f => join 0 f 0#32 0#8 0#8 0#8 0xC0
  | .mw f k a b => join 4 f (0#23 ++ k) b a 0#8 0xC8
  | .mws f k a b => join 4 f (0#23 ++ k) b a 0#8 0xC9
  | .mswap f => join 4 f 0#32 0#8 0#8 0#8 0xCA
  | .ms f z d a b => join 4 f (0#31 ++ BitVec.ofBool z) b a d 0xCB
  | .mst f z d a b => join 4 f (0#31 ++ BitVec.ofBool z) b a d 0xCC
  | .mchain f cm1 => join 4 f (0#30 ++ cm1) 0#8 0#8 0#8 0xCD
  | .mq f sel clr d => join 4 f (0#29 ++ BitVec.ofBool clr ++ sel) 0#8 0#8 d 0xCE
  | .cp f ch exp d a b => join 4 f (0#29 ++ BitVec.ofBool exp ++ ch) b a d 0xD8
  | .cpG f ch exp d a b => join 4 f (0#29 ++ BitVec.ofBool exp ++ ch) b a d 0xD9
  | .cpS f ch exp d a b => join 4 f (0#29 ++ BitVec.ofBool exp ++ ch) b a d 0xDA
  | .cpRed f ch exp fmt op d a b => join 4 f (0#21 ++ op ++ fmt ++ BitVec.ofBool exp ++ ch) b a d 0xDB
  | .cpwp f ch d => join 4 f (0#30 ++ ch) 0#8 0#8 d 0xDC
  | .collAr f exp fmt op d a b => join 4 f (0#21 ++ op ++ fmt ++ BitVec.ofBool exp ++ 0#2) b a d 0xE0
  | .collAg f exp d a b => join 4 f (0#29 ++ BitVec.ofBool exp ++ 0#2) b a d 0xE1
  | .collRs f exp fmt op d a b => join 4 f (0#21 ++ op ++ fmt ++ BitVec.ofBool exp ++ 0#2) b a d 0xE2
  | .collBc f exp d a b => join 4 f (0#29 ++ BitVec.ofBool exp ++ 0#2) b a d 0xE3
  | .netGet f exp d a b => join 4 f (0#29 ++ BitVec.ofBool exp ++ 0#2) b a d 0xE8
  | .netPut f exp d a b => join 4 f (0#29 ++ BitVec.ofBool exp ++ 0#2) b a d 0xE9
  | .netRead f exp d a b => join 4 f (0#29 ++ BitVec.ofBool exp ++ 0#2) b a d 0xEA
  | .trap f n d a b => join 5 f (0#16 ++ n) b a d 0xF0
  | .brk f n => join 5 f (0#16 ++ n) 0#8 0#8 0#8 0xF1
  | .rft f => join 5 f 0#32 0#8 0#8 0#8 0xF2
  | .sysrd f reg inst d => join 5 f (inst ++ reg) 0#8 0#8 d 0xF3
  | .syswr f reg inst a => join 5 f (inst ++ reg) 0#8 a 0#8 0xF4
  | .tinv f ctx all a b => join 5 f (0#25 ++ BitVec.ofBool all ++ ctx) b a 0#8 0xF5
  | .halt f mask limit d => join 5 f (limit ++ 0#4 ++ mask) 0#8 0#8 d 0xF6
  | .snap f d a b => join 5 f 0#32 b a d 0xF7
  | .slotset f g d a => join 5 f (0#30 ++ g) 0#8 a d 0xF8
  | .accessPerform _ => 0
  | .syncPushAck _ _ => 0
  | .l1RenewalReply _ => 0
  | .faultReply _ => 0
  | .engineStart _ => 0
  | .engineComplete _ => 0
  | .hurdleTimeout _ _ => 0
  | .waitwLimitExpiry _ _ => 0
  | .haltWake _ => 0
  | .watchdog _ => 0
  | .ptsCreep _ => 0
  | .yieldSave _ => 0
  | .yieldResumeRecord _ => 0
  | .tendPoint _ => 0
  | .mergeComplete _ => 0
  | .taskPlace _ => 0
  | .batchTimerExpiry _ => 0
  | .f0Refill _ => 0
  | .lapStart => 0
  | .scrubAndDropSweep _ => 0
  | .lineEviction _ => 0
  | .snapshotDrain _ => 0
  | .frozenGranuleCopy _ => 0
  | .migrationSlot => 0
  | .telemetrySlot _ => 0
  | .collAnnouncement _ => 0
  | .collTimeLimit _ => 0
  | .endpointTimeLimit _ => 0
  | .transportFailure _ => 0
  | .nvmeCompletion _ _ => 0
  | .peerRemoteAccess _ _ _ _ _ => 0
  | .hostCxlMemRead _ => 0
  | .hostCxlMemWrite _ _ => 0
  | .snpData _ => 0
  | .snpInv _ => 0
  | .snpCur _ => 0
  | .nopPacket _ => 0
  | .recordPacket _ => 0
  | .nodeDef _ => 0
  | .nodeDel _ => 0
  | .commDef _ => 0
  | .epDef _ => 0
  | .vpool _ => 0
  | .qcreate _ => 0
  | .qdestroy _ => 0
  | .getVersion => 0
  | .getCapabilities => 0
  | .negotiateAlgorithms => 0
  | .getDigests => 0
  | .getCertificate _ => 0
  | .challenge _ => 0
  | .getMeasurements _ => 0
  | .unsupportedRequest _ => 0
  | .aminv _ => 0
  | .fqreplyResume _ => 0
  | .fqreplyDecline _ => 0
  | .migrate _ => 0
  | .unmap _ => 0
  | .icmsg _ => 0
  | .hirq _ => 0
  | .vacate _ => 0
  | .crst _ => 0
  | .l2hmWrite _ => 0
  | .pwrstRequest _ => 0
  | .clusterPowerStateReached _ => 0
  | .herrRead _ => 0
  | .icpendRead _ => 0
  | .clampcRead _ => 0
  | .srdropRead _ => 0
  | .sysregWrite _ => 0
  | .powerOnReset => 0
  | .functionLevelReset => 0
  | .linkDown => 0
  | .powerClamp _ => 0
  | .thermalTrip _ _ => 0
  | .thermalResume _ _ => 0
  | .linkUp => 0
  | .backInvalidateAcknowledged _ _ => 0
  | .cdatRequest => 0
  | .asynchronousCompletion _ => 0
  | .firmwareEndsTheTask _ => 0
  | .groupRetrains _ => 0

end Sys2Proof
end

