-- ==== Sys2Proof/Machine/Errors.lean ====
section
/-! DEFINITION. Physical errors of stored data (R337): what a symbol, a bit, a register or a tag that fails does to the machine. They
come from outside it, as choices of the agenda. -/
namespace Sys2Proof.Machine

/-- R3: the section that an L2 slice's stack stands beside; an entry of a slice's tables halts the blocks of that section (DESIGN
CHOICE, assumption 102). -/
def sliceSection (slice : Nat) : Nat := slice / 8

/-- Table 23.4: every block on the cores that `p` picks halts with SOFT_ERROR. -/
def State.haltCores (s : State) (p : Nat → Bool) : State :=
  (s.blocks.filter fun e => p e.2.core).foldl (fun s e => s.haltBlock e.1 17) s

/-- The four 8-byte words of an HBM word of 32 bytes. -/
def hbmWords (word : Nat) : List Nat := (List.range 4).map (4 * word + ·)

/-- Table 23.4: an HBM word with one failed symbol is corrected when it is next read; one with more is poisoned, and counted. -/
def State.upsetHbm (s : State) (word : Nat) (many : Bool) : State :=
  if 2 ^ 35 ≤ word ∨ stackBytes ≤ word % 2 ^ 31 * 32 then s
  else if many then
    ({ s with
      poison := s.poison ++ (hbmWords word).filter fun p => !s.poison.contains p
      flaws := s.flaws.filter (· != word) } : State).countErr (word / 2 ^ 31 * 64 + 32)
  else { s with flaws := if s.flaws.contains word then s.flaws else s.flaws ++ [word] }

/-- Table 23.4: a FIFO's entry is marked behind its 32 lanes. -/
def markEntry (e : List (BitVec 32)) : List (BitVec 32) := ((List.range 32).map fun l => e.getD l 0) ++ [1]

/-- Table 23.4: what an error does to the storage that it strikes. -/
def State.upset (s : State) : Upset → State
  | .hbm word many => s.upsetHbm word many
  | .flat word =>
    if 2 ^ 37 ≤ word ∧ word < 2 ^ 37 + 192 * 2 ^ 17 ∧ !s.poison.contains word then { s with poison := s.poison ++ [word] } else s
  | .line key word => { s with lines := kmod s.lines key fun x => { x with
      poison := if word < 16 ∧ !x.poison.contains word then x.poison ++ [word] else x.poison } }
  | .copy l1 word => { s with l1 := kmod s.l1 l1 fun y => { y with
      poison := if word < 16 ∧ !y.poison.contains word then y.poison ++ [word] else y.poison } }
  | .slice i => if i < 128 then s.countErr (i / 8 * 64 + 33 + i % 8) else s
  | .reg w key => { s with waves := kmod s.waves w fun x => { x with bad := if x.bad.contains key then x.bad else x.bad ++ [key] } }
  | .fifo block f i => s.modBlock block fun b => { b with
      fifos := kmod b.fifos f fun es => es.set i (markEntry (es.getD i [])) }
  | .tag key => match kget s.lines key with
    | some x => ({ s with lines := kset s.lines key { x with poison := List.range 16 } } : State).haltCores
        fun c => sectionOf c == sliceSection x.slice
    | none => s
  | .core c => s.haltCores (· == c)
  | .table i => s.haltCores fun c => sectionOf c == sliceSection i

end Sys2Proof.Machine
end

