-- ==== Sys2Proof/Machine/Reads.lean ====
section
/-! DEFINITION. The operands that an instruction consumes (R337): its source registers and predicates, and whether one that is
poisoned stands among them. -/
namespace Sys2Proof.Machine

/-- The registers of a type's operand (R67). -/
def tw (t : BitVec 2) : Nat := vectorW t / 32

/-- The source fields of an instruction, each with the registers that it names where it is a V register, and where it is an S
register (R19, R20). -/
def sources : Instr → List (Reg × Nat × Nat)
  | .nop _ => []
  | .saddRR _ _ _ a b => [(a, 0, 1), (b, 0, 1)]
  | .saddRI _ _ _ a _ => [(a, 0, 1)]
  | .ssubRR _ _ _ a b => [(a, 0, 1), (b, 0, 1)]
  | .ssubRI _ _ _ a _ => [(a, 0, 1)]
  | .smulRR _ _ _ a b => [(a, 0, 1), (b, 0, 1)]
  | .smulRI _ _ _ a _ => [(a, 0, 1)]
  | .smulhRR _ _ _ a b => [(a, 0, 1), (b, 0, 1)]
  | .smulhRI _ _ _ a _ => [(a, 0, 1)]
  | .sdivRR _ _ _ a b => [(a, 0, 1), (b, 0, 1)]
  | .sdivRI _ _ _ a _ => [(a, 0, 1)]
  | .sandRR _ _ a b => [(a, 0, 1), (b, 0, 1)]
  | .sandRI _ _ a _ => [(a, 0, 1)]
  | .sorRR _ _ a b => [(a, 0, 1), (b, 0, 1)]
  | .sorRI _ _ a _ => [(a, 0, 1)]
  | .sxorRR _ _ a b => [(a, 0, 1), (b, 0, 1)]
  | .sxorRI _ _ a _ => [(a, 0, 1)]
  | .snot _ _ a => [(a, 0, 1)]
  | .sshlRR _ _ _ a b => [(a, 0, 1), (b, 0, 1)]
  | .sshlRI _ _ _ a _ => [(a, 0, 1)]
  | .sshrRR _ _ _ a b => [(a, 0, 1), (b, 0, 1)]
  | .sshrRI _ _ _ a _ => [(a, 0, 1)]
  | .ssarRR _ _ _ a b => [(a, 0, 1), (b, 0, 1)]
  | .ssarRI _ _ _ a _ => [(a, 0, 1)]
  | .sminRR _ _ _ a b => [(a, 0, 1), (b, 0, 1)]
  | .sminRI _ _ _ a _ => [(a, 0, 1)]
  | .smaxRR _ _ _ a b => [(a, 0, 1), (b, 0, 1)]
  | .smaxRI _ _ _ a _ => [(a, 0, 1)]
  | .smov _ _ a => [(a, 0, 1)]
  | .slil _ _ _ => []
  | .slih _ _ a _ => [(a, 0, 1)]
  | .ssel _ _ _ _ a b => [(a, 0, 1), (b, 0, 1)]
  | .scmpRR _ _ _ _ a b => [(a, 0, 1), (b, 0, 1)]
  | .scmpRI _ _ _ _ a _ => [(a, 0, 1)]
  | .vaddRR _ t _ a b => [(a, tw t, 1), (b, tw t, 1)]
  | .vaddRI _ t _ a _ => [(a, tw t, 1)]
  | .vsubRR _ t _ a b => [(a, tw t, 1), (b, tw t, 1)]
  | .vsubRI _ t _ a _ => [(a, tw t, 1)]
  | .vmulRR _ t _ a b => [(a, tw t, 1), (b, tw t, 1)]
  | .vmulRI _ t _ a _ => [(a, tw t, 1)]
  | .vmulhRR _ t _ a b => [(a, tw t, 1), (b, tw t, 1)]
  | .vmulhRI _ t _ a _ => [(a, tw t, 1)]
  | .vmad _ t _ a b c => [(a, tw t, 1), (b, tw t, 1), (c, tw t, 1)]
  | .vandRR _ t _ a b => [(a, tw t, 1), (b, tw t, 1)]
  | .vandRI _ t _ a _ => [(a, tw t, 1)]
  | .vorRR _ t _ a b => [(a, tw t, 1), (b, tw t, 1)]
  | .vorRI _ t _ a _ => [(a, tw t, 1)]
  | .vxorRR _ t _ a b => [(a, tw t, 1), (b, tw t, 1)]
  | .vxorRI _ t _ a _ => [(a, tw t, 1)]
  | .vshlRR _ t _ a b => [(a, tw t, 1), (b, tw t, 1)]
  | .vshlRI _ t _ a _ => [(a, tw t, 1)]
  | .vshrRR _ t _ a b => [(a, tw t, 1), (b, tw t, 1)]
  | .vshrRI _ t _ a _ => [(a, tw t, 1)]
  | .vsarRR _ t _ a b => [(a, tw t, 1), (b, tw t, 1)]
  | .vsarRI _ t _ a _ => [(a, tw t, 1)]
  | .vminRR _ t _ a b => [(a, tw t, 1), (b, tw t, 1)]
  | .vminRI _ t _ a _ => [(a, tw t, 1)]
  | .vmaxRR _ t _ a b => [(a, tw t, 1), (b, tw t, 1)]
  | .vmaxRI _ t _ a _ => [(a, tw t, 1)]
  | .vabs _ t _ a => [(a, tw t, 1)]
  | .vcmpRR _ t _ _ a b => [(a, tw t, 1), (b, tw t, 1)]
  | .vcmpRI _ t _ _ a _ => [(a, tw t, 1)]
  | .vsel _ t _ _ _ a b => [(a, tw t, 1), (b, tw t, 1)]
  | .vpopc _ t _ a => [(a, tw t, 1)]
  | .vclz _ t _ a => [(a, tw t, 1)]
  | .vbfeRR _ t _ a b => [(a, tw t, 1), (b, tw t, 1)]
  | .vbfeRI _ t _ a _ => [(a, tw t, 1)]
  | .vbfiRR _ t _ a b c => [(a, tw t, 1), (b, tw t, 1), (c, tw t, 1)]
  | .vbfiRI _ t _ a _ => [(a, tw t, 1)]
  | .vmov _ t _ a => [(a, tw t, 1)]
  | .vli _ _ _ _ => []
  | .vaddrRR _ _ _ _ a b => [(a, 2, 1), (b, 1, 1)]
  | .vaddrRI _ _ a _ => [(a, 2, 1)]
  | .vbcastRR _ t _ a b => [(a, tw t, 1), (b, 0, 1)]
  | .vbcastRI _ t _ a _ => [(a, tw t, 1)]
  | .v2sRR _ t _ a b => [(a, tw t, 1), (b, 0, 1)]
  | .v2sRI _ t _ a _ => [(a, tw t, 1)]
  | .vshflRR _ t _ _ a b => [(a, tw t, 1), (b, tw t, 1)]
  | .vshflRI _ t _ _ a _ => [(a, tw t, 1)]
  | .vred _ t _ _ a => [(a, tw t, 1)]
  | .pand _ _ _ _ => []
  | .por _ _ _ _ => []
  | .pxor _ _ _ _ => []
  | .pnot _ _ _ => []
  | .pmov _ _ _ => []
  | .pany _ _ _ => []
  | .pall _ _ _ => []
  | .pset _ _ a => [(a, 0, 1)]
  | .bra _ _ => []
  | .brc _ _ _ _ _ => []
  | .brd _ _ _ _ _ _ => []
  | .join _ => []
  | .call _ _ _ => []
  | .ret _ a => [(a, 0, 1)]
  | .loop _ d _ => [(d, 0, 1)]
  | .exit _ => []
  | .vfadd _ _ _ _ a b => [(a, 1, 1), (b, 1, 1)]
  | .vfsub _ _ _ _ a b => [(a, 1, 1), (b, 1, 1)]
  | .vfmul _ _ _ _ a b => [(a, 1, 1), (b, 1, 1)]
  | .vfma _ _ _ _ a b c => [(a, 1, 1), (b, 1, 1), (c, 1, 1)]
  | .vfmin _ _ _ a b => [(a, 1, 1), (b, 1, 1)]
  | .vfmax _ _ _ a b => [(a, 1, 1), (b, 1, 1)]
  | .vfcmp _ _ _ a b => [(a, 1, 1), (b, 1, 1)]
  | .vfabs _ _ _ a => [(a, 1, 1)]
  | .vfneg _ _ _ a => [(a, 1, 1)]
  | .vrcp _ _ a => [(a, 1, 1)]
  | .vrsq _ _ a => [(a, 1, 1)]
  | .vexp2 _ _ a => [(a, 1, 1)]
  | .vlog2 _ _ a => [(a, 1, 1)]
  | .cvt _ _ sf _ _ _ _ a => [(a, fmtWidth sf.toNat / 33 + 1, 1)]
  | .vpack _ df _ _ _ a => [(a, 32 / fmtWidth df.toNat, 1)]
  | .vpackMx8 _ mx4 _ _ a _ c => [(a, if mx4 then 8 else 4, 1), (c, 0, 1)]
  | .vunpack _ _ sf _ _ a b => [(a, 1, 1), (b, 0, if isBlock sf then 2 else 0)]
  | .seedRR _ _ a => [(a, 0, 1)]
  | .seedRI _ _ _ => []
  | .ldS _ _ _ _ a => [(a, 0, 1)]
  | .ldV _ _ _ _ a => [(a, 2, 1)]
  | .ldVb _ _ _ _ a => [(a, 0, 1)]
  | .ldT _ _ _ _ a b => [(a, 0, 1), (b, 0, 1)]
  | .ldLast _ _ _ _ a => [(a, 2, 1)]
  | .stS _ _ ty d a => [(a, 0, 1), (d, 0, if ty = 7 then 2 else 1)]
  | .stV _ _ ty d a => [(a, 2, 1), (d, (tyBytesV ty + 3) / 4, if ty = 7 then 4 else 1)]
  | .stVb _ _ cnt d a => [(a, 0, 1), (d, cntOf cnt, 1)]
  | .stPair _ _ cnt d a b => [(a, 0, 1), (b, 0, 2), (d, cntOf cnt, 1)]
  | .pref _ _ _ a b => [(a, 0, 1), (b, 0, 1)]
  | .pin _ _ _ a b => [(a, 0, 1), (b, 0, 1)]
  | .unpin _ _ _ a b => [(a, 0, 1), (b, 0, 1)]
  | .wbr _ _ a b => [(a, 0, 1), (b, 0, 1)]
  | .red _ _ ty _ _ d a => [(a, 2, 1), (d, atomBytes ty / 4, 1)]
  | .atom _ _ ty _ _ _ a b => [(a, 2, 1), (b, atomBytes ty / 4, 1)]
  | .cas _ _ ty _ _ a b => [(a, 2, 1), (b, atomBytes ty / 2, if ty = 9 then 4 else 2)]
  | .arenaNew _ _ _ a b => [(a, 0, 1), (b, 0, 2)]
  | .arenaAlloc _ _ _ _ a b => [(a, 0, 1), (b, 0, 1)]
  | .arenaSeal _ a => [(a, 0, 1)]
  | .arenaReset _ _ a => [(a, 0, 1)]
  | .arenaDrop _ a => [(a, 0, 1)]
  | .arenaQuota _ _ a b => [(a, 0, 1), (b, 0, 1)]
  | .arenaInfo _ _ _ _ _ a => [(a, 0, 1)]
  | .waitc _ _ _ => []
  | .waitcTest _ _ _ _ => []
  | .bar _ _ _ => []
  | .hdlInit _ _ a b => [(a, 0, 1), (b, 0, 1)]
  | .hdlInitRelease _ _ a b => [(a, 0, 1), (b, 0, 1)]
  | .hdlExpect _ _ a b => [(a, 0, 1), (b, 0, 1)]
  | .hdlArrive _ _ a b => [(a, 0, 1), (b, 0, 1)]
  | .hdlWait _ _ a b => [(a, 0, 1), (b, 0, 1)]
  | .hdlTest _ _ _ a b => [(a, 0, 1), (b, 0, 1)]
  | .watch _ _ _ _ a => [(a, 0, 1)]
  | .waitw _ _ _ _ => []
  | .yield _ kind _ _ a b => [(a, 0, if kind = 2 then 1 else 0), (b, 0, if kind = 2 then 1 else 0)]
  | .qbind _ _ _ _ => []
  | .enq _ _ _ a b => [(a, 0, 1), (b, 0, 1)]
  | .spawn _ _ _ a b => [(a, 0, 1), (b, 0, 1)]
  | .viewDecl _ _ _ _ _ _ a b => [(a, 0, 1), (b, 0, 1)]
  | .viewInfo _ _ _ a => [(a, 0, 1)]
  | .tend _ => []
  | .mw _ _ a b => [(a, 0, 2), (b, 0, 2)]
  | .mws _ _ a b => [(a, 0, 2), (b, 0, 2)]
  | .mswap _ => []
  | .ms _ _ d a b => [(d, 0, 2), (a, 0, 2), (b, 0, 2)]
  | .mst _ _ d a b => [(d, 0, 2), (a, 0, 2), (b, 0, 2)]
  | .mchain _ _ => []
  | .mq _ _ _ _ => []
  | .cp _ _ _ d a b => [(d, 0, 2), (a, 0, 2), (b, 0, 1)]
  | .cpG _ _ _ d a b => [(d, 0, 2), (a, 0, 2), (b, 0, 1)]
  | .cpS _ _ _ d a b => [(d, 0, 2), (a, 0, 2), (b, 0, 1)]
  | .cpRed _ _ _ _ _ d a b => [(d, 0, 2), (a, 0, 2), (b, 0, 1)]
  | .cpwp _ _ _ => []
  | .collAr _ _ _ _ d a b => [(d, 0, 2), (a, 0, 2), (b, 0, 1)]
  | .collAg _ _ d a b => [(d, 0, 2), (a, 0, 2), (b, 0, 1)]
  | .collRs _ _ _ _ d a b => [(d, 0, 2), (a, 0, 2), (b, 0, 1)]
  | .collBc _ _ d a b => [(d, 0, 2), (a, 0, 2), (b, 0, 1)]
  | .netGet _ _ d a b => [(d, 0, 2), (a, 0, 2), (b, 0, 1)]
  | .netPut _ _ d a b => [(d, 0, 2), (a, 0, 2), (b, 0, 1)]
  | .netRead _ _ d a b => [(d, 0, 2), (a, 0, 2), (b, 0, 1)]
  | .trap _ _ _ a b => [(a, 0, 1), (b, 0, 1)]
  | .brk _ _ => []
  | .rft _ => []
  | .sysrd _ _ _ _ => []
  | .syswr _ _ _ a => [(a, 0, 1)]
  | .tinv _ _ _ a b => [(a, 0, 1), (b, 0, 1)]
  | .halt _ _ _ _ => []
  | .snap _ _ a b => [(a, 0, 1), (b, 0, 1)]
  | .slotset _ _ _ a => [(a, 0, 1)]
  | .accessPerform _ => []
  | .syncPushAck _ _ => []
  | .l1RenewalReply _ => []
  | .faultReply _ => []
  | .engineStart _ => []
  | .engineComplete _ => []
  | .hurdleTimeout _ _ => []
  | .waitwLimitExpiry _ _ => []
  | .haltWake _ => []
  | .watchdog _ => []
  | .ptsCreep _ => []
  | .yieldSave _ => []
  | .yieldResumeRecord _ => []
  | .tendPoint _ => []
  | .mergeComplete _ => []
  | .taskPlace _ => []
  | .batchTimerExpiry _ => []
  | .f0Refill _ => []
  | .lapStart => []
  | .scrubAndDropSweep _ => []
  | .lineEviction _ => []
  | .snapshotDrain _ => []
  | .frozenGranuleCopy _ => []
  | .migrationSlot => []
  | .telemetrySlot _ => []
  | .collAnnouncement _ => []
  | .collTimeLimit _ => []
  | .endpointTimeLimit _ => []
  | .transportFailure _ => []
  | .nvmeCompletion _ _ => []
  | .peerRemoteAccess _ _ _ _ _ => []
  | .hostCxlMemRead _ => []
  | .hostCxlMemWrite _ _ => []
  | .snpData _ => []
  | .snpInv _ => []
  | .snpCur _ => []
  | .nopPacket _ => []
  | .recordPacket _ => []
  | .nodeDef _ => []
  | .nodeDel _ => []
  | .commDef _ => []
  | .epDef _ => []
  | .vpool _ => []
  | .qcreate _ => []
  | .qdestroy _ => []
  | .getVersion => []
  | .getCapabilities => []
  | .negotiateAlgorithms => []
  | .getDigests => []
  | .getCertificate _ => []
  | .challenge _ => []
  | .getMeasurements _ => []
  | .unsupportedRequest _ => []
  | .aminv _ => []
  | .fqreplyResume _ => []
  | .fqreplyDecline _ => []
  | .migrate _ => []
  | .unmap _ => []
  | .icmsg _ => []
  | .hirq _ => []
  | .vacate _ => []
  | .crst _ => []
  | .l2hmWrite _ => []
  | .pwrstRequest _ => []
  | .clusterPowerStateReached _ => []
  | .herrRead _ => []
  | .icpendRead _ => []
  | .clampcRead _ => []
  | .srdropRead _ => []
  | .sysregWrite _ => []
  | .powerOnReset => []
  | .functionLevelReset => []
  | .linkDown => []
  | .powerClamp _ => []
  | .thermalTrip _ _ => []
  | .thermalResume _ _ => []
  | .linkUp => []
  | .backInvalidateAcknowledged _ _ => []
  | .cdatRequest => []
  | .asynchronousCompletion _ => []
  | .firmwareEndsTheTask _ => []
  | .groupRetrains _ => []

/-- The predicates that an instruction reads beside its guard. -/
def predSources : Instr → List Nat
  | .ssel _ n _ _ _ _ => [n.toNat]
  | .vsel _ _ n _ _ _ _ => [n.toNat]
  | .pand _ _ a b => [a.toNat, b.toNat]
  | .por _ _ a b => [a.toNat, b.toNat]
  | .pxor _ _ a b => [a.toNat, b.toNat]
  | .pnot _ _ a => [a.toNat]
  | .pmov _ _ a => [a.toNat]
  | .pany _ _ a => [a.toNat]
  | .pall _ _ a => [a.toNat]
  | .brc _ n _ _ _ => [n.toNat]
  | .brd _ n _ _ _ _ => [n.toNat]
  | _ => []

/-- Does an instruction read lanes other than those that it is active in (R71, R72, R93, R94)? It is taken to consume every lane
(DESIGN CHOICE, assumption 102). -/
def readsAcross : Instr → Bool
  | .vbcastRR .. | .vbcastRI .. | .v2sRR .. | .v2sRI .. | .vshflRR .. | .vshflRI .. | .vred .. | .vpackMx8 .. => true
  | .vunpack _ _ sf _ _ _ _ => isBlock sf
  | _ => false

/-- R337: is a source of a wave poisoned in one of some lanes? A FIFO's entry carries its mark behind its lanes (assumption 102). -/
def State.sourceBad (s : State) (x : Wave) (lanes : BitVec 32) (before : List Reg) (q : Reg × Nat × Nat) : Bool :=
  if isV q.1 then x.bad.any fun k => decide (q.1.toNat ≤ k / 32) && decide (k / 32 < q.1.toNat + q.2.1) && lanes.getLsbD (k % 32)
  else if isS q.1 then (List.range q.2.2).any fun i => x.bad.contains (sBad (q.1.toNat + i))
  else if isQ q.1 then match s.fifoOf x q.1 with
    | some (_, es) => (es.getD (s.popIndex x before q.1) []).getD 32 0 != 0
    | none => false
  else false

/-- R337: has an instruction of a path, active in `act`, a poisoned operand? -/
def State.operandBad (s : State) (x : Wave) (act : BitVec 32) (f : Sched) (i : Instr) : Bool :=
  let lanes := if readsAcross i then 0xFFFFFFFF else act
  let srcs := sources i
  !x.bad.isEmpty && x.bad.contains (pBad (f.guard.toNat % 8)) ||
    act != 0 && ((predSources i).any (fun n => x.bad.contains (pBad n)) ||
      srcs.zipIdx.any fun q => s.sourceBad x lanes ((srcs.take q.2).map (·.1)) q.1)

end Sys2Proof.Machine
end

