-- ==== Sys2Proof/Machine/Schedule.lean ====
section
/-! DEFINITION. Fetch (R13), the checks made at issue (R38), the eligibility of a path (R26), the passing of time, and
which agent moves when the agenda names none (assumption 1). -/
namespace Sys2Proof.Machine
open Sys2Proof

/-! ### Fetch (R13) -/

/-- What a fetch gives: the word, nothing yet, or a fault. -/
inductive Fetched where
  | ok (s : State) (w : BitVec 96)
  | wait (s : State)
  | bad (s : State) (code info : Nat)

/-- The bytes of one piece of an instruction inside a line of a sealed arena; the slice keeps the lines in `keep`. -/
def State.fetchPiece (s : State) (a : Who) (pts k : Nat) (w : Win) (va len : Nat) (keep : List Nat) : Except (Nat × Nat) (State × List Byte) :=
  let l := s.locOf { mkReq 0 0 va len 0 with win := k, gen := w.gen }
  if 3 ≤ l.kind then .ok (s, s.readAt l va len)
  else match s.fill a l w w.gen true false 0 pts keep with
    | .error e => .error e
    | .ok s => if s.poisoned l va len then .error (17, 0) else .ok (s, s.readAt l va len)

/-- R13: the instruction word at a PC. -/
def State.fetch (s : State) (x : Wave) (pc : Addr) : Fetched :=
  let va := pc.toNat
  match s.cover x.ctx va with
  | none => .bad s 4 0
  | some (k, w) =>
    if w.state = .dropped then .bad s 6 0
    else if w.state ≠ .sealed ∨ w.base + w.size < va + 12 then .bad s 4 0
    else if s.migrating k va then .wait s
    else
      let n := min 12 (128 - va % 128)
      match s.fetchPiece x.who x.pts k w va n [] with
      | .error e => .bad s e.1 e.2
      | .ok (s, bs) =>
        if n = 12 then .ok s (wordOfBytes bs)
        else match s.fetchPiece x.who x.pts k w (va + n) (12 - n) [lineTag k w.gen va] with
          | .error e => .bad s e.1 e.2
          | .ok (s, cs) => .ok s (wordOfBytes (bs ++ cs))

/-! ### Checks made at issue (R38, Table 1.11) -/

/-- Table 1.10: the opcodes of the control-core subset. -/
def controlOpcode (o : Nat) : Bool :=
  decide (o ≤ 0x13) || (decide (0x30 ≤ o) && decide (o ≤ 0x3F)) || o == 0x80 || o == 0x88 ||
  (decide (0x90 ≤ o) && decide (o ≤ 0x93)) || (decide (0x98 ≤ o) && decide (o ≤ 0x9A)) ||
  (decide (0xA0 ≤ o) && decide (o ≤ 0xA6)) || o == 0xB0 || o == 0xB8 || o == 0xB7 || o == 0xBC || decide (0xF0 ≤ o)

/-- Queue ports that a word reads, by its fields: sources of its format, and the data field of a store or RED. -/
def queueReads (r : Raw) : List Reg :=
  let data : List Reg := if [0x89, 0x8A, 0x8B, 0x98].contains r.opc.toNat then [r.d] else []
  (match r.fmt.toNat with
    | 0 => [r.a, r.b, r.mid.extractLsb' 0 8]
    | 1 => [r.a]
    | 2 => [r.a, r.b] ++ data
    | _ => []).filter isQ

/-- Queue ports that a word writes. -/
def queueWrites (r : Raw) : List Reg :=
  if 3 ≤ r.fmt.toNat ∨ [0x89, 0x8A, 0x8B, 0x98, 0xBA].contains r.opc.toNat then [] else [r.d].filter isQ

/-- The queue port whose binding QBIND changes: it names the port, but neither pops nor pushes (R219). -/
def queueBinds (r : Raw) : List Reg := if r.opc = 0xBA then [r.d] else []

/-- Table 1.10: the port that an opcode issues to: S (0), V (1), M (2) or E (3). -/
def portOf (o : Nat) : Nat :=
  if o ≤ 0x13 ∨ (0x30 ≤ o ∧ o ≤ 0x3F) ∨ [0x53, 0xB0, 0xB1, 0xB8, 0xB9, 0xBA, 0xC0].contains o ∨ 0xF0 ≤ o then 0
  else if o < 0x80 then 1 else if o < 0xC0 then 2 else 3

/-- R26: can a core's port still accept an instruction in the cc under way? -/
def State.portFree (s : State) (core port : Nat) : Bool := dget 0 s.ports (4 * core + port) != s.clk + 1
/-- R26: a core's port accepts an instruction in the cc under way. -/
def State.notePort (s : State) (core port : Nat) : State := { s with ports := dset 0 s.ports (4 * core + port) (s.clk + 1) }
/-- R326: is the cc under way a clamped one of a core? -/
def State.clampedNow (s : State) (core : Nat) : Bool := dget 0 s.clampAt core == s.clk + 1

/-- Check 5 at issue: BAR's n above the block's waves (R123); MCHAIN's arrays beyond 3 or not the block's (R153). -/
def State.issueCheck5 (s : State) (x : Wave) : Instr → Bool
  | .bar _ _ n => match s.block? x.block with
    | some b => decide (b.nwaves < n.toNat)
    | none => false
  | .mchain _ cm1 => match s.block? x.block, x.array with
    | some b, some a => decide (3 < a + cm1.toNat) || decide (b.arrayBase + b.arrayCount ≤ a + cm1.toNat)
    | _, _ => false
  | _ => false

/-- The detail value of the first failed check of Table 1.11 for a word that is about to issue, or its instruction. -/
def State.checkWord (s : State) (x : Wave) (w : BitVec 96) : Except Nat Instr :=
  let r := rawOf w
  match decode w with
  | .error d => if 6 ≤ d ∧ ((buildForm r).map (s.issueCheck5 x)).getD false = true then .error 5 else .error d
  | .ok i =>
    let o := r.opc.toNat
    if s.issueCheck5 x i then .error 5
    else if 0xF2 ≤ o ∧ x.super = false then .error 8
    else if x.super ∧ (controlOpcode o = false ∨ (0x98 ≤ o ∧ o ≤ 0x9A ∧ isV r.a)) then .error 9
    else if (queueReads r ++ queueWrites r).any fun q => (s.fifoOf x q).isNone then .error 10
    else .ok i

/-! ### Eligibility (R26) -/

/-- The entries of one wave's store of old values (R219), over a core: the undo pool holds 512. -/
def State.undoUsed (s : State) (core : Nat) : Nat :=
  s.waves.foldl (fun n e => if e.2.core = core then n + e.2.undo.length else n) 0

/-- Does an access wait for its release in the late-fault store buffer? -/
def Acc.buffered (a : Acc) : Bool := match a.op with
  | .store | .red .. | .atom .. | .cas .. => true
  | _ => false

/-- R114, R182: does an access hold back every younger instruction of its wave until it completes? -/
def Acc.holdsBack (a : Acc) : Bool := match a.op with
  | .arenaSeal _ | .arenaReset .. | .arenaDrop _ => true
  | _ => false

/-- R197: how many instructions a wave of a stopping block may still issue: at most six; how many is left open (assumption 14). -/
def Block.allowance (b : Block) (index : Nat) : Nat := Config.pick (b.haltDraw + index) % 7

/-- May a path issue at all: live, not held, its wave neither parked, stopped nor ended, its core not clamped in this cc, its block
where it can run? -/
def State.canIssue (s : State) (w : Nat) (pcb : Bool) : Bool :=
  match kget s.waves w with
  | none => false
  | some x =>
    let p := x.path pcb
    p.live && (match p.hold with
      | .none => true
      | _ => false) && x.park.isNone && !x.stopped && !x.ended && !s.thermStop && !s.bootFailed && !s.clampedNow x.core &&
    (if x.super then !(s.ctlRegs (w % 16)).stopped
      else match s.block? x.block with
        | some b => !b.away && !b.vacating && !b.halted && (!b.stopping || decide (x.skid < b.allowance x.index))
        | none => false)

/-- R21: the entries that the ports read by a word need stand in their FIFOs, and those it writes have room. An entry that
the word itself pops makes room for the one it pushes (assumption 69). -/
def State.queuesReady (s : State) (x : Wave) (r : Raw) : Bool :=
  let rd := (queueReads r).eraseDups
  let sameFifo (q p : Reg) : Bool := (s.fifoOf x q).map (·.1) == (s.fifoOf x p).map (·.1)
  rd.all (fun q => match s.fifoOf x q with
    | some (_, es) => decide ((rd.filter (sameFifo q)).length ≤ es.length)
    | none => false) &&
  (queueWrites r).all fun q => match s.fifoOf x q with
    | some (f, _) => decide (s.fifoLoad x.block f < 16 + (rd.filter (sameFifo q)).length)
    | none => true

/-- Commands of a wave's core of one kind that have not completed. -/
def State.cmdCount (s : State) (core : Nat) (p : Cmd → Bool) : Nat := (s.cmds.filter fun c => c.2.core == core && p c.2).length

/-- R143, R164: has the engine of a command room for it? -/
def State.engineRoom (s : State) (x : Wave) (o : Nat) : Bool :=
  if 0xC8 ≤ o ∧ o ≤ 0xCE then
    decide (s.cmdCount x.core (fun c => c.array == 4 * x.core + x.array.getD 0 && (match c.op with
      | .copy .. | .coll .. | .net .. => false
      | _ => true)) < 8)
  else if 0xD8 ≤ o ∧ o ≤ 0xDB then
    decide (s.cmdCount x.core (fun c => match c.op with
      | .copy .. => true
      | _ => false) < 64)
  else if 0xE0 ≤ o ∧ o ≤ 0xE3 then decide (s.cmdCount x.core Cmd.isColl < 16)
  else if 0xE8 ≤ o ∧ o ≤ 0xEA then decide (s.cmdCount x.core Cmd.isNet < 64)
  else true

/-- The further conditions that an instruction's own rule places on its issue. -/
def State.ownReady (s : State) (w : Nat) (pcb : Bool) (x : Wave) (i : Instr) : Bool :=
  match i with
  | .join _ => match (x.path pcb).join with
    | some j => j != (x.path pcb).pc || !(x.path (!pcb)).live || (x.path (!pcb)).standing == j
    | none => true
  | .yield .. => !(x.path (!pcb)).live
  | .bar .. | .trap .. | .brk .. | .rft .. | .halt .. => x.pend.isEmpty
  | .hdlInit f off a b | .hdlInitRelease f off a b =>
    let r := s.atIssue w f
    let y := r.wave w
    match s.block? x.block with
    | some k => (r.readU y b).getLsbD 31 || k.hurdles.contains (r.ea y a off 0) || decide (k.hurdles.length < k.hurdleMax) ||
        r.active y pcb f == 0
    | none => true
  | _ => true

/-- R26: has the wave's STALL distance passed? A wave that has issued nothing since its launch or resume has none (R202); a wave issues
once in a cc. -/
def State.stallPassed (s : State) (x : Wave) (f : Sched) : Bool :=
  x.rested || decide (x.lastIssue + max f.stall.toNat 1 ≤ s.clk)

/-- R25: the lanes in which an instruction of a path would be active. -/
def State.activeAt (s : State) (w : Nat) (pcb : Bool) (f : Sched) : BitVec 32 :=
  let r := s.atIssue w f
  r.active (r.wave w) pcb f

/-- R26: may the instruction issue, but for the room in the undo pool (`poolRoom`)? The ports a word names stand in its way
only where its guard leaves a lane (R21). The in-flight access table and the late-fault store buffer take one entry for
each instruction and hold back every memory instruction when full (assumption 68). Pushes of one cc stand in the order of their
ports, so that none of port S follows an issue of port V in it (R133). -/
def State.eligible (s : State) (w : Nat) (pcb : Bool) (x : Wave) (r : Raw) (i : Instr) : Bool :=
  let f := r.sched
  let idle := s.activeAt w pcb f == 0
  let mem := 0x80 ≤ r.opc.toNat && r.opc.toNat < 0xC0
  (List.range 12).all (fun n => !f.wait.getLsbD n || (x.ctr n).count == 0) &&
  (f.sig == 15 || decide ((x.ctr f.sig.toNat).count < 63)) &&
  s.stallPassed x f && s.portFree x.core (portOf r.opc.toNat) && decide (x.runahead < 32) && !x.pend.any Acc.holdsBack &&
  (portOf r.opc.toNat != 0 || (queueWrites r).isEmpty || s.portFree x.core 1) &&
  ((queueReads r ++ queueWrites r ++ queueBinds r).isEmpty || (x.pend.isEmpty && (idle || s.queuesReady x r))) &&
  (!mem || (decide ((s.waves.foldl (fun n e => if e.2.core = x.core then n + e.2.pend.length else n) 0) < 256) &&
    decide ((s.waves.foldl (fun n e => if e.2.core = x.core then n + (e.2.pend.filter Acc.buffered).length else n) 0) < 256))) &&
  s.engineRoom x r.opc.toNat && s.ownReady w pcb x i

/-- What stands at a path: an instruction that may issue (with the state after its fetch), an exception to take, or
nothing that may happen yet. -/
inductive Ready where
  | run (s : State) (i : Instr)
  | trap (s : State)
  | no

/-- R13, R293: a fetch fault is taken when every older access of the wave has performed. -/
def State.fetchFault (s : State) (w : Nat) (pcb : Bool) (x : Wave) (code info : Nat) : Ready :=
  if !x.pend.isEmpty then .no
  else
    let pc := (x.path pcb).pc
    let t : Trap := { Trap.of code (x.path pcb).mask with va := pc.toNat, info := info }
    if x.super = false ∧ (code = 8 ∨ code = 9 ∨ code = 10) then
      .trap (({ s with uid := s.uid + 1 } : State).parkWave w s.uid pcb pc t none)
    else .trap (s.raise w pcb t)

/-- What the instruction at a path may do now; one with a poisoned operand traps SOFT_ERROR (R337). -/
def State.prepare (s : State) (w : Nat) (pcb : Bool) : Ready :=
  if s.canIssue w pcb then
    let x := s.wave w
    match s.fetch x (x.path pcb).pc with
    | .wait _ => .no
    | .bad s code info => s.fetchFault w pcb x code info
    | .ok s word => match s.checkWord x word with
      | .error d =>
        if s.stallPassed x (rawOf word).sched && (List.range 12).all (fun n => !(rawOf word).sched.wait.getLsbD n || (x.ctr n).count == 0) then
          .trap (s.raiseIssue w pcb (rawOf word).sched { Trap.of 1 (x.path pcb).mask with detail := d })
        else .no
      | .ok i =>
        if s.eligible w pcb x (rawOf word) i then
          let act := s.activeAt w pcb (rawOf word).sched
          if s.operandBad x act (rawOf word).sched i then .trap (s.raiseIssue w pcb (rawOf word).sched (Trap.of 17 act))
          else .run (s.notePort x.core (portOf (rawOf word).opc.toNat)) i
        else .no
  else .no

/-- R194, R219: has the undo pool room for the entries that stand in it after an instruction of a wave? -/
def State.poolRoom (s : State) (w : Nat) (u : State) : Bool := decide (u.undoUsed (s.wave w).core ≤ 512)

/-- R194, R219: an instruction whose entries the undo pool has no room for is not eligible: nothing happens. -/
def State.poolHeld (s : State) (w : Nat) (u : State) : State := if s.poolRoom w u then u else s

/-- Is there anything at a path that may happen now (R26)? -/
def State.mayIssue (s : State) (w : Nat) (pcb : Bool) : Bool := match s.prepare w pcb with
  | .no => false
  | .trap _ => true
  | .run t i => match exec i { t with turn := some (w, pcb) } with
    | .next u => s.poolRoom w u
    | _ => true

/-- Is a constructor an event, that no wave issues? -/
def isEvent (i : Instr) : Bool := (schedOf i).isNone

/-! ### Time -/

/-- R198: does a block's watchdog count now? -/
def State.watched (s : State) (e : Nat × Block) : Bool :=
  !e.2.away && !s.thermStop && !(s.liveWaves e.1).isEmpty && (blockWaves e.1 e.2.nwaves).all fun w => (s.wave w).park.isNone

/-- R26: does a wave have an eligible path now? -/
def State.eligibleNow (s : State) (w : Nat) : Bool := s.mayIssue w false || s.mayIssue w true

/-- R193: has a wave that is eligible waited so long that no further cc may pass before it issues? -/
def State.overdue (s : State) : Bool := s.waves.any fun e => decide (1023 ≤ e.2.eligible) && s.eligibleNow e.1

/-- R295: BOOTST once the boot ROM of die 0 has checked the image, which it has by the end of the first cc (assumption 11):
ready, or failed with a code. -/
def State.romEnd (s : State) : BitVec 16 :=
  if s.boot ≠ 0 then s.boot else if Config.bootOk then 1 else BitVec.ofNat 16 (2 + Config.pick s.free % 256 * 256)

/-- R198, R318: a block's watchdog counts a cc, and barks where that finds it at WDLIM. -/
def Block.count (b : Block) (limit : Nat) : Block := { b with wdog := b.wdog + 1, bark := decide (limit ≤ b.wdog + 1) }

/-- Does a block's watchdog count the cc that ends: none of its waves has issued in it (R198), and it is no clamped one (R326)? -/
def State.counts (s : State) (e : Nat × Block) : Bool :=
  s.watched e && !s.clampedNow e.2.core && !(s.waves.any fun v => v.2.block == e.1 && !v.2.super && !v.2.rested && v.2.lastIssue == s.clk)

/-- One cc passes, unless a wave is overdue (R193). The boot ROM ends (R295). The watchdogs of blocks that did not issue in
it count (R198), the pushes of port M in it enter their FIFOs (R133), waves that could have issued in it count (R26), an access held
at its coherence point may be tried again, and the blocks whose halt has drained, and none of whose waves still issues, stand halted
(R197). -/
def State.tick (s : State) : State :=
  if s.overdue then s
  else
    let limit := (s.sysReg 0x0202 0).toNat * 1024
    let t := { s with
      clk := s.clk + 1
      boot := s.romEnd
      blocks := s.blocks.map fun (e : Nat × Block) => (e.1, (if s.counts e then e.2.count limit else e.2).flushPush)
      waves := s.waves.map fun (e : Nat × Wave) => (e.1, { e.2 with
        eligible := if s.eligibleNow e.1 then e.2.eligible + 1 else e.2.eligible
        pend := match e.2.pend with
          | a :: t => { a with wait := false } :: t
          | [] => [] }) }
    t.blocks.foldl (fun s e => if (blockWaves e.1 e.2.nwaves).any s.eligibleNow then s else s.finishHalt e.1) t

/-- `n` cc pass. -/
def State.tickBy (s : State) : Nat → State
  | 0 => s
  | n + 1 => s.tick.settle.tickBy n

/-- What ends every step: held paths that may go on do, the conditions of saved waves are noted, and no turn is left. -/
def State.endStep (s : State) : State := { s.settle.noteAllConds with turn := none }

/-! ### Which agent moves when the agenda is empty (assumption 1) -/

/-- The event by which a wave's head performs. -/
def State.headEvent (s : State) (w : Nat) (a : Acc) : Instr :=
  match a.regOp with
  | some (false, reg, _, _) => match reg with
    | 0x0018 => .herrRead w
    | 0x0021 => .icpendRead w
    | 0x020B => .clampcRead w
    | 0x0124 => .srdropRead w
    | _ => .accessPerform w
  | some (true, reg, _, v) => match reg with
    | 0x0103 => .aminv w
    | 0x011C => match replyAction v with
      | some true => .fqreplyResume w
      | some false => .fqreplyDecline w
      | none => .sysregWrite w
    | 0x0128 =>
      let p := s.pageDesc v.toNat
      if p.bad then .sysregWrite w else if p.op = 1 then .migrate w else .unmap w
    | 0x0020 => .icmsg w
    | 0x0030 => .hirq w
    | 0x0200 => .vacate w
    | 0x0207 => .crst w
    | 0x0110 => .l2hmWrite w
    | 0x0208 => .pwrstRequest w
    | _ => .sysregWrite w
  | none => .accessPerform w

/-- The next thing that a wave's oldest access does by itself. -/
def State.waveEvent (s : State) (w : Nat) (x : Wave) : Option Instr :=
  match x.head with
  | none => none
  | some a =>
    if a.reply.isSome then some (.faultReply w)
    else match a.acks with
      | some (c :: _, _) => some (.syncPushAck w c)
      | _ => if a.wait then (if (s.frozenFor w).any s.copyRoom then some (.frozenGranuleCopy w) else none)
        else (s.readyHead w).map fun a => s.headEvent w a

/-- Have two states the same requests out: granules to copy (R334), snoops of the host (R323)? -/
def State.sameRequests (s t : State) : Bool := s.asked == t.asked && s.hostAck == t.hostAck

/-- The next thing that an engine command does by itself. -/
def State.cmdEvent (s : State) (id : Nat) (c : Cmd) : Option Instr :=
  if c.reply.isSome then some (.faultReply (2 ^ 32 + id))
  else if c.finished then some (.engineComplete id)
  else if c.started = false then (if s.cmdTurn c then some (.engineStart id) else none)
  else if c.isColl && s.deadlinePassed c then some (.collTimeLimit id)
  else if c.isNet && s.deadlinePassed c then some (.endpointTimeLimit id)
  else if kget (s.progressCmd id).cmds id = some c ∧ s.sameRequests (s.progressCmd id) then none
  else some (.accessPerform (2 ^ 32 + id))

/-- The next thing that a task does by itself. -/
def State.taskEvent (s : State) (id : Nat) (t : Task) : Option Instr :=
  match t.merge with
  | some m =>
    if m.reply.isSome then some (.faultReply (2 ^ 33 + id))
    else if kget (s.mergeMove id).tasks id = some t ∧ s.sameRequests (s.mergeMove id) then none
    else some (.mergeComplete id)
  | none => match t.state, t.saved, t.block with
    | .saved, some sv, some b => if (s.liveWaves b).all sv.conds.contains then some (.yieldResumeRecord id) else none
    | _, _, _ => none

/-- The next thing that a block does by itself. -/
def State.blockEvent (s : State) (id : Nat) (b : Block) : Option Instr :=
  if b.away then none
  else if s.tendReady id && ((kget s.tasks b.task).map (·.state)) == some .running then some (.tendPoint id)
  else if s.yielded id && !b.stopping && !b.vacating && s.drained id b && !s.matrixBusy id &&
      !(s.freeAreas (dieOf b.core)).isEmpty then some (.yieldSave id)
  else if !b.refill.isEmpty && decide (s.fifoLoad id 0 < 16) then some (.f0Refill id)
  else if !b.stopping && !(s.liveWaves id).isEmpty && b.bark then some (.watchdog id)
  else none

/-- The end of a limit at a path; of those that the divergence stack holds, with PCA. -/
def State.limitEvent (s : State) (w : Nat) (x : Wave) (pcb : Bool) : Option Instr :=
  let spilled := if pcb || x.park.isSome || x.stopped || s.waveAway x then [] else stackPaths x.stack
  if spilled.any fun e => s.hurdleLate e.1 then some (.hurdleTimeout w pcb)
  else if spilled.any fun e => s.waitwLate e.1 then some (.waitwLimitExpiry w pcb)
  else if s.waiting w pcb then
    match (x.path pcb).hold with
    | .hdlWait _ _ _ true limit _ => if s.limitPassed (x.path pcb) limit then some (.hurdleTimeout w pcb) else none
    | .waitw _ _ limit _ => if s.limitPassed (x.path pcb) limit then some (.waitwLimitExpiry w pcb) else none
    | .halt _ mask limit _ =>
      if s.haltEvents w (s.limitPassed (x.path pcb) limit) &&& mask != 0 then some (.haltWake w) else none
    | _ => none
  else none

/-- Has a snapshot something to drain in the slot under way? -/
def State.canDrain (s : State) (n : Snap) : Bool :=
  let mine := s.frozen.filter fun f => f.snap == n.num
  (mine.isEmpty || mine.any s.drainRoom) && s.drainSnap n.num != s

/-- Has a unit of a scrub slot something to do in the one under way (`scrubUnit`)? -/
def State.canScrub (s : State) (u : Nat) : Bool :=
  if u < 128 then s.slotDone (64 + u) == 0 && s.drops.any fun e => e.left.contains u
  else if u < 176 then s.slotDone (64 + u) == 0 && !s.drops.isEmpty && s.l1.any fun e => e.1 / 2 ^ 80 == u - 128
  else s.slotDone (u - 160) == 0

/-- What the slot under way is for, where it has work. -/
def State.slotEvent (s : State) : Option Instr :=
  match s.slotNow with
  | 2 => (s.snaps.find? s.canDrain).map fun n => .snapshotDrain n.num
  | 3 => ((List.range 192).find? s.canScrub).map .scrubAndDropSweep
  | 4 => if s.pageOp.isSome && s.slotDone 32 == 0 then some .migrationSlot else none
  | 5 => ((List.range 16).find? fun i => s.slotDone (240 + i) == 0).map .telemetrySlot
  | _ => none

/-- Everything but issues that is due, in the order in which the default looks at it. -/
def State.dueEvent (s : State) : Option Instr :=
  (s.waves.findSome? fun e => s.waveEvent e.1 e.2).or <|
  (s.cmds.findSome? fun e => s.cmdEvent e.1 e.2).or <|
  (if (s.frozenFor (2 ^ 32)).any s.copyRoom then some (.frozenGranuleCopy (2 ^ 32)) else none).or <|
  ((s.asyncs.find? fun o => o.kind == 0).map fun o => .asynchronousCompletion o.uid).or <|
  ((s.vacates.find? fun v => (s.vacateBlock v).isSome || !(s.blocks.any fun e => v.cores.contains e.2.core && !e.2.away)).map
    fun v => .asynchronousCompletion v.uid).or <|
  (s.tasks.findSome? fun e => s.taskEvent e.1 e.2).or <|
  (s.blocks.findSome? fun e => s.blockEvent e.1 e.2).or <|
  (s.waves.findSome? fun e => (s.limitEvent e.1 e.2 false).or (s.limitEvent e.1 e.2 true)).or <|
  ((s.nodes.find? fun e => !e.2.expired && e.2.timerPassed s.uc).map fun e => .batchTimerExpiry e.1).or <|
  (s.placer.map .taskPlace).or <|
  (if s.lap < s.uc / 4096 && !s.bootFailed then some .lapStart else none).or <|
  (((List.range 48).find? s.powerReady).map .clusterPowerStateReached).or <|
  ((s.waves.find? fun e => dget 0 s.crept e.2.core < (s.clk - dget 0 s.coreReset e.2.core) / 1024).map fun e => .ptsCreep e.2.core).or
  s.slotEvent

/-- R26: does one wave's turn come before another's: 64 eligible cc first, then age? -/
def issueBefore (x y : Wave) : Bool :=
  if decide (64 ≤ x.eligible) = decide (64 ≤ y.eligible) then decide (x.age < y.age) else decide (64 ≤ x.eligible)

/-- R26: of a wave's paths that may issue, the one that issued less recently. -/
def State.issuePath (s : State) (w : Nat) (x : Wave) : Option Bool :=
  match s.mayIssue w false, s.mayIssue w true with
  | true, true => some (decide (x.pcb.last < x.pca.last))
  | true, false => some false
  | false, true => some true
  | false, false => none

/-- The wave and path that issues next. -/
def State.nextIssue (s : State) : Option (Nat × Bool) :=
  (s.waves.foldl (fun best e => match s.issuePath e.1 e.2 with
    | none => best
    | some q => match best with
      | some (b : Nat × Bool × Wave) => if issueBefore e.2 b.2.2 then some (e.1, q, e.2) else some b
      | none => some (e.1, q, e.2)) none).map fun b => (b.1, b.2.1)

/-- The choice when the agenda is empty. -/
def State.pick (s : State) : Choice :=
  match s.dueEvent with
  | some i => .occur i
  | none => match s.nextIssue with
    | some (w, q) => .issue w q
    | none => .tick 1

/-! ### Placing one instruction to run next (R12, R13, R189) -/

/-- Where a placed instruction stands: the first byte of a sealed window of 64 KiB. -/
def placePc : Addr := 0xC00000

/-- The wave that runs a placed instruction: a control core's for the supervisor opcodes, else a block's of the role that
its opcode asks for. -/
def placeWave (o : Nat) : Nat := if 0xF2 ≤ o then 0 else 16

/-- The role that an opcode asks for (R142, R164). -/
def placeRole (o : Nat) : Role :=
  if 0xC8 ≤ o ∧ o ≤ 0xCE then .matrix else if 0xD8 ≤ o ∧ o ≤ 0xEA then .copy else .vector

/-- The window that holds a placed instruction. -/
def placeWin : Win :=
  { gen := 0, state := .sealed, base := placePc.toNat, size := 65536, attr := 0, rd := true, wr := false, inst := 0, parent := 0
    buffer := false, root := false, sroot := 0, nwaves := 0, lost := false }

/-- The block of a placed instruction, on core 0. -/
def placeBlock : Block :=
  { core := 0, slots := [0], node := 0, task := 0, seq := 0, ctx := 0, nwaves := 1, scratchWin := 0, scratchBase := 0, bars := []
    fifos := [], binds := [], mpush := [], refill := [], hurdles := [], hurdleMax := 32, arrayBase := 0, arrayCount := 4, halt := none
    haltClk := 0, haltForm := false, haltDraw := 0, primary := none, halted := false, stopping := false, wdog := 0, bark := false
    vacating := false, away := false, ept := 0, tender := none }

/-- The machine with an instruction word placed so that the next step runs it (assumption 7). -/
def State.placeWord (s : State) (word : BitVec 96) : State :=
  let o := (rawOf word).opc.toNat
  let w := placeWave o
  let path : Path := { live := true, pc := placePc, mask := if w = 0 then 1 else 0xFFFFFFFF, join := none, last := 0, hold := .none }
  let x : Wave := if w = 0 then { Wave.control 0 with pca := path }
    else { Wave.launch with pca := path, role := placeRole o, array := if placeRole o = .matrix then some 0 else none, block := 1 }
  let line : Line :=
    { data := bytesOfWord word ++ List.replicate 116 0, dirty := false, pinned := false, wts := 0, rts := 0, sharers := [], owner := none
      slice := 0, poison := [], halves := (0, 0) }
  { s with
    agenda := .issue w false :: s.agenda
    waves := kset s.waves w x
    blocks := if w = 0 then s.blocks else kset s.blocks 1 placeBlock
    wins := kset s.wins (winKey 0 false 1) placeWin
    leaves := dset 0 s.leaves (leafSlot 0 placePc.toNat) (leafWord (winKey 0 false 1) true false)
    lines := kset s.lines (lineTag (winKey 0 false 1) 0 placePc.toNat) line }

end Sys2Proof.Machine
end

