-- ==== Sys2Proof/Machine/Step.lean ====
section
/-! DEFINITION. One step of the machine: the agenda's next choice, or the default one, happens; and an instruction word
placed to run next. -/
namespace Sys2Proof.Machine
open Sys2Proof

/-- What follows a next state. -/
def andNext (o : Result) (k : State → State) : Result :=
  match o with
  | .next s => .next (k s)
  | .fault r => .fault r
  | .refused r => .refused r

/-- A path issues the instruction that stands at it, if it may (R13, R26, R38). -/
def issueStep (w : Nat) (pcb : Bool) (s : State) : Result :=
  match s.prepare w pcb with
  | .no => .next s
  | .trap t => .next t
  | .run t i => andNext (exec i { t with turn := some (w, pcb) }) (s.poolHeld w)

/-- What a choice does. -/
def choiceStep (c : Choice) (s : State) : Result :=
  match c with
  | .issue w pcb => issueStep w pcb s
  | .tick n => .next (s.tickBy n)
  | .occur i => if isEvent i then exec i s else .next s
  | .outside key b => .next (s.outsideWrite key b)
  | .upset u => .next (s.upset u)

/-- One step. -/
def step (s : State) : Host.Outcome State Fault Refusal :=
  match s.agenda with
  | c :: cs => andNext (choiceStep c { s with agenda := cs }) State.endStep
  | [] => andNext (choiceStep s.pick s) State.endStep

/-- The state with an instruction stored where the next step fetches, so that it runs it (assumption 7). -/
def State.withFetchWord (s : State) (nbits w : Nat) : State := s.placeWord (BitVec.ofNat 96 (w % 2 ^ nbits))

end Sys2Proof.Machine
end

