-- ==== Sys2Proof/Safety.lean ====
section
/-! DEFINITION. What claims are stated in: safe runs, what an issue leaves alone, what a result writes, and integer
operations as bit strings. -/
namespace Sys2Proof.Machine
open Sys2Proof

/-- A state from which `k` steps all answer a next state. -/
def SafeRun (k : Nat) (s : State) : Prop := ∃ t, core.run k s = .next t

/-! ### Issues -/

/-- The live path whose turn it is, and its wave. -/
structure Turn (s : State) (w : Nat) (pcb : Bool) (x : Wave) : Prop where
  turn : s.turn = some (w, pcb)
  wave : kget s.waves w = some x
  live : (x.path pcb).live = true

/-- The active lanes of an instruction of a path at its issue (R25). -/
def activeAt (s : State) (w : Nat) (pcb : Bool) (f : Sched) : BitVec 32 :=
  (s.atIssue w f).active ((s.atIssue w f).wave w) pcb f

/-- What every issue leaves as it was, and the time it issues at (R26): outside the wave and its block nothing changes but
the clock and the numbering of instructions, and in the wave only registers, counters, its paths and the notes of
issue. Memory is among the things left alone. -/
structure Issued (s t : State) (w : Nat) (x : Wave) (f : Sched) : Prop where
  rest : { t with waves := s.waves, blocks := s.blocks, clk := s.clk, uid := s.uid, free := s.free } = s
  bytes : ∀ k, t.byte k = s.byte k
  others : ∀ v, v ≠ w → kget t.waves v = kget s.waves v
  blocks : ∀ b, b ≠ x.block → kget t.blocks b = kget s.blocks b
  present : kget t.waves w = some (t.wave w)
  clk : t.clk = s.issueTime w f
  uid : t.uid = s.uid + 1
  kept : { t.wave w with
    v := x.v, s := x.s, p := x.p, lfsr := x.lfsr, ctrs := x.ctrs, pca := x.pca, pcb := x.pcb, stack := x.stack, issued := x.issued
    undo := x.undo, late := x.late, pend := x.pend, lastIssue := x.lastIssue, rested := x.rested, age := x.age
    eligible := x.eligible, lastPcb := x.lastPcb, skid := x.skid, ended := x.ended, bad := x.bad } = x

/-- The path goes to an address (R75), and nothing else of the divergence state changes. -/
structure Went (t : State) (w : Nat) (pcb : Bool) (x : Wave) (pc : Addr) : Prop where
  sibling : (t.wave w).path (!pcb) = x.path (!pcb)
  path : (t.wave w).path pcb = { x.path pcb with pc := pc, last := t.clk, since := t.clk }
  stack : (t.wave w).stack = x.stack
  ended : (t.wave w).ended = x.ended

/-- The counters after an issue (R28): SIG's has one increment more, with the cc of its completion where that is known;
every other one is as the results due by now have left it. -/
structure Counted (s t : State) (w : Nat) (x : Wave) (f : Sched) (lat : Option Nat) : Prop where
  others : ∀ n, n ≠ f.sig.toNat → (t.wave w).ctr n = (x.retire t.clk).ctr n
  sig : f.sig.toNat < 12 → (t.wave w).ctr f.sig.toNat = { (x.retire t.clk).ctr f.sig.toNat with
    toks := ((x.retire t.clk).ctr f.sig.toNat).toks ++
      [{ uid := s.uid, done := false, err := 0, info := 0, pts := 0, due := lat.map (t.clk + ·) }] }

/-- An instruction of known latency has issued, and its path goes to an address (R25 to R29). -/
structure Goes (s t : State) (w : Nat) (pcb : Bool) (x : Wave) (f : Sched) (lat : Nat) (pc : Addr) : Prop where
  issued : Issued s t w x f
  went : Went t w pcb x pc
  pend : (t.wave w).pend = x.pend
  counted : Counted s t w x f (some lat)

/-- A fixed-latency instruction has issued, and its path moves to the next one (R75). -/
abbrev Fixed (s t : State) (w : Nat) (pcb : Bool) (x : Wave) (f : Sched) (lat : Nat) : Prop :=
  Goes s t w pcb x f lat ((x.path pcb).pc + 12)

/-! ### Results -/

/-- The S registers after a result for field D; a result for Z or any other field is discarded (R19). -/
def WritesS (x y : Wave) (d : Reg) (val : BitVec 64) : Prop :=
  ∀ n, dget 0 y.s n = if isS d = true ∧ n = d.toNat then val else dget 0 x.s n

/-- The V registers after a result for the active lanes of field D. -/
def WritesV (x y : Wave) (d : Reg) (act : BitVec 32) (g : Nat → BitVec 32) : Prop :=
  ∀ k, dget 0 y.v k = if isV d = true ∧ k / 32 = d.toNat ∧ act.getLsbD (k % 32) = true then g (k % 32) else dget 0 x.v k

/-- The V registers after a 64-bit result: the low half in D, the high half in D + 1 (R20). -/
def WritesV64 (x y : Wave) (d : Reg) (act : BitVec 32) (g : Nat → BitVec 64) : Prop :=
  ∀ k, dget 0 y.v k =
    if isV d = true ∧ k / 32 = d.toNat ∧ act.getLsbD (k % 32) = true then (g (k % 32)).setWidth 32
    else if isV d = true ∧ isV (d + 1) = true ∧ k / 32 = (d + 1).toNat ∧ act.getLsbD (k % 32) = true then (g (k % 32) >>> 32).setWidth 32
    else dget 0 x.v k

/-- The predicates after a result for predicate `n`; one for P7 is discarded (Table 1.5). -/
def WritesP (x y : Wave) (n : Nat) (val : BitVec 32) : Prop :=
  ∀ m, y.pred m = if n < 7 ∧ m = n then val else x.pred m

/-- How many of the distinct queue ports among source fields are bound to a FIFO (R21, R133). -/
def portsOn (b : Block) (q : Nat) (srcs : List Reg) : Nat :=
  (srcs.eraseDups.filter fun r => isQ r && kget b.binds (r.toNat - 240) == some q).length

/-- The FIFOs of the block after an instruction: each distinct port read has popped an entry, and a port written has
pushed one (R21). Nothing else of the block changes but its watchdog count (R198). -/
structure Queues (s t : State) (x : Wave) (srcs : List Reg) (d : Option Reg) (entry : List (BitVec 32)) : Prop where
  absent : kget s.blocks x.block = none → kget t.blocks x.block = none
  present : ∀ b, kget s.blocks x.block = some b → ∃ b', kget t.blocks x.block = some b' ∧
    { b' with fifos := b.fifos } = { b with wdog := 0, bark := false } ∧
    ∀ q, dget [] b'.fifos q = (dget [] b.fifos q).drop (portsOn b q srcs) ++
      (match d with
        | some r => if isQ r = true ∧ kget b.binds (r.toNat - 240) = some q then [entry] else []
        | none => [])

/-- The entry that a per-lane result pushes: zero in the lanes that are not active. -/
def laneEntry (act : BitVec 32) (g : Nat → BitVec 32) : List (BitVec 32) :=
  (List.range 32).map fun l => if act.getLsbD l then g l else 0

/-- A uniform result: one S register, and no other register; the ports among `srcs` pop. -/
structure ResultU (s t : State) (w : Nat) (x : Wave) (d : Reg) (val : BitVec 64) (srcs : List Reg) : Prop where
  sRegs : WritesS x (t.wave w) d val
  vRegs : (t.wave w).v = x.v
  preds : (t.wave w).p = x.p
  lfsr : (t.wave w).lfsr = x.lfsr
  queues : Queues s t x srcs none []

/-- A predicate result: one predicate and no other register; the ports among `srcs` pop. -/
structure ResultP (s t : State) (w : Nat) (x : Wave) (n : Nat) (val : BitVec 32) (srcs : List Reg) : Prop where
  preds : WritesP x (t.wave w) n val
  sRegs : (t.wave w).s = x.s
  vRegs : (t.wave w).v = x.v
  lfsr : (t.wave w).lfsr = x.lfsr
  queues : Queues s t x srcs none []

/-- A 32-bit per-lane result: the active lanes of one V register or one entry pushed, and no other register; the ports
among `srcs` pop. -/
structure ResultL (s t : State) (w : Nat) (x : Wave) (d : Reg) (act : BitVec 32) (g : Nat → BitVec 32) (srcs : List Reg) : Prop where
  vRegs : WritesV x (t.wave w) d act g
  sRegs : (t.wave w).s = x.s
  preds : (t.wave w).p = x.p
  lfsr : (t.wave w).lfsr = x.lfsr
  queues : Queues s t x srcs (some d) (laneEntry act g)

/-- A 64-bit per-lane result: the active lanes of a V pair, and no other register, no queue written. -/
structure ResultL64 (s t : State) (w : Nat) (x : Wave) (d : Reg) (act : BitVec 32) (g : Nat → BitVec 64) (srcs : List Reg) : Prop where
  vRegs : WritesV64 x (t.wave w) d act g
  sRegs : (t.wave w).s = x.s
  preds : (t.wave w).p = x.p
  lfsr : (t.wave w).lfsr = x.lfsr
  queues : Queues s t x srcs none []

/-- A per-lane result of type T, of 32 or 64 bits (Table 3.2). -/
def ResultV (s t : State) (w : Nat) (x : Wave) (ty : BitVec 2) (d : Reg) (act : BitVec 32) (g : Nat → BitVec (vectorW ty))
    (srcs : List Reg) : Prop :=
  if vectorW ty = 32 then ResultL s t w x d act (fun l => (g l).setWidth 32) srcs
  else ResultL64 s t w x d act (fun l => (g l).setWidth 64) srcs

/-- No register changes. -/
structure NoResult (s t : State) (w : Nat) (x : Wave) : Prop where
  sRegs : (t.wave w).s = x.s
  vRegs : (t.wave w).v = x.v
  preds : (t.wave w).p = x.p
  lfsr : (t.wave w).lfsr = x.lfsr
  queues : Queues s t x [] none []

/-! ### Operands as an instruction reads them at its issue (R19 to R22, R29) -/

/-- A uniform source. -/
def readAt (s : State) (w : Nat) (f : Sched) (r : Reg) : BitVec 64 := (s.atIssue w f).readU ((s.atIssue w f).wave w) r
/-- A predicate, inverted where NEG is set. -/
def predAt (s : State) (w : Nat) (f : Sched) (n : BitVec 3) (neg : Bool) : BitVec 32 :=
  let p := ((s.atIssue w f).wave w).readPred (s.atIssue w f).free n.toNat
  if neg then ~~~p else p
/-- A predicate named by an operand field. -/
def predOf (s : State) (w : Nat) (f : Sched) (r : Reg) : BitVec 32 := ((s.atIssue w f).wave w).readPred (s.atIssue w f).free r.toNat
/-- Lane `l` of a per-lane source; `before` lists the per-lane sources named earlier (R21). -/
def laneAt (s : State) (w : Nat) (f : Sched) (before : List Reg) (r : Reg) (l : Nat) : BitVec 32 :=
  (s.atIssue w f).readL ((s.atIssue w f).wave w) before r l
/-- Lane `l` of a 64-bit per-lane source (R20). -/
def lane64At (s : State) (w : Nat) (f : Sched) (r : Reg) (l : Nat) : BitVec 64 := (s.atIssue w f).readL64 ((s.atIssue w f).wave w) r l
/-- Lane `l` of a per-lane source of `n` bits: a lane for 32, a pair or a uniform source in full for 64. -/
def laneBitsAt (s : State) (w : Nat) (f : Sched) (n : Nat) (before : List Reg) (r : Reg) (l : Nat) : BitVec n :=
  if n = 32 then (laneAt s w f before r l).setWidth n else (lane64At s w f r l).setWidth n

/-! ### Integer operations on bit strings (Tables 3.3, 3.4) -/

/-- A two-operand operation on bit strings of any width; the flag says whether they are signed. -/
abbrev BvOp := (n : Nat) → Bool → BitVec n → BitVec n → BitVec n

/-- The high half of the double-width product. -/
def bvMulh : BvOp := fun n g x y =>
  if g then ((x.signExtend (2 * n) * y.signExtend (2 * n)) >>> n).setWidth n
  else ((x.setWidth (2 * n) * y.setWidth (2 * n)) >>> n).setWidth n
/-- The quotient toward zero; all ones for a zero divisor. -/
def bvDiv : BvOp := fun n g x y => if y = 0 then BitVec.allOnes n else if g then x.sdiv y else x.udiv y
/-- The smaller. -/
def bvMin : BvOp := fun _ g x y => if (if g then x.sle y else x.ule y) then x else y
/-- The larger. -/
def bvMax : BvOp := fun _ g x y => if (if g then x.sle y else x.ule y) then y else x

/-- A scalar operation of type T (Table 3.2: 0 I64, 1 U64, 2 I32, 3 U32): 32-bit types use the low halves, and the result
is extended by the type's sign (R65). -/
def scalarResult (t : BitVec 2) (op : BvOp) (a b : BitVec 64) : BitVec 64 :=
  match t.toNat with
  | 0 => op 64 true a b
  | 1 => op 64 false a b
  | 2 => (op 32 true (a.setWidth 32) (b.setWidth 32)).signExtend 64
  | _ => (op 32 false (a.setWidth 32) (b.setWidth 32)).setWidth 64

/-- A scalar shift of type T by an amount of 64 bits; `sgn` says whether a 32-bit signed result is sign-extended. -/
def scalarShift (t : BitVec 2) (sgn : Bool) (op : (n : Nat) → BitVec n → Nat → BitVec n) (a : BitVec 64) (k : Nat) : BitVec 64 :=
  match t.toNat with
  | 0 | 1 => op 64 a k
  | 2 => if sgn then (op 32 (a.setWidth 32) k).signExtend 64 else (op 32 (a.setWidth 32) k).setWidth 64
  | _ => (op 32 (a.setWidth 32) k).setWidth 64

/-- R63: an immediate as a scalar operand of type T: sign-extended for the signed types. -/
def scalarImm (t : BitVec 2) (imm : BitVec 32) : BitVec 64 := if t.toNat % 2 = 0 then imm.signExtend 64 else imm.setWidth 64

/-- R62: a condition code on bit strings. -/
def bvCond (n : Nat) (sgn : Bool) (cnd : BitVec 3) (x y : BitVec n) : Bool :=
  match cnd.toNat with
  | 0 => x == y
  | 1 => x != y
  | 2 => if sgn then x.slt y else x.ult y
  | 3 => if sgn then x.sle y else x.ule y
  | 4 => if sgn then y.slt x else y.ult x
  | _ => if sgn then y.sle x else y.ule x

/-- R69, VBFE: the field of width `wid` at `off`, extended by sign or zero; cut at bit `n`, and zero where it holds no bit. -/
def bvExtract (n : Nat) (sgn : Bool) (x : BitVec n) (off wid : Nat) : BitVec n :=
  if n ≤ off ∨ wid = 0 then 0
  else
    let e := min wid (n - off)
    let y := x <<< (n - off - e)
    if sgn then y.sshiftRight (n - e) else y >>> (n - e)
/-- R69, VBFI: the field of width `wid` at `off` of `c` replaced by the low bits of `x`; cut at bit `n`. -/
def bvInsert (n : Nat) (x c : BitVec n) (off wid : Nat) : BitVec n :=
  if n ≤ off ∨ wid = 0 then c
  else
    let m := (BitVec.allOnes n >>> (n - min wid (n - off))) <<< off
    (c &&& ~~~m) ||| ((x <<< off) &&& m)

/-- R62, R65: a condition on scalars of type T. -/
def scalarCond (t : BitVec 2) (cnd : BitVec 3) (x y : BitVec 64) : Bool :=
  match t.toNat with
  | 0 => bvCond 64 true cnd x y
  | 1 => bvCond 64 false cnd x y
  | 2 => bvCond 32 true cnd (x.setWidth 32) (y.setWidth 32)
  | _ => bvCond 32 false cnd (x.setWidth 32) (y.setWidth 32)

/-- Bits set among the bits of a value. -/
def bvOnes (n : Nat) (x : BitVec n) : Nat := ((List.range n).filter fun i => x.getLsbD i).length
/-- Clear bits above the highest set one. -/
def bvZeros (n : Nat) (x : BitVec n) : Nat := ((List.range n).reverse.takeWhile fun i => !x.getLsbD i).length

/-- R72: a reduction over the active lanes in ascending order; operation 0 sums, 1 takes the largest, 2 the smallest, 3
ors. -/
def bvReduce (n : Nat) (sgn : Bool) (op : Nat) (xs : List (BitVec n)) : BitVec n :=
  match op with
  | 0 => xs.foldl (· + ·) 0
  | 3 => xs.foldl (· ||| ·) 0
  | _ => match xs with
    | [] => 0
    | x :: t => t.foldl (if op = 1 then bvMax n sgn else bvMin n sgn) x

/-! ### Tables of instructions with their results -/

/-- The scalar instructions with an S result: instruction, latency, result (R64 to R66). -/
def scalarRows (f : Sched) (t : BitVec 2) (d a b : Reg) (imm : BitVec 32) (x y : BitVec 64) : List (Instr × Nat × BitVec 64) :=
  let z := scalarImm t imm
  [(.saddRR f t d a b, 2, scalarResult t (fun _ _ p q => p + q) x y), (.saddRI f t d a imm, 2, scalarResult t (fun _ _ p q => p + q) x z),
   (.ssubRR f t d a b, 2, scalarResult t (fun _ _ p q => p - q) x y), (.ssubRI f t d a imm, 2, scalarResult t (fun _ _ p q => p - q) x z),
   (.smulRR f t d a b, 4, scalarResult t (fun _ _ p q => p * q) x y), (.smulRI f t d a imm, 4, scalarResult t (fun _ _ p q => p * q) x z),
   (.smulhRR f t d a b, 4, scalarResult t bvMulh x y), (.smulhRI f t d a imm, 4, scalarResult t bvMulh x z),
   (.sdivRR f t d a b, 16, scalarResult t bvDiv x y), (.sdivRI f t d a imm, 16, scalarResult t bvDiv x z),
   (.sminRR f t d a b, 2, scalarResult t bvMin x y), (.sminRI f t d a imm, 2, scalarResult t bvMin x z),
   (.smaxRR f t d a b, 2, scalarResult t bvMax x y), (.smaxRI f t d a imm, 2, scalarResult t bvMax x z)] ++
  [(.sandRR f d a b, 2, x &&& y), (.sandRI f d a imm, 2, x &&& imm.signExtend 64),
   (.sorRR f d a b, 2, x ||| y), (.sorRI f d a imm, 2, x ||| imm.signExtend 64),
   (.sxorRR f d a b, 2, x ^^^ y), (.sxorRI f d a imm, 2, x ^^^ imm.signExtend 64),
   (.sshlRR f t d a b, 2, scalarShift t false (fun _ p k => p <<< k) x y.toNat), (.sshlRI f t d a imm, 2, scalarShift t false (fun _ p k => p <<< k) x imm.toNat),
   (.sshrRR f t d a b, 2, scalarShift t false (fun _ p k => p >>> k) x y.toNat), (.sshrRI f t d a imm, 2, scalarShift t false (fun _ p k => p >>> k) x imm.toNat),
   (.ssarRR f t d a b, 2, scalarShift t true (fun _ p k => p.sshiftRight k) x y.toNat), (.ssarRI f t d a imm, 2, scalarShift t true (fun _ p k => p.sshiftRight k) x imm.toNat)] ++
  [(.snot f d a, 2, ~~~x), (.smov f d a, 2, x), (.slil f d imm, 2, imm.setWidth 64), (.slih f d a imm, 2, (imm ++ x.setWidth 32 : BitVec 64))]

/-- The vector arithmetic with a result of the type's own width `n`, whose type code `t` is signed where `sgn` says:
instruction, latency, per-lane sources, result per lane (R67, R68). -/
def vectorArith (n : Nat) (sgn : Bool) (f : Sched) (t : BitVec 2) (d a b : Reg) (imm : BitVec 32) (x y : Nat → BitVec n) :
    List (Instr × Nat × List Reg × (Nat → BitVec n)) :=
  let i : BitVec n := if sgn then imm.signExtend n else imm.setWidth n
  let two (op : BvOp) (l : Nat) : BitVec n := op n sgn (x l) (y l)
  let one (op : BvOp) (l : Nat) : BitVec n := op n sgn (x l) i
  [(.vaddRR f t d a b, 4, [a, b], two fun _ _ p q => p + q), (.vaddRI f t d a imm, 4, [a], one fun _ _ p q => p + q),
   (.vsubRR f t d a b, 4, [a, b], two fun _ _ p q => p - q), (.vsubRI f t d a imm, 4, [a], one fun _ _ p q => p - q),
   (.vmulRR f t d a b, 6, [a, b], two fun _ _ p q => p * q), (.vmulRI f t d a imm, 6, [a], one fun _ _ p q => p * q),
   (.vmulhRR f t d a b, 6, [a, b], two bvMulh), (.vmulhRI f t d a imm, 6, [a], one bvMulh),
   (.vandRR f t d a b, 4, [a, b], two fun _ _ p q => p &&& q), (.vandRI f t d a imm, 4, [a], one fun _ _ p q => p &&& q),
   (.vorRR f t d a b, 4, [a, b], two fun _ _ p q => p ||| q), (.vorRI f t d a imm, 4, [a], one fun _ _ p q => p ||| q),
   (.vxorRR f t d a b, 4, [a, b], two fun _ _ p q => p ^^^ q), (.vxorRI f t d a imm, 4, [a], one fun _ _ p q => p ^^^ q),
   (.vminRR f t d a b, 4, [a, b], two bvMin), (.vminRI f t d a imm, 4, [a], one bvMin),
   (.vmaxRR f t d a b, 4, [a, b], two bvMax), (.vmaxRI f t d a imm, 4, [a], one bvMax)]

/-- The vector shifts, moves and bit fields in the same form (R67, R69). A shift amount is unsigned; `o` is the old value of
D, or zero where D is no V register. -/
def vectorBits (n : Nat) (sgn : Bool) (f : Sched) (t : BitVec 2) (d a b c : Reg) (imm : BitVec 32) (x y z o : Nat → BitVec n) :
    List (Instr × Nat × List Reg × (Nat → BitVec n)) :=
  let i : BitVec n := if sgn then imm.signExtend n else imm.setWidth n
  [(.vshlRR f t d a b, 4, [a, b], fun l => x l <<< (y l).toNat), (.vshlRI f t d a imm, 4, [a], fun l => x l <<< imm.toNat),
   (.vshrRR f t d a b, 4, [a, b], fun l => x l >>> (y l).toNat), (.vshrRI f t d a imm, 4, [a], fun l => x l >>> imm.toNat),
   (.vsarRR f t d a b, 4, [a, b], fun l => (x l).sshiftRight (y l).toNat), (.vsarRI f t d a imm, 4, [a], fun l => (x l).sshiftRight imm.toNat),
   (.vmad f t d a b c, 6, [a, b, c], fun l => x l * y l + z l), (.vabs f t d a, 4, [a], fun l => (x l).abs),
   (.vmov f t d a, 4, [a], x), (.vli f t d imm, 4, [], fun _ => i),
   (.vbfeRR f t d a b, 4, [a, b], fun l => bvExtract n sgn (x l) ((y l).toNat % 256) ((y l).toNat / 256 % 256)),
   (.vbfeRI f t d a imm, 4, [a], fun l => bvExtract n sgn (x l) (imm.toNat % 256) (imm.toNat / 256 % 256)),
   (.vbfiRR f t d a b c, 4, [a, b, c], fun l => bvInsert n (x l) (z l) ((y l).toNat % 256) ((y l).toNat / 256 % 256)),
   (.vbfiRI f t d a imm, 4, [a], fun l => bvInsert n (x l) (o l) (imm.toNat % 256) (imm.toNat / 256 % 256))]

/-! ### Floating point and conversions (R84 to R95) -/

/-- BF16 (Table 2.2). -/
def bf16 : FloatFmt := ⟨8, 7, 127, 0x7F7F, some 0x7F80, some 0x7FC0⟩
/-- F16 (Table 2.2). -/
def f16 : FloatFmt := ⟨5, 10, 15, 0x7BFF, some 0x7C00, some 0x7E00⟩

/-- R84: an operation on one lane: F32 for FT = 0, else each 16-bit half by itself, in BF16 for FT = 1 and F16 for FT = 2. -/
def floatLane (ft : BitVec 2) (op : FloatFmt → Nat → Nat → Nat → Nat) (x y z : BitVec 32) : BitVec 32 :=
  if ft = 0 then BitVec.ofNat 32 (op f32 x.toNat y.toNat z.toNat)
  else
    let half (lo : Nat) : BitVec 16 := BitVec.ofNat 16 (op (if ft = 1 then bf16 else f16) (x.extractLsb' lo 16).toNat
      (y.extractLsb' lo 16).toNat (z.extractLsb' lo 16).toNat)
    half 16 ++ half 0

/-- The floating-point family (R84): instruction, per-lane sources, result per lane. Each result is one rounding of an
exact value. -/
def floatRows (f : Sched) (ft : BitVec 2) (rm : BitVec 3) (d a b c : Reg) (x y z : Nat → BitVec 32) :
    List (Instr × List Reg × (Nat → BitVec 32)) :=
  let on (op : FloatFmt → Nat → Nat → Nat → Nat) (l : Nat) : BitVec 32 := floatLane ft op (x l) (y l) (z l)
  let round (fm : FloatFmt) (v : Val) : Nat := roundFloat fm rm.toNat false v
  [(.vfadd f ft rm d a b, [a, b], on fun fm p q _ => round fm ((floatVal fm p).add rm.toNat (floatVal fm q))),
   (.vfsub f ft rm d a b, [a, b], on fun fm p q _ => round fm ((floatVal fm p).add rm.toNat (floatVal fm q).negate)),
   (.vfmul f ft rm d a b, [a, b], on fun fm p q _ => round fm ((floatVal fm p).mul (floatVal fm q))),
   (.vfma f ft rm d a b c, [a, b, c], on fun fm p q r => round fm (((floatVal fm p).mul (floatVal fm q)).add rm.toNat (floatVal fm r))),
   (.vfmin f ft d a b, [a, b], on fun fm p q _ => minMaxCode fm false p q),
   (.vfmax f ft d a b, [a, b], on fun fm p q _ => minMaxCode fm true p q),
   (.vfabs f ft d a, [a], on fun fm p _ _ => if floatVal fm p = .nan then fm.nanOut else p % 2 ^ (fm.expBits + fm.fracBits)),
   (.vfneg f ft d a, [a], on fun fm p _ _ =>
     if floatVal fm p = .nan then fm.nanOut else (p + 2 ^ (fm.expBits + fm.fracBits)) % 2 ^ (fm.expBits + fm.fracBits + 1))]

/-- R85: the comparison CND of two F32 codes. -/
def floatCond (cnd : BitVec 3) (x y : BitVec 32) : Bool :=
  let a := floatVal f32 x.toNat
  let b := floatVal f32 y.toNat
  if a = .nan ∨ b = .nan then cnd == 1 || cnd == 6
  else match cnd.toNat with
    | 0 => a.cmp b == .eq
    | 1 => a.cmp b != .eq
    | 2 => a.cmp b == .lt
    | 3 => a.cmp b == .lt || a.cmp b == .eq
    | 4 => a.cmp b == .gt
    | 5 => a.cmp b == .gt || a.cmp b == .eq
    | 6 => false
    | _ => true

/-- R49: the LFSR after `n` single steps. -/
def lfsrAfter (n : Nat) (v : BitVec 64) : BitVec 64 := (fun v => (lfsrStep v).1)^[n] v

/-- The LFSR of a wave put back: what else a conversion changes is said of this state. -/
def State.withLfsr (t : State) (w : Nat) (v : BitVec 64) : State := t.modWave w fun y => { y with lfsr := v }

/-- R49: draw number `k` from an LFSR: the bits fed back by steps 24k to 24k + 23, most significant first. -/
def drawAt (v : BitVec 64) (k : Nat) : Nat :=
  ((List.range 24).map fun i => if (lfsrStep (lfsrAfter (24 * k + i) v)).2 then 2 ^ (23 - i) else 0).sum

/-- The F32 code of an integer, and of a power of two. -/
def codeOfInt (i : Int) : BitVec 32 := BitVec.ofNat 32 (roundFloat f32 0 false (Val.ofInt i))
/-- The F32 code of 2^k. -/
def codeOfPow (k : Int) : BitVec 32 := BitVec.ofNat 32 (roundFloat f32 0 false (.fin false 1 k))

/-- What Table 4.3 fixes of the transcendentals: the exact cases and the special inputs (R86). -/
structure Transcendentals (rcp rsq exp2 log2 : BitVec 32 → BitVec 32) : Prop where
  nan : ∀ x, floatVal f32 x.toNat = .nan → rcp x = 0x7FC00000 ∧ rsq x = 0x7FC00000 ∧ exp2 x = 0x7FC00000 ∧ log2 x = 0x7FC00000
  below : ∀ x : BitVec 32, 0x80000000 < x.toNat → x.toNat ≤ 0xFF800000 → rsq x = 0x7FC00000 ∧ log2 x = 0x7FC00000
  zeros : rcp 0 = 0x7F800000 ∧ rcp 0x80000000 = 0xFF800000 ∧ rsq 0 = 0x7F800000 ∧ rsq 0x80000000 = 0xFF800000 ∧
    exp2 0 = 0x3F800000 ∧ exp2 0x80000000 = 0x3F800000 ∧ log2 0 = 0xFF800000 ∧ log2 0x80000000 = 0xFF800000
  infinities : rcp 0x7F800000 = 0 ∧ rcp 0xFF800000 = 0x80000000 ∧ rsq 0x7F800000 = 0 ∧ log2 0x7F800000 = 0x7F800000
  rcpExact : ∀ k : Int, -126 ≤ k → k ≤ 127 → rcp (codeOfPow k) = codeOfPow (-k) ∧
    rcp (codeOfPow k ||| 0x80000000) = codeOfPow (-k) ||| 0x80000000
  rcpTiny : ∀ x : BitVec 32, 0 < x.toNat → x.toNat ≤ 0x00200000 → rcp x = 0x7F800000 ∧ rcp (x ||| 0x80000000) = 0xFF800000
  rsqExact : ∀ k : Int, -74 ≤ k → k ≤ 63 → rsq (codeOfPow (2 * k)) = codeOfPow (-k)
  exp2Exact : ∀ k : Int, -149 ≤ k → k ≤ 127 → exp2 (codeOfInt k) = codeOfPow k
  exp2High : ∀ x : BitVec 32, 0x43000000 ≤ x.toNat → x.toNat ≤ 0x7F800000 → exp2 x = 0x7F800000
  exp2Low : ∀ x : BitVec 32, 0xC3160000 ≤ x.toNat → x.toNat ≤ 0xFF800000 → exp2 x = 0
  log2Exact : ∀ k : Int, -149 ≤ k → k ≤ 127 → log2 (codeOfPow k) = codeOfInt k

/-- The instructions on registers with a fixed latency, with their latencies. -/
def fixedForms (f : Sched) (t op mode ft : BitVec 2) (cnd n rm ei scl : BitVec 3) (neg uns sat mx4 : Bool) (df sf : BitVec 5)
    (d a b c : Reg) (imm : BitVec 32) : List (Instr × Nat) :=
  (scalarRows f t d a b imm 0 0).map (fun e => (e.1, e.2.1)) ++
  (vectorArith 32 false f t d a b imm (fun _ => 0) fun _ => 0).map (fun e => (e.1, e.2.1)) ++
  (vectorBits 32 false f t d a b c imm (fun _ => 0) (fun _ => 0) (fun _ => 0) fun _ => 0).map (fun e => (e.1, e.2.1)) ++
  (floatRows f ft rm d a b c (fun _ => 0) (fun _ => 0) fun _ => 0).map (fun e => (e.1, 6)) ++
  [(.ssel f n neg d a b, 2), (.scmpRR f t cnd d a b, 2), (.scmpRI f t cnd d a imm, 2), (.vsel f t n neg d a b, 4),
   (.vcmpRR f t cnd d a b, 4), (.vcmpRI f t cnd d a imm, 4), (.vpopc f t d a, 4), (.vclz f t d a, 4),
   (.vaddrRR f scl uns d a b, 4), (.vaddrRI f d a imm, 4), (.vbcastRR f t d a b, 8), (.vbcastRI f t d a imm, 8),
   (.v2sRR f t d a b, 8), (.v2sRI f t d a imm, 8), (.vshflRR f t mode d a b, 8), (.vshflRI f t mode d a imm, 8), (.vred f t op d a, 12)] ++
  [(.pand f d a b, 2), (.por f d a b, 2), (.pxor f d a b, 2), (.pnot f d a, 2), (.pmov f d a, 2), (.pany f d a, 2), (.pall f d a, 2),
   (.pset f d a, 2)] ++
  [(.vfcmp f cnd d a b, 6), (.vrcp f d a, 16), (.vrsq f d a, 16), (.vexp2 f d a, 16), (.vlog2 f d a, 16),
   (.cvt f df sf rm sat ei d a, 8), (.vpack f df rm sat d a, 8), (.vpackMx8 f mx4 rm d a b c, 8), (.vunpack f df sf rm d a b, 8),
   (.seedRR f d a, 8), (.seedRI f d imm, 8)]

/-! ### Accesses at issue (R97 to R119, R219) -/

/-- The entry of the in-flight access table that an issue makes (R219); `y` is the wave once its path has moved on. -/
def newAcc (s : State) (x y : Wave) (pcb : Bool) (op : AccOp) (mask : BitVec 32) (uni : Bool) (rs second : List Req) : Acc :=
  { uid := s.uid, nth := x.issued + 1, pc := (x.path pcb).pc, pcb := pcb, mask := mask, uni := uni, ctl := (y.pca, y.pcb, y.stack)
    half := 0, op := op, reqs := rs, second := second, got := [], reply := none, wait := false, acks := none
    fifo := op.pushes.bind fun d => (s.fifoOf x d).map (·.1) }

/-- An access has issued: it is the youngest of its wave's unperformed accesses, its path moves on, no register and no byte
changes, and the ports among `pops` pop. Its completion comes later (R28). -/
structure Pends (s t : State) (w : Nat) (pcb : Bool) (x : Wave) (f : Sched) (op : AccOp) (mask : BitVec 32) (uni : Bool)
    (rs second : List Req) (pops : List Reg) : Prop where
  issued : Issued s t w x f
  went : Went t w pcb x ((x.path pcb).pc + 12)
  counted : Counted s t w x f none
  pend : (t.wave w).pend = x.pend ++ [newAcc s x (t.wave w) pcb op mask uni rs second]
  sRegs : (t.wave w).s = x.s
  vRegs : (t.wave w).v = x.v
  preds : (t.wave w).p = x.p
  lfsr : (t.wave w).lfsr = x.lfsr
  queues : Queues s t x pops none []

/-- An access instruction at its issue: the alignment rule of its form that its operands break, if any, with the address it
reports; what it does where it performs; whether it is uniform; the alignment and the permissions that R100 checks; its
byte ranges, and those of a second half; the ports it pops; and how its checked ranges are cut. -/
structure AccessForm where
  instr : Instr
  bad : Option Nat
  op : AccOp
  uni : Bool
  align : Nat
  rd : Bool
  wr : Bool
  ranges : List Req
  second : List Req := []
  pops : List Reg := []
  cut : List Req → List Req := id

/-- Loads and stores (Table 5.3, R102 to R105): the address of lane `l` and register `i`. -/
def loadStoreForms (r : State) (x : Wave) (act : BitVec 32) (f : Sched) (off : BitVec 20) (ty : BitVec 4) (cnt : BitVec 2) (d a b : Reg) :
    List AccessForm :=
  let e := r.ea x a off 0
  let l0 := (lanesOf act).headD 0
  let p := (r.readU x b).toInt
  let t := (r.readU x b).toNat
  let q := (r.readU x (b + 1)).toInt
  let lanes (dat : Nat → BitVec 128) : List Req := (lanesOf act).map fun l => mkReq l 0 (r.laneAddr x a off (tyBytesV ty) l) (tyBytesV ty) (dat l)
  let block (dat : Nat → Nat → BitVec 128) : List Req := rangesOf act (cntOf cnt) (fun i l => eaAdd e (128 * i + 4 * l)) dat
  let apart (e : Nat) (p : Int) (dat : Nat → Nat → BitVec 128) : List Req := rangesOf act (cntOf cnt) (fun i l => eaAdd e (p * l + 4 * i)) dat
  let aligned (c : Bool) (va : Nat) : Option Nat := if c then none else some va
  [{ instr := .ldS f off ty d a, bad := none, op := .loadS d (tySigned ty), uni := true, align := tyBytesS ty, rd := true, wr := false
     ranges := [mkReq 0 0 e (tyBytesS ty) 0] },
   { instr := .ldV f off ty d a, bad := none, op := .loadV d (tyBytesV ty) (tySigned ty) false, uni := false, align := tyBytesV ty
     rd := true, wr := false, ranges := lanes fun _ => 0 },
   { instr := .ldLast f off ty d a, bad := none, op := .loadV d (tyBytesV ty) (tySigned ty) true, uni := false, align := tyBytesV ty
     rd := true, wr := false, ranges := lanes fun _ => 0 },
   { instr := .ldVb f off cnt d a, bad := aligned (e % 128 == 0) (eaAdd e (4 * l0)), op := .loadV d 4 false false, uni := false, align := 4
     rd := true, wr := false, ranges := block fun _ _ => 0 },
   { instr := .ldT f off cnt d a b, bad := aligned (e % 4 == 0 && p % 4 == 0) (eaAdd e (p * l0)), op := .loadV d 4 false false, uni := false
     align := 4, rd := true, wr := false, ranges := apart e p fun _ _ => 0 },
   { instr := .stS f off ty d a, bad := none, op := .store, uni := true, align := tyBytesS ty, rd := false, wr := true
     ranges := [mkReq 0 0 e (tyBytesS ty) (r.uniData x (tyBytesS ty) d)] },
   { instr := .stV f off ty d a, bad := none, op := .store, uni := false, align := tyBytesV ty, rd := false, wr := true
     ranges := lanes (r.laneData x (tyBytesV ty) d), pops := [d] },
   { instr := .stVb f off cnt d a, bad := aligned (e % 128 == 0) (eaAdd e (4 * l0)), op := .store, uni := false, align := 4
     rd := false, wr := true, ranges := block (r.regData x d), pops := [d] },
   { instr := .stPair f off cnt d a b
     bad := if e % 128 ≠ 0 then some (eaAdd e (4 * l0)) else aligned (t % 4 == 0 && q % 4 == 0) (eaAdd t (q * l0)), op := .store
     uni := false, align := 4, rd := false, wr := true, ranges := block (r.regData x d), second := apart t q (r.regData x d), pops := [d] }]

/-- Pins, write-back, reductions and atomics, watches and task instructions (R107 to R111, R129, R135). -/
def otherForms (r : State) (x : Wave) (act : BitVec 32) (f : Sched) (off : BitVec 20) (ty : BitVec 4) (sc op : BitVec 3) (n : BitVec 2)
    (d a b : Reg) : List AccessForm :=
  let e := r.ea x a off 0
  let len := (r.readU x b).toNat
  let k := atomBytes ty
  let step : Reg := if isV a then BitVec.ofNat 8 (k / 4) else if k = 16 then 2 else 1
  let range (limit : Nat) : Option Nat := if len % 128 = 0 ∧ 128 ≤ len ∧ len ≤ limit then none else some e
  let node : Nat := match r.nodeOf x.ctx (r.readU x b) with
    | some n => n.recSize
    | none => 8
  [{ instr := .pin f off d a b, bad := range (2 ^ 20), op := .pin d len, uni := true, align := 128, rd := true, wr := false
     ranges := withLines e len, cut := (·.drop 1) },
   { instr := .unpin f off d a b, bad := range (2 ^ 20), op := .unpin d len, uni := true, align := 128, rd := true, wr := false
     ranges := withLines e len, cut := (·.drop 1) },
   { instr := .wbr f off a b, bad := range (2 ^ 30), op := .wbr len, uni := true, align := 128, rd := true, wr := false
     ranges := withLines e len, cut := (·.drop 1) },
   { instr := .red f off ty sc op d a, bad := none, op := .red ty.toNat op.toNat sc.toNat, uni := !isV a, align := k, rd := true, wr := true
     ranges := r.atomReqs x act a off k (r.atomData x a k d) fun _ => 0, pops := if isV a then [d] else [] },
   { instr := .atom f off ty sc op d a b, bad := none, op := .atom ty.toNat op.toNat sc.toNat d (!isV a), uni := !isV a, align := k
     rd := true, wr := true, ranges := r.atomReqs x act a off k (r.atomData x a k b) fun _ => 0, pops := if isV a then [b] else [] },
   { instr := .cas f off ty sc d a b, bad := none, op := .cas ty.toNat sc.toNat d (!isV a), uni := !isV a, align := k, rd := true, wr := true
     ranges := r.atomReqs x act a off k (r.atomData x a k b) (r.atomData x a k (b + step)) },
   { instr := .watch f off n d a, bad := none, op := .watch n.toNat d, uni := true, align := 8, rd := true, wr := false
     ranges := [mkReq 0 0 e 8 0] },
   { instr := .enq f off d a b, bad := none, op := .enq false d (r.readU x b) e, uni := true, align := 8, rd := true, wr := false
     ranges := [mkReq 0 0 e node 0], cut := fun rs => rs.flatMap splitReq },
   { instr := .spawn f off d a b, bad := none, op := .enq true d (r.readU x b) e, uni := true, align := 8, rd := true, wr := false
     ranges := [mkReq 0 0 e node 0], cut := fun rs => rs.flatMap splitReq }]

/-- An instruction whose checks are made where it performs, or at its issue against a handle: what it does, and the trap
that its own check raises (R114, R163, R178, R179, R182). -/
structure FreeForm where
  instr : Instr
  trap : Option Trap
  op : AccOp

/-- The arena instructions, VIEW.INFO and CPWP. -/
def freeForms (r : State) (x : Wave) (act : BitVec 32) (f : Sched) (off : BitVec 20) (pn : BitVec 3) (aln sel : BitVec 4) (ch : BitVec 2)
    (d a b : Reg) : List FreeForm :=
  let h := r.readU x a
  let perm (ends quota sealing : Bool) : Option Trap := if r.arenaPerm x h ends quota sealing then some (Trap.of 4 act) else none
  [{ instr := .arenaNew f pn d a b, trap := perm false true false, op := .arenaNew pn.toNat d h (r.readU x b) (r.readU x (b + 1)) },
   { instr := .arenaAlloc f pn aln d a b, trap := perm false false false, op := .arenaAlloc pn.toNat aln.toNat d h (r.readU x b) },
   { instr := .arenaSeal f a, trap := perm false false true, op := .arenaSeal h },
   { instr := .arenaReset f d a, trap := perm true false false, op := .arenaReset d h },
   { instr := .arenaDrop f a, trap := perm true false false, op := .arenaDrop h },
   { instr := .arenaQuota f d a b, trap := perm false true false, op := .arenaQuota d h (r.readU x b) },
   { instr := .arenaInfo f off pn sel d a, trap := none, op := .arenaInfo sel.toNat pn.toNat d (BitVec.ofNat 64 (r.ea x a off 0)) },
   { instr := .viewInfo f pn d a, trap := none, op := .viewInfo pn.toNat d h },
   { instr := .cpwp f ch d, trap := none, op := .cpwp ch.toNat d }]

/-- The system-register, TLB and slot instructions of a supervisor wave. -/
def systemForms (r : State) (x : Wave) (act : BitVec 32) (f : Sched) (reg inst : BitVec 16) (ctx : BitVec 6) (all : Bool) (g : BitVec 2)
    (d a b : Reg) : List FreeForm :=
  let va := r.readU x a
  let n := r.readU x b
  [{ instr := .sysrd f reg inst d, trap := none, op := .sysrd reg.toNat inst.toNat d },
   { instr := .syswr f reg inst a, trap := none, op := .syswr reg.toNat inst.toNat va },
   { instr := .tinv f ctx all a b
     trap := if va.toNat % 65536 = 0 ∧ n.toNat % 65536 = 0 ∧ 65536 ≤ n.toNat ∧ n.toNat ≤ 2 ^ 56 then none
       else some { Trap.of 3 act with va := va.toNat % 2 ^ 56 }
     op := .tinv ctx.toNat all va n },
   { instr := .slotset f g d a, trap := none, op := .slotset d g.toNat va }]

/-! ### Instructions that end later without an access of their own -/

/-- An instruction has issued and its path moves on; no register, no byte and no access changes. It completes later. -/
structure Underway (s t : State) (w : Nat) (pcb : Bool) (x : Wave) (f : Sched) : Prop where
  issued : Issued s t w x f
  went : Went t w pcb x ((x.path pcb).pc + 12)
  counted : Counted s t w x f none
  pend : (t.wave w).pend = x.pend
  same : NoResult s t w x

/-- A path held until what it waits for happens. -/
def State.withHold (t : State) (w : Nat) (pcb : Bool) (h : Hold) : State := t.modWave w fun y => y.holdPath pcb h

/-- An engine command as an instruction queues it (R143): operands read at issue, pairs where a field names an S register. -/
def newCmd (s : State) (w : Nat) (pcb : Bool) (x : Wave) (f : Sched) (op : CmdOp) (d a b : Reg) : Cmd :=
  let hi (q : Reg) : BitVec 64 := if isS q then readAt s w f (q + 1) else 0
  { wave := w, block := x.block, core := x.core, ctx := x.ctx, uid := s.uid, ctr := if f.sig.toNat < 12 then some f.sig.toNat else none
    pc := (x.path pcb).pc, array := 4 * x.core + x.array.getD 0, op := op, d0 := readAt s w f d, d1 := hi d, a0 := readAt s w f a, a1 := hi a
    b0 := readAt s w f b, b1 := hi b, started := false, ready := false, pts := 0, pos := 0, total := 0, plan := [], rows := [], gens := []
    number := if isS b then 1 else 0, deadline := none, err := 0, info := 0, reply := none, frec := none, finished := false }

/-- The engine commands: instruction, role (R142, R164), what the engine does, operand fields D, A, B. -/
def commandForms (f : Sched) (k : BitVec 9) (z exp clr : Bool) (ch cm1 sel : BitVec 2) (fmt : BitVec 5) (op : BitVec 3) (d a b : Reg) :
    List (Instr × Role × CmdOp × Reg × Reg × Reg) :=
  [(.mw f k a b, .matrix, .mw false k.toNat, noReg, a, b), (.mws f k a b, .matrix, .mw true k.toNat, noReg, a, b),
   (.mswap f, .matrix, .mswap, noReg, noReg, noReg), (.ms f z d a b, .matrix, .stream false z, d, a, b),
   (.mst f z d a b, .matrix, .stream true z, d, a, b), (.mchain f cm1, .matrix, .mchain (cm1.toNat + 1), noReg, noReg, noReg),
   (.mq f sel clr d, .matrix, .mq sel.toNat clr d, noReg, noReg, noReg),
   (.cp f ch exp d a b, .copy, .copy 0 ch.toNat exp 0 0, d, a, b), (.cpG f ch exp d a b, .copy, .copy 1 ch.toNat exp 0 0, d, a, b),
   (.cpS f ch exp d a b, .copy, .copy 2 ch.toNat exp 0 0, d, a, b),
   (.cpRed f ch exp fmt op d a b, .copy, .copy 3 ch.toNat exp fmt.toNat op.toNat, d, a, b),
   (.collAr f exp fmt op d a b, .copy, .coll 0 exp fmt.toNat op.toNat, d, a, b), (.collAg f exp d a b, .copy, .coll 1 exp 0 0, d, a, b),
   (.collRs f exp fmt op d a b, .copy, .coll 2 exp fmt.toNat op.toNat, d, a, b), (.collBc f exp d a b, .copy, .coll 3 exp 0 0, d, a, b),
   (.netGet f exp d a b, .copy, .net 0 exp, d, a, b), (.netPut f exp d a b, .copy, .net 1 exp, d, a, b),
   (.netRead f exp d a b, .copy, .net 2 exp, d, a, b)]

/-- The instructions that end later, and the control instructions without a register result. -/
def laterForms (f : Sched) (off : BitVec 20) (ty aln sel n4 : BitVec 4) (cnt n2 : BitVec 2) (op sc pn n3 : BitVec 3) (fmt n5 : BitVec 5)
    (k6 : BitVec 6) (k9 : BitVec 9) (lim : BitVec 24) (neg z : Bool) (n16 : BitVec 16) (disp : BitVec 32) (d a b : Reg) : List Instr :=
  [.bra f disp, .brc f n3 neg a disp, .brd f n3 neg a b disp, .join f, .ret f a, .exit f] ++
  [.ldS f off ty d a, .ldV f off ty d a, .ldVb f off cnt d a, .ldT f off cnt d a b, .ldLast f off ty d a, .stS f off ty d a,
   .stV f off ty d a, .stVb f off cnt d a, .stPair f off cnt d a b, .pref f off z a b, .pin f off d a b, .unpin f off d a b,
   .wbr f off a b, .red f off ty sc op d a, .atom f off ty sc op d a b, .cas f off ty sc d a b] ++
  [.arenaNew f pn d a b, .arenaAlloc f pn aln d a b, .arenaSeal f a, .arenaReset f d a, .arenaDrop f a, .arenaQuota f d a b,
   .arenaInfo f off pn sel d a] ++
  [.waitc f n4 k6, .waitcTest f n4 k6 d, .bar f n2 n5, .hdlInit f off a b, .hdlInitRelease f off a b, .hdlExpect f off a b,
   .hdlArrive f off a b, .hdlWait f off a b, .hdlTest f off d a b, .watch f off n2 d a, .waitw f n4 lim d, .yield f n2 n4 k6 a b,
   .qbind f n3 z d, .enq f off d a b, .spawn f off d a b, .viewDecl f off fmt op pn d a b, .viewInfo f pn d a, .tend f] ++
  (commandForms f k9 z z z n2 n2 n2 fmt op d a b).map (·.1) ++ [.cpwp f n2 d, .trap f n16 d a b, .brk f n16]

/-! ### Accesses that perform (R219, R225) -/

/-- The oldest access of a wave may perform: no reply and no acknowledgement is on its way, it waits for no command that has still
to post its bytes, and the wave is neither parked nor saved. -/
structure AtHead (s : State) (w : Nat) (x : Wave) (a : Acc) (rest : List Acc) : Prop where
  wave : kget s.waves w = some x
  pend : x.pend = a :: rest
  reply : a.reply = none
  acks : a.acks = none
  park : x.park = none
  here : s.waveAway x = false
  posts : s.awaitsPost w a = false

/-- The undo entries that are left when only the accesses of `rest` are still to perform (R219). -/
def undoAfter (x : Wave) : List Acc → List (Nat × Undo)
  | [] => []
  | b :: _ => x.undo.filter fun e => decide (b.uid < e.1)

/-- The oldest access of a wave has performed at a time: it has left the in-flight access table, the undo entries older than
the next access are freed, the wave's time follows, and the instruction's increment is done (R28, R219, R225). -/
structure Performed (s t : State) (w : Nat) (x : Wave) (a : Acc) (rest : List Acc) (ts : Nat) : Prop where
  present : kget t.waves w = some (t.wave w)
  pend : (t.wave w).pend = rest
  undo : (t.wave w).undo = undoAfter x rest
  pts : (t.wave w).pts = max x.pts ts
  ctr : ∀ n, (t.wave w).ctr n = (x.ctr n).mapToks fun k =>
    if k.uid = a.uid then { k with done := true, err := 0, info := 0, pts := 0 } else k
  paths : (t.wave w).pca = x.pca ∧ (t.wave w).pcb = x.pcb ∧ (t.wave w).stack = x.stack ∧ (t.wave w).park = none
  clk : t.clk = s.clk

/-- The oldest access of a wave has had its effect at its point and left the table; it completes later, as an operation
under way of a kind (R28, R178). -/
structure Deferred (s t : State) (w : Nat) (x : Wave) (a : Acc) (rest : List Acc) (kind arg : Nat) : Prop where
  present : kget t.waves w = some (t.wave w)
  pend : (t.wave w).pend = rest
  ctr : ∀ n, (t.wave w).ctr n = x.ctr n
  asyncs : t.asyncs = s.asyncs ++ [{ uid := a.uid, wave := w, kind := kind, arg := arg }]

/-- A range of an agent of a context lies in one line that is present at its slice, of an arena that is not SYNC and whose
generation the issuer saw; nothing holds the line, and no byte of it is poisoned. For a write the line is dirty already. -/
structure LineReady (s : State) (ctx : Nat) (r : Req) (win : Win) (l : Line) (wr : Bool) : Prop where
  there : kget s.wins r.win = some win
  real : r.win ≠ reservedWin
  live : win.state = .live ∨ win.state = .sealed
  gen : win.gen = r.gen
  lost : win.lost = false
  pad : s.lostAt ctx r.va = false
  inside : win.base ≤ r.va ∧ r.va < win.base + win.size
  kind : attrKind win.attr < 3
  sync : attrSync win.attr = false
  line : kget s.lines (lineTag r.win r.gen r.va) = some l
  dirty : wr = true → l.dirty = true
  poison : l.poison = []
  merge : s.mergeHolds r.win (r.va / 128 * 128) = false
  moves : s.migrating r.win r.va = false
  frozen : s.frozenAt r.win r.gen r.va wr = false
  host : s.hostConflict win (s.locOf r) wr = false

/-- What an access lands where it performs: the S registers that it names, in order, and one predicate (R30); no other register
changes. -/
structure Lands (s t : State) (w : Nat) (x : Wave) (vals : List (Reg × BitVec 64)) (pred : Option (Nat × BitVec 32)) : Prop where
  sRegs : ∀ n, dget 0 (t.wave w).s n = match vals.reverse.find? fun e => isS e.1 && e.1.toNat == n with
    | some e => e.2
    | none => dget 0 x.s n
  preds : ∀ m, (t.wave w).pred m = match pred with
    | some (k, v) => if k < 7 ∧ m = k then v else x.pred m
    | none => x.pred m
  vRegs : (t.wave w).v = x.v
  lfsr : (t.wave w).lfsr = x.lfsr

/-- An access whose effect is no more than some results, some tables and its own leaving: no other wave and no line changes. -/
structure Quiet (s t : State) (w : Nat) : Prop where
  others : ∀ v, v ≠ w → kget t.waves v = kget s.waves v
  lines : t.lines = s.lines
  l1 : t.l1 = s.l1
  blocks : t.blocks = s.blocks
  cmds : t.cmds = s.cmds

/-- Does an instruction hold a path as an HDL.WAIT (R128)? -/
def heldAsWait (p : Path) (uid : Nat) : Bool := match p.hold with
  | .hdlWait u _ _ _ _ _ => u == uid
  | _ => false

/-- The bits of `n` bytes of memory from a key are those of a number, and no other byte changes. -/
def Stores (s t : State) (k n v : Nat) : Prop :=
  ∀ q, t.byte q = if k ≤ q ∧ q < k + n then BitVec.ofNat 8 (v / 256 ^ (q - k)) else s.byte q

/-- The handle that an arena instruction names (R113). -/
def arenaHandle : AccOp → Option (BitVec 64)
  | .arenaNew _ _ h _ _ | .arenaAlloc _ _ _ h _ | .arenaSeal h | .arenaReset _ h | .arenaDrop h | .arenaQuota _ h _ => some h
  | _ => none

/-- Do two window keys show one arena? -/
def sameArena (k q : Nat) : Prop := winSpace k = winSpace q ∧ winId k = winId q

/-- Nothing of memory and of the lines' data changes, but for the line named. -/
structure OtherBytes (s t : State) (key : Nat) : Prop where
  bytes : ∀ k, t.byte k = s.byte k
  lines : ∀ k, k ≠ key → (kget t.lines k).map (·.data) = (kget s.lines k).map (·.data)

/-- A range of an agent of a context lies in a SCRATCH arena whose bytes stand in a core's scratchpad; nothing holds it and no
byte is poisoned. -/
structure ScratchReady (s : State) (ctx : Nat) (r : Req) : Prop where
  real : r.win ≠ reservedWin
  here : s.lostAt ctx r.va = false
  win : ∃ win, kget s.wins r.win = some win ∧ attrKind win.attr = 3 ∧ (win.state = .live ∨ win.state = .sealed) ∧ win.gen = r.gen ∧
    win.lost = false ∧ win.base ≤ r.va ∧ r.va < win.base + win.size
  merge : s.mergeHolds r.win (r.va / 128 * 128) = false
  poison : s.poison = []
  pad : 2 ^ 40 ≤ s.scratchByte r.win r.va

/-- The byte at a key after the ranges of a store to SCRATCH, in order (R111). -/
def storedByte (s : State) (rs : List Req) (k : Nat) : Byte :=
  rs.foldl (fun b r =>
    let p := s.scratchByte r.win r.va
    if p ≤ k ∧ k < p + r.len then BitVec.ofNat 8 (r.dat.toNat / 256 ^ (k - p)) else b) (s.byte k)

/-- The packet events of a queue: the types that each serves, and what acting on one gives (Table 19.4). -/
def packetRows (qn : Nat) : List (Instr × (Nat → Bool) × PacketAct) :=
  [(.nopPacket qn, fun t => t == 0 || decide (8 < t), actNop), (.recordPacket qn, fun t => t == 1, actRecord),
   (.nodeDef qn, fun t => t == 2, actNodeDef), (.nodeDel qn, fun t => t == 3, actNodeDel), (.commDef qn, fun t => t == 4, actCommDef),
   (.epDef qn, fun t => t == 5, actEpDef), (.vpool qn, fun t => t == 6, actVpool), (.qcreate qn, fun t => t == 7, actQcreate qn),
   (.qdestroy qn, fun t => t == 8, actQdestroy qn)]

/-- What a control core's act on the packet first in its queue gives: BADPKT and NOCTX first (R287). -/
def State.actedOn (u : State) (q : Queue) (p : Packet) (act : PacketAct) : Acted :=
  match u.packetBad { q with head := q.headCount } p with
  | some c => .done u c 0 0
  | none => act u q p

/-- Eight bytes that an agent may write lie in one line that is ready for it. -/
structure WordReady (s : State) (a : Who) (va : Nat) : Prop where
  inside : va % 128 + 8 ≤ 128
  ready : ∃ k g win l, s.checkRange a va 8 1 false true = .ok (k, g) ∧
    LineReady s a.ctx { mkReq 0 0 va 8 0 with win := k, gen := g } win l true ∧ l.data.length = 128

/-- The little-endian value of the eight bytes at an address of a line at its slice. -/
def State.lineWord (s : State) (a : Who) (va : Nat) : Nat :=
  match s.checkRange a va 8 1 false true with
  | .ok (k, g) => match kget s.lines (lineTag k g va) with
    | some l => ofBytes ((l.data.drop (va % 128)).take 8)
    | none => 0
  | .error _ => 0

/-- The place of a queue's next completion entry (R287). -/
def Queue.entryAt (q : Queue) : Nat := q.cq + 16 * (q.entries % q.slots)

/-- The lines of a queue's next completion entry and of its HEAD are ready for its control core. -/
structure PostReady (s : State) (q : Queue) : Prop where
  entry : WordReady s q.who q.entryAt
  value : WordReady s q.who (q.entryAt + 8)
  head : WordReady s q.who q.head
  count : WordReady s q.who (q.head + 8)
  apart : q.entryAt + 16 ≤ q.head ∨ q.head + 16 ≤ q.entryAt

/-- A packet has completed (R287, R289): its entry with the phase of its round, then HEAD, stand in their lines, its queue has
moved on, its vector is raised where it asks for one, and the rest is as its act left it. -/
structure Served (t z : State) (qn : Nat) (q : Queue) (p : Packet) (status reason value : Nat) : Prop where
  rest : { z with
    waves := t.waves, lines := t.lines, l1 := t.l1, sliceBase := t.sliceBase, queues := t.queues, irqs := t.irqs } = t
  queue : kget z.queues qn = (kget t.queues qn).map fun o => { o with
    headCount := q.headCount + p.slots, entries := q.entries + 1, held := false, post := none }
  queues : ∀ n, n ≠ qn → kget z.queues n = kget t.queues n
  irqs : z.irqs = t.irqs ++ (if p.w0.getLsbD 51 = true ∧ q.vec ≠ 0 then [q.vec] else [])
  entry : z.lineWord q.who q.entryAt = (status * 2 ^ 56 + reason * 2 ^ 48 + p.ctx * 2 ^ 36 +
    (q.entries / q.slots + 1) % 2 * 2 ^ 32 + p.w0.toNat % 2 ^ 32) % 2 ^ 64
  value : z.lineWord q.who (q.entryAt + 8) = value % 2 ^ 64
  head : z.lineWord q.who q.head = (q.headCount + p.slots) % 2 ^ 64
  count : z.lineWord q.who (q.head + 8) = (q.entries + 1) % 2 ^ 64

end Sys2Proof.Machine
end

