-- ==== Sys2Proof/Certificates/Slice0/Obligations.lean ====
section
/-! DEFINITION. The statements about the model. -/
open Sys2Proof Sys2Proof.Machine

/-- R19, R26, R63, R64, R65, R66: For every state, path and operands with a non-empty active set, each scalar integer
instruction with an S result answers a next state in which its D holds the result of its table on the operands read at
issue (extended by the type), Z and every other field discard it, no other register, no byte of memory and no other wave
changes, the path moves to the next instruction, and the clock stands at the cc of the issue. -/
def Obligations.ScalarResults : Prop :=
  ∀ (s : State) (w : Nat) (pcb : Bool) (x : Wave) (f : Sched) (t : BitVec 2) (d a b : Reg) (imm : BitVec 32),
    Turn s w pcb x → activeAt s w pcb f ≠ 0 →
    ∀ e ∈ scalarRows f t d a b imm (readAt s w f a) (readAt s w f b),
      ∃ u, exec e.1 s = .next u ∧ Fixed s u w pcb x f e.2.1 ∧ ResultU s u w x d e.2.2 []

/-- R20, R21, R63, R67, R68: For every type, VADD, VSUB, VMUL, VMULH, VAND, VOR, VXOR, VMIN and VMAX, in both formats,
write the wrapped result of each active lane to D (a pair for 64-bit types, a push for a queue port), leave the other
lanes and every other register alone, pop the queue ports among their sources once each, and store nothing. -/
def Obligations.VectorArithmetic : Prop :=
  ∀ (s : State) (w : Nat) (pcb : Bool) (x : Wave) (f : Sched) (t : BitVec 2) (d a b : Reg) (imm : BitVec 32),
    Turn s w pcb x → activeAt s w pcb f ≠ 0 →
    ∀ e ∈ vectorArith (vectorW t) (typeSigned t) f t d a b imm (laneBitsAt s w f (vectorW t) [] a) (laneBitsAt s w f (vectorW t) [a] b),
      ∃ u, exec e.1 s = .next u ∧ Fixed s u w pcb x f e.2.1 ∧ ResultV s u w x t d (activeAt s w pcb f) e.2.2.2 e.2.2.1

/-- R20, R21, R67, R68, R69: For every type, VSHL, VSHR, VSAR, VMAD, VABS, VMOV, VLI, VBFE and VBFI write the result of
each active lane to D as Table 3.4 and R69 give it, with the frame of the vector arithmetic. That a register shift
amount is read as an unsigned lane is the reading of log entry 20. -/
def Obligations.VectorBits : Prop :=
  ∀ (s : State) (w : Nat) (pcb : Bool) (x : Wave) (f : Sched) (t : BitVec 2) (d a b c : Reg) (imm : BitVec 32),
    Turn s w pcb x → activeAt s w pcb f ≠ 0 →
    ∀ e ∈ vectorBits (vectorW t) (typeSigned t) f t d a b c imm (laneBitsAt s w f (vectorW t) [] a)
        (laneBitsAt s w f (vectorW t) [a] b) (laneBitsAt s w f (vectorW t) [a, b] c) (if isV d then laneBitsAt s w f (vectorW t) [a] d else fun _ => 0),
      ∃ u, exec e.1 s = .next u ∧ Fixed s u w pcb x f e.2.1 ∧ ResultV s u w x t d (activeAt s w pcb f) e.2.2.2 e.2.2.1

/-- R62, R66, R69: SSEL picks by whether any active lane has the predicate and SCMP writes the outcome to all 32 bits of
its predicate; VSEL picks per lane and VCMP writes the bits of the active lanes and leaves the others; nothing else
changes. -/
def Obligations.SelectCompare : Prop :=
  (∀ (s : State) (w : Nat) (pcb : Bool) (x : Wave) (f : Sched) (t : BitVec 2) (n cnd : BitVec 3) (neg : Bool) (d a b : Reg) (imm : BitVec 32),
      Turn s w pcb x → activeAt s w pcb f ≠ 0 →
      (∃ u, exec (.ssel f n neg d a b) s = .next u ∧ Fixed s u w pcb x f 2 ∧
        ResultU s u w x d (if predAt s w f n neg &&& activeAt s w pcb f ≠ 0 then readAt s w f a else readAt s w f b) []) ∧
      (∃ u, exec (.scmpRR f t cnd d a b) s = .next u ∧ Fixed s u w pcb x f 2 ∧
        ResultP s u w x d.toNat (allBits (scalarCond t cnd (readAt s w f a) (readAt s w f b))) []) ∧
      (∃ u, exec (.scmpRI f t cnd d a imm) s = .next u ∧ Fixed s u w pcb x f 2 ∧
        ResultP s u w x d.toNat (allBits (scalarCond t cnd (readAt s w f a) (scalarImm t imm))) [])) ∧
  (∀ (s : State) (w : Nat) (pcb : Bool) (x : Wave) (f : Sched) (t : BitVec 2) (n cnd : BitVec 3) (neg : Bool) (d a b : Reg) (imm : BitVec 32),
      Turn s w pcb x → activeAt s w pcb f ≠ 0 →
      let va := laneBitsAt s w f (vectorW t) [] a
      let vb := laneBitsAt s w f (vectorW t) [a] b
      let put (g : Nat → Bool) : BitVec 32 := putBits (x.pred d.toNat) (activeAt s w pcb f) (laneBits g)
      (∃ u, exec (.vsel f t n neg d a b) s = .next u ∧ Fixed s u w pcb x f 4 ∧
        ResultV s u w x t d (activeAt s w pcb f) (fun l => if (predAt s w f n neg).getLsbD l then va l else vb l) [a, b]) ∧
      (∃ u, exec (.vcmpRR f t cnd d a b) s = .next u ∧ Fixed s u w pcb x f 4 ∧
        ResultP s u w x d.toNat (put fun l => bvCond _ (typeSigned t) cnd (va l) (vb l)) [a, b]) ∧
      (∃ u, exec (.vcmpRI f t cnd d a imm) s = .next u ∧ Fixed s u w pcb x f 4 ∧
        ResultP s u w x d.toNat (put fun l => bvCond _ (typeSigned t) cnd (va l) (if typeSigned t then imm.signExtend _ else imm.setWidth _)) [a]))

/-- R67, R70: VPOPC and VCLZ write the count of each active lane as 32 bits; VADDR writes to the V pair D the wrapped
sum of the 64-bit base of the lane and the extended and scaled index, or the sign-extended immediate; nothing else
changes. -/
def Obligations.VectorCountAddress : Prop :=
  ∀ (s : State) (w : Nat) (pcb : Bool) (x : Wave) (f : Sched) (t : BitVec 2) (scl : BitVec 3) (uns : Bool) (d a b : Reg) (imm : BitVec 32),
    Turn s w pcb x → activeAt s w pcb f ≠ 0 →
    let va := laneBitsAt s w f (vectorW t) [] a
    (∃ u, exec (.vpopc f t d a) s = .next u ∧ Fixed s u w pcb x f 4 ∧
      ResultL s u w x d (activeAt s w pcb f) (fun l => BitVec.ofNat 32 (bvOnes _ (va l))) [a]) ∧
    (∃ u, exec (.vclz f t d a) s = .next u ∧ Fixed s u w pcb x f 4 ∧
      ResultL s u w x d (activeAt s w pcb f) (fun l => BitVec.ofNat 32 (bvZeros _ (va l))) [a]) ∧
    (∃ u, exec (.vaddrRR f scl uns d a b) s = .next u ∧ Fixed s u w pcb x f 4 ∧
      ResultL64 s u w x d (activeAt s w pcb f) (fun l => lane64At s w f a l +
        ((if uns then (laneAt s w f [] b l).setWidth 64 else (laneAt s w f [] b l).signExtend 64) <<< scl.toNat)) [b]) ∧
    (∃ u, exec (.vaddrRI f d a imm) s = .next u ∧ Fixed s u w pcb x f 4 ∧
      ResultL64 s u w x d (activeAt s w pcb f) (fun l => lane64At s w f a l + imm.signExtend 64) [])

/-- R71, R72: VBCAST, V2S and VSHFL take lane k mod 32, or the source lane of their mode, and VRED combines the active
lanes by its operation; the results go to D as the type says and nothing else changes. -/
def Obligations.LaneResults : Prop :=
  ∀ (s : State) (w : Nat) (pcb : Bool) (x : Wave) (f : Sched) (t op : BitVec 2) (d a b : Reg) (imm : BitVec 32),
    Turn s w pcb x → activeAt s w pcb f ≠ 0 →
    let va := laneBitsAt s w f (vectorW t) [] a
    let ext (v : BitVec (vectorW t)) : BitVec 64 := if typeSigned t then v.signExtend 64 else v.setWidth 64
    (∃ u, exec (.vbcastRR f t d a b) s = .next u ∧ Fixed s u w pcb x f 8 ∧
      ResultV s u w x t d (activeAt s w pcb f) (fun _ => va ((readAt s w f b).toNat % 32)) [a]) ∧
    (∃ u, exec (.vbcastRI f t d a imm) s = .next u ∧ Fixed s u w pcb x f 8 ∧
      ResultV s u w x t d (activeAt s w pcb f) (fun _ => va (imm.toNat % 32)) [a]) ∧
    (∃ u, exec (.v2sRR f t d a b) s = .next u ∧ Fixed s u w pcb x f 8 ∧
      ResultU s u w x d (ext (va ((readAt s w f b).toNat % 32))) [a]) ∧
    (∃ u, exec (.v2sRI f t d a imm) s = .next u ∧ Fixed s u w pcb x f 8 ∧ ResultU s u w x d (ext (va (imm.toNat % 32))) [a]) ∧
    (∃ u, exec (.vshflRR f t 0 d a b) s = .next u ∧ Fixed s u w pcb x f 8 ∧
      ResultV s u w x t d (activeAt s w pcb f) (fun l => va ((laneAt s w f [a] b l).toNat % 32)) [a, b]) ∧
    (∀ mode : BitVec 2, mode ≠ 0 → ∃ u, exec (.vshflRR f t mode d a b) s = .next u ∧ Fixed s u w pcb x f 8 ∧
      ResultV s u w x t d (activeAt s w pcb f) (fun l => va (shuffleLane mode l ((readAt s w f b).toNat % 32))) [a]) ∧
    (∀ mode : BitVec 2, ∃ u, exec (.vshflRI f t mode d a imm) s = .next u ∧ Fixed s u w pcb x f 8 ∧
      ResultV s u w x t d (activeAt s w pcb f) (fun l => va (shuffleLane mode l (imm.toNat % 32))) [a]) ∧
    (∃ u, exec (.vred f t op d a) s = .next u ∧ Fixed s u w pcb x f 12 ∧
      ResultU s u w x d (ext (bvReduce _ (typeSigned t) op.toNat
        (((List.range 32).filter fun l => (activeAt s w pcb f).getLsbD l).map va))) [a])

/-- R73: Each predicate instruction is encoded as Table 3.6 gives with MOD zero, any other MOD failing check 5 and any
predicate number above 7 failing check 6; executed with a non-empty active set it writes its value, from sources read at
issue, to the bits of active or to all 32 bits of its predicate (a write to P7 is discarded) and changes nothing else.
-/
def Obligations.PredicateResults : Prop :=
  (∀ (s : State) (w : Nat) (pcb : Bool) (x : Wave) (f : Sched) (d a b : Reg), Turn s w pcb x → activeAt s w pcb f ≠ 0 →
      let act := activeAt s w pcb f
      let p := predOf s w f a
      let q := predOf s w f b
      let put (v : BitVec 32) : BitVec 32 := (x.pred d.toNat &&& ~~~act) ||| (v &&& act)
      let all (c : Bool) : BitVec 32 := if c then 0xFFFFFFFF else 0
      ∀ e ∈ [(Instr.pand f d a b, put (p &&& q)), (.por f d a b, put (p ||| q)), (.pxor f d a b, put (p ^^^ q)), (.pnot f d a, put (~~~p)),
          (.pmov f d a, put p), (.pany f d a, all (p &&& act != 0)), (.pall f d a, all (p &&& act == act)), (.pset f d a, (readAt s w f a).setWidth 32)],
        ∃ u, exec e.1 s = .next u ∧ Fixed s u w pcb x f 2 ∧ ResultP s u w x d.toNat e.2 []) ∧
  (∀ (f : Sched) (d a b : Reg) (mid : BitVec 32), f.sig.toNat < 12 ∨ f.sig = 15 →
      (∀ e ∈ [(Instr.pand f d a b, b, 0x30#8), (.por f d a b, b, 0x31), (.pxor f d a b, b, 0x32), (.pnot f d a, 0, 0x33), (.pmov f d a, 0, 0x34),
          (.pany f d a, 0, 0x35), (.pall f d a, 0, 0x36), (.pset f d a, 0, 0x37)],
        encode e.1 = join 0 f 0 e.2.1 a d e.2.2 ∧ (mid ≠ 0 → decode (join 0 f mid e.2.1 a d e.2.2) = .error 5)) ∧
      (8 ≤ d.toNat ∨ 8 ≤ a.toNat ∨ 8 ≤ b.toNat → ∀ i ∈ [Instr.pand f d a b, .por f d a b, .pxor f d a b], decode (encode i) = .error 6) ∧
      (8 ≤ d.toNat ∨ 8 ≤ a.toNat → ∀ i ∈ [Instr.pnot f d a, .pmov f d a, .pany f d a, .pall f d a], decode (encode i) = .error 6) ∧
      (8 ≤ d.toNat ∨ uSrc a = false → decode (encode (.pset f d a)) = .error 6))

/-- R25, R26, R28, R74: An instruction whose active set is empty writes no register, pops and pushes no queue port,
makes no access and changes no byte; its path moves on and its counter follows its latency; NOP does the same whatever
its active set is. This holds for every instruction that may carry a guard, the supervisor ones on a control core. -/
def Obligations.NothingWhenGuardedOff : Prop :=
  (∀ (s : State) (w : Nat) (pcb : Bool) (x : Wave) (f : Sched) (t op mode ft : BitVec 2) (cnd n rm ei scl : BitVec 3)
      (neg uns sat mx4 : Bool) (df sf : BitVec 5) (d a b c : Reg) (imm : BitVec 32), Turn s w pcb x →
      (∃ u, exec (.nop f) s = .next u ∧ Fixed s u w pcb x f 0 ∧ NoResult s u w x) ∧
      (activeAt s w pcb f = 0 → ∀ e ∈ fixedForms f t op mode ft cnd n rm ei scl neg uns sat mx4 df sf d a b c imm,
        ∃ u, exec e.1 s = .next u ∧ Fixed s u w pcb x f e.2 ∧ NoResult s u w x)) ∧
  (∀ (s : State) (w : Nat) (pcb : Bool) (x : Wave) (f : Sched) (off : BitVec 20) (ty aln sel n4 : BitVec 4) (cnt n2 : BitVec 2)
      (op sc pn n3 : BitVec 3) (fmt n5 : BitVec 5) (k6 : BitVec 6) (k9 : BitVec 9) (lim : BitVec 24) (neg z : Bool) (n16 m16 : BitVec 16)
      (disp : BitVec 32) (d a b : Reg), Turn s w pcb x → activeAt s w pcb f = 0 →
      (∀ i ∈ laterForms f off ty aln sel n4 cnt n2 op sc pn n3 fmt n5 k6 k9 lim neg z n16 disp d a b,
        ∃ u, exec i s = .next u ∧ Fixed s u w pcb x f 0 ∧ NoResult s u w x) ∧
      (∀ i ∈ [Instr.call f d disp, .loop f d disp], ∃ u, exec i s = .next u ∧ Fixed s u w pcb x f 2 ∧ NoResult s u w x) ∧
      (x.super = true → ∀ i ∈ [Instr.rft f, .sysrd f n16 m16 d, .syswr f n16 m16 a, .tinv f k6 z a b, .halt f n4 lim d, .snap f d a b, .slotset f n2 d a],
        ∃ u, exec i s = .next u ∧ Fixed s u w pcb x f 0 ∧ NoResult s u w x))

/-- R47, R48, R84: VFADD, VFSUB, VFMUL, VFMA, VFMIN, VFMAX, VFABS and VFNEG write to each active lane of D the one
rounding of the exact result, in F32 or in each 16-bit half as BF16 or F16, with the canonical NaN for every NaN result;
inactive lanes and every other register keep their values. The sign of a sum that is zero, (+0) + (+0) under .RD among
them, is the reading of log entry 12. -/
def Obligations.FloatResults : Prop :=
  ∀ (s : State) (w : Nat) (pcb : Bool) (x : Wave) (f : Sched) (ft : BitVec 2) (rm : BitVec 3) (d a b c : Reg),
    Turn s w pcb x → activeAt s w pcb f ≠ 0 →
    ∀ e ∈ floatRows f ft rm d a b c (laneAt s w f [] a) (laneAt s w f [a] b) (laneAt s w f [a, b] c),
      ∃ u, exec e.1 s = .next u ∧ Fixed s u w pcb x f 6 ∧ ResultL s u w x d (activeAt s w pcb f) e.2.2 e.2.1

/-- R85: VFCMP writes the outcome of its IEEE 754 comparison to the bits of active of its predicate and leaves the other
bits and every other register; a write to P7 is discarded and a predicate number above 7 fails check 6. -/
def Obligations.FloatCompareResult : Prop :=
  ∀ (s : State) (w : Nat) (pcb : Bool) (x : Wave) (f : Sched) (cnd : BitVec 3) (d a b : Reg),
    Turn s w pcb x → activeAt s w pcb f ≠ 0 →
    ∃ u, exec (.vfcmp f cnd d a b) s = .next u ∧ Fixed s u w pcb x f 6 ∧
      ResultP s u w x d.toNat (putBits (x.pred d.toNat) (activeAt s w pcb f)
        (laneBits fun l => floatCond cnd (laneAt s w f [] a l) (laneAt s w f [a] b l))) [a, b] ∧
      (8 ≤ d.toNat → f.sig.toNat < 12 ∨ f.sig = 15 → decode (encode (.vfcmp f cnd d a b)) = .error 6)

/-- R87: There are four functions of 32 bits, one for each of VRCP, VRSQ, VEXP2 and VLOG2, with the exact cases and the
special inputs of Table 4.3, such that in every state, on every core, the instruction writes the function of each active
lane to D and changes nothing else. -/
def Obligations.TranscendentalResults : Prop :=
  ∃ rcp rsq exp2 log2 : BitVec 32 → BitVec 32, Transcendentals rcp rsq exp2 log2 ∧
    ∀ (s : State) (w : Nat) (pcb : Bool) (x : Wave) (f : Sched) (d a : Reg), Turn s w pcb x → activeAt s w pcb f ≠ 0 →
      ∀ e ∈ [(Instr.vrcp f d a, rcp), (.vrsq f d a, rsq), (.vexp2 f d a, exp2), (.vlog2 f d a, log2)],
        ∃ u, exec e.1 s = .next u ∧ Fixed s u w pcb x f 16 ∧ ResultL s u w x d (activeAt s w pcb f) (fun l => e.2 (laneAt s w f [] a l)) [a]

/-- R42, R47, R48, R49, R91, R96: CVT converts element EI of each active lane, or the 64-bit source, to DF and writes
the code to D; with .SR every active lane draws 24 bits from the LFSR in ascending order and the LFSR moves on by
exactly these draws, else it stays. -/
def Obligations.ConvertResult : Prop :=
  ∀ (s : State) (w : Nat) (pcb : Bool) (x : Wave) (f : Sched) (df sf : BitVec 5) (rm : BitVec 3) (sat : Bool) (ei : BitVec 3) (d a : Reg),
    Turn s w pcb x → activeAt s w pcb f ≠ 0 →
    let act := activeAt s w pcb f
    let src (l : Nat) : Nat := if fmtWidth sf.toNat = 64 then (lane64At s w f a l).toNat
      else (laneAt s w f [] a l).toNat / 2 ^ (fmtWidth sf.toNat * ei.toNat) % 2 ^ fmtWidth sf.toNat
    let out (l : Nat) : Nat := convertCode df.toNat sf.toNat rm.toNat sat (if rm = 4 then drawAt x.lfsr (rankOf act l) else 0) (src l)
    ∃ u, exec (.cvt f df sf rm sat ei d a) s = .next u ∧ Fixed s u w pcb x f 8 ∧
      (u.wave w).lfsr = (if rm = 4 then lfsrAfter (24 * countLanes act) x.lfsr else x.lfsr) ∧
      (fmtWidth df.toNat ≠ 64 → ResultL s (u.withLfsr w x.lfsr) w x d act (fun l => BitVec.ofNat 32 (out l)) [a]) ∧
      (fmtWidth df.toNat = 64 → ResultL64 s (u.withLfsr w x.lfsr) w x d act (fun l => BitVec.ofNat 64 (out l)) [a])

/-- R49, R92, R96: VPACK packs the converted values of the n registers from A, lowest first, into each active lane of D;
with .SR it draws once per value in lane-major order, else the LFSR stays. -/
def Obligations.PackResult : Prop :=
  ∀ (s : State) (w : Nat) (pcb : Bool) (x : Wave) (f : Sched) (df : BitVec 5) (rm : BitVec 3) (sat : Bool) (d a : Reg),
    Turn s w pcb x → activeAt s w pcb f ≠ 0 →
    let act := activeAt s w pcb f
    let n := 32 / fmtWidth df.toNat
    let code (i l : Nat) : Nat := convertVal df.toNat rm.toNat sat (if rm = 4 then drawAt x.lfsr (rankOf act l * n + i) else 0)
      (fmtVal 0 (laneAt s w f [] (a + BitVec.ofNat 8 i) l).toNat)
    ∃ u, exec (.vpack f df rm sat d a) s = .next u ∧ Fixed s u w pcb x f 8 ∧
      (u.wave w).lfsr = (if rm = 4 then lfsrAfter (24 * (countLanes act * n)) x.lfsr else x.lfsr) ∧
      ResultL s (u.withLfsr w x.lfsr) w x d act
        (fun l => BitVec.ofNat 32 (((List.range n).map fun i => code i l * 2 ^ (fmtWidth df.toNat * i)).sum)) []

/-- R95, R96: SEED writes the LFSR of the wave to D (Z discards it) and sets the LFSR to its source, or to 1 for a zero
source; nothing else changes. -/
def Obligations.SeedResult : Prop :=
  ∀ (s : State) (w : Nat) (pcb : Bool) (x : Wave) (f : Sched) (d a : Reg) (imm : BitVec 32),
    Turn s w pcb x → activeAt s w pcb f ≠ 0 →
    ∀ e ∈ [(Instr.seedRR f d a, readAt s w f a), (.seedRI f d imm, imm.setWidth 64)],
      ∃ u, exec e.1 s = .next u ∧ Fixed s u w pcb x f 8 ∧ (u.wave w).lfsr = (if e.2 = 0 then 1 else e.2) ∧
        ResultU s (u.withLfsr w x.lfsr) w x d x.lfsr []

/-- R45, R49, R51, R93: The 4 or 8 blocks of the segment are converted with the tags read from C and the scale of R51;
the elements go to all lanes of D, the scales to Sb and the tags to Sb+1, and the LFSR moves by the draws of .SR. -/
def Obligations.PackBlocksResult : Prop :=
  ∀ (s : State) (w : Nat) (pcb : Bool) (x : Wave) (f : Sched) (mx4 : Bool) (rm : BitVec 3) (d a b c : Reg),
    Turn s w pcb x → activeAt s w pcb f ≠ 0 →
    let n := if mx4 then 8 else 4
    let tags := (readAt s w f c).toNat
    let blocks := (List.range n).map fun j => packBlock (!mx4) (tags / 4 ^ j % 4) rm.toNat
      ((List.range 32).map fun m => fmtVal 0 (laneAt s w f [] (a + BitVec.ofNat 8 j) m).toNat)
      (fun m => if rm = 4 then drawAt x.lfsr (32 * j + m) else 0)
    ∃ u, exec (.vpackMx8 f mx4 rm d a b c) s = .next u ∧ Fixed s u w pcb x f 8 ∧
      WritesV x (u.wave w) d 0xFFFFFFFF (mxLane mx4 blocks) ∧ Queues s u x [] (some d) (laneEntry 0xFFFFFFFF (mxLane mx4 blocks)) ∧
      (∀ k, dget 0 (u.wave w).s k = if isS b = true ∧ isS (b + 1) = true ∧ k = (b + 1).toNat then BitVec.ofNat 64 (tags % 4 ^ n)
        else if isS b = true ∧ k = b.toNat then mxScales blocks else dget 0 x.s k) ∧
      (u.wave w).p = x.p ∧ (u.wave w).lfsr = (if rm = 4 then lfsrAfter (24 * (32 * n)) x.lfsr else x.lfsr)

/-- R42, R45, R46, R94: VUNPACK writes the value of each narrow element, for block formats with its scale and tag, to
the active lanes of the n registers from D, and changes nothing else. -/
def Obligations.UnpackResult : Prop :=
  ∀ (s : State) (w : Nat) (pcb : Bool) (x : Wave) (f : Sched) (df sf : BitVec 5) (rm : BitVec 3) (d a b : Reg),
    Turn s w pcb x → activeAt s w pcb f ≠ 0 → d.toNat + vunpackN sf ≤ 192 →
    let wd := fmtWidth sf.toNat
    let elem (k : Nat) : Nat := (laneAt s w f [] a (k / (32 / wd))).toNat / 2 ^ (wd * (k % (32 / wd))) % 2 ^ wd
    let tag (i : Nat) : Nat := (if isS b then (readAt s w f (b + 1)).toNat else 0) / 4 ^ i % 4
    let code (i l : Nat) : Nat := (laneAt s w f [] a l).toNat / 2 ^ (wd * i) % 2 ^ wd
    let val (i l : Nat) : Nat :=
      if isBlock sf then convertVal df.toNat rm.toNat false 0 (blockVal (sf == 0x10) (tag i) ((readAt s w f b).toNat / 256 ^ i % 256) (elem (32 * i + l)))
      else if df = 8 ∧ sf = 6 ∧ code i l = 8 then 0 else convertVal df.toNat rm.toNat false 0 (fmtVal sf.toNat (code i l))
    ∃ u, exec (.vunpack f df sf rm d a b) s = .next u ∧ Fixed s u w pcb x f 8 ∧
      (∀ k, dget 0 (u.wave w).v k =
        if d.toNat ≤ k / 32 ∧ k / 32 < d.toNat + vunpackN sf ∧ (activeAt s w pcb f).getLsbD (k % 32) = true
        then BitVec.ofNat 32 (val (k / 32 - d.toNat) (k % 32)) else dget 0 x.v k) ∧
      (u.wave w).s = x.s ∧ (u.wave w).p = x.p ∧ (u.wave w).lfsr = x.lfsr ∧ Queues s u x [a] none []

/-- R16, R75: BRA, BRC, CALL, RET and LOOP move the whole path to the target, or on, as R75 computes it, and write
nothing but the D of CALL and LOOP; a target that is not a multiple of 12 raises ALIGN at the instruction, taken or not,
for BRD as well. -/
def Obligations.BranchResults : Prop :=
  (∀ (s : State) (w : Nat) (pcb : Bool) (x : Wave) (f : Sched) (n : BitVec 3) (neg : Bool) (mode d : Reg) (disp : BitVec 32),
      Turn s w pcb x → activeAt s w pcb f ≠ 0 →
      let act := activeAt s w pcb f
      let pc := (x.path pcb).pc
      let tgt := pc + disp.signExtend 56
      let p := predAt s w f n neg
      let v := readAt s w f d - 1
      tgt.toNat % 12 = 0 →
      (∃ u, exec (.bra f disp) s = .next u ∧ Goes s u w pcb x f 0 tgt ∧ NoResult s u w x) ∧
      (∃ u, exec (.brc f n neg mode disp) s = .next u ∧
        Goes s u w pcb x f 0 (if (if mode = 0 then p &&& act ≠ 0 else if mode = 1 then act &&& ~~~p = 0 else p &&& act = 0) then tgt else pc + 12) ∧
        NoResult s u w x) ∧
      (∃ u, exec (.call f d disp) s = .next u ∧ Goes s u w pcb x f 2 tgt ∧ ResultU s u w x d ((pc + 12).setWidth 64) []) ∧
      (∃ u, exec (.loop f d disp) s = .next u ∧ Goes s u w pcb x f 2 (if v ≠ 0 then tgt else pc + 12) ∧ ResultU s u w x d v [])) ∧
  (∀ (s : State) (w : Nat) (pcb : Bool) (x : Wave) (f : Sched) (a : Reg), Turn s w pcb x → activeAt s w pcb f ≠ 0 →
      let tgt : Addr := (readAt s w f a).setWidth 56
      tgt.toNat % 12 = 0 → ∃ u, exec (.ret f a) s = .next u ∧ Goes s u w pcb x f 0 tgt ∧ NoResult s u w x) ∧
  (∀ (s : State) (w : Nat) (pcb : Bool) (x : Wave) (f : Sched) (n : BitVec 3) (neg : Bool) (mode d a jlo jhi : Reg) (disp : BitVec 32),
      Turn s w pcb x → activeAt s w pcb f ≠ 0 →
      (((x.path pcb).pc + disp.signExtend 56).toNat % 12 ≠ 0 →
        ∀ i ∈ [Instr.bra f disp, .brc f n neg mode disp, .brd f n neg jlo jhi disp, .call f d disp, .loop f d disp],
          exec i s = .next (s.raiseIssue w pcb f (Trap.of 3 (activeAt s w pcb f)))) ∧
      (((readAt s w f a).setWidth 56 : Addr).toNat % 12 ≠ 0 →
        exec (.ret f a) s = .next (s.raiseIssue w pcb f (Trap.of 3 (activeAt s w pcb f)))))

/-- R77: BRD moves its path on or to the target without a record when its lanes agree, and otherwise spills the live
sibling, pushes a frame for its join and leaves the two halves in PCA and PCB; beyond 16 records it raises DIVSTACK and
a misplaced target raises ALIGN; on a control core with its one lane, one half is always empty. -/
def Obligations.SplitResult : Prop :=
  ∀ (s : State) (w : Nat) (pcb : Bool) (x : Wave) (f : Sched) (n : BitVec 3) (neg : Bool) (jlo jhi : Reg) (disp : BitVec 32),
    Turn s w pcb x → activeAt s w pcb f ≠ 0 →
    let h := x.path pcb
    let o := x.path (!pcb)
    let tgt := h.pc + disp.signExtend 56
    let join := h.pc + (12 * (jhi ++ jlo : BitVec 16).signExtend 56 : Addr)
    let yes := h.mask &&& predAt s w f n neg
    let no := h.mask &&& ~~~(predAt s w f n neg)
    let st := (match h.join with | some j => [DivRec.frame join j] | none => []) ++ (if o.live then [.path o] else []) ++ x.stack
    let i := Instr.brd f n neg jlo jhi disp
    (tgt.toNat % 12 ≠ 0 → exec i s = .next (s.raiseIssue w pcb f (Trap.of 3 (activeAt s w pcb f)))) ∧
    (x.super = true → h.mask = 1 → yes = 0 ∨ no = 0) ∧ (tgt.toNat % 12 = 0 →
    (yes = 0 → ∃ u, exec i s = .next u ∧ Fixed s u w pcb x f 0 ∧ NoResult s u w x) ∧
    (yes ≠ 0 → no = 0 → ∃ u, exec i s = .next u ∧ Goes s u w pcb x f 0 tgt ∧ NoResult s u w x) ∧
    (yes ≠ 0 → no ≠ 0 → st.length ≤ 16 → ∃ u, exec i s = .next u ∧ Issued s u w x f ∧ Counted s u w x f (some 0) ∧ NoResult s u w x ∧
      (u.wave w).pca = { live := true, pc := h.pc + 12, mask := no, join := some join, last := u.clk, hold := .none } ∧
      (u.wave w).pcb = { live := true, pc := tgt, mask := yes, join := some join, last := u.clk, hold := .none } ∧
      (u.wave w).stack = st ∧ (u.wave w).pend = x.pend ∧ (u.wave w).ended = x.ended) ∧
    (yes ≠ 0 → no ≠ 0 → 16 < st.length → exec i s = .next (s.raiseIssue w pcb f (Trap.of 12 (activeAt s w pcb f)))))

/-- R78: A JOIN at another address than the join of its path acts as NOP; one at it is not eligible while a live sibling
stands elsewhere, and merges the path with a sibling of the same join into PCA, taking the outer join from a matching
frame, and refills the slots. -/
def Obligations.JoinResult : Prop :=
  ∀ (s : State) (w : Nat) (pcb : Bool) (x : Wave) (f : Sched), Turn s w pcb x → activeAt s w pcb f ≠ 0 →
    let h := x.path pcb
    let o := x.path (!pcb)
    (h.join ≠ some h.pc → ∃ u, exec (.join f) s = .next u ∧ Fixed s u w pcb x f 0 ∧ NoResult s u w x) ∧
    (h.join = some h.pc → o.live = true → o.standing ≠ h.pc → ∀ word, s.eligible w pcb x (rawOf word) (.join f) = false) ∧
    (h.join = some h.pc → ∃ u, exec (.join f) s = .next u ∧ Issued s u w x f ∧ Counted s u w x f (some 0) ∧ NoResult s u w x ∧
      (u.wave w).pend = x.pend ∧
      let top := match x.stack with
        | .frame jc outer :: rest => if jc = h.pc then some (outer, rest) else none
        | _ => none
      let y := Wave.refill { x with
        pca := { live := true, pc := h.pc + 12, mask := if o.live = true ∧ o.join = h.join then h.mask ||| o.mask else h.mask
                 join := top.map (·.1), last := u.clk, hold := .none }
        pcb := Path.dead, stack := (top.map (·.2)).getD x.stack }
      (u.wave w).pca = y.pca ∧ (u.wave w).pcb = y.pcb ∧ (u.wave w).stack = y.stack ∧ (u.wave w).ended = y.ended)

/-- R79, R80: EXIT removes the active lanes from its path; a path with none left stops being live and the slots are
refilled; a wave that has ended lowers the targets of the barriers of its block. No register, byte or access changes. -/
def Obligations.ExitResult : Prop :=
  ∀ (s : State) (w : Nat) (pcb : Bool) (x : Wave) (f : Sched), Turn s w pcb x → activeAt s w pcb f ≠ 0 →
    let h := x.path pcb
    let m := h.mask &&& ~~~(activeAt s w pcb f)
    let now := s.issueTime w f
    let y := if m = 0 then Wave.refill (x.setPath pcb { h with mask := 0, live := false, last := now, since := now })
      else x.setPath pcb { h with mask := m, pc := h.pc + 12, last := now, since := now }
    ∃ t, Issued s t w x f ∧ Counted s t w x f (some 0) ∧ NoResult s t w x ∧ (t.wave w).pend = x.pend ∧
      (t.wave w).pca = y.pca ∧ (t.wave w).pcb = y.pcb ∧ (t.wave w).stack = y.stack ∧ (t.wave w).ended = y.ended ∧
      exec (.exit f) s = .next (if y.ended then t.completeBars x.block else t)

/-- R79: After a refill the top record can be popped into no slot: no record lies above two dead slots, and a PATH on
top has another join than the one live slot; the wave has ended exactly when no slot is live and no record is left;
records are only ever popped from the top, and two live slots stay as they are. -/
def Obligations.RefillRules : Prop :=
  ∀ x : Wave,
    let y := x.refill
    (∀ p st, y.stack = .path p :: st → (y.pca.live = true ∨ y.pcb.live = true) ∧
      (y.pca.live = false → p.join ≠ y.pcb.join) ∧ (y.pcb.live = false → p.join ≠ y.pca.join)) ∧
    (∀ jc outer st, y.stack = .frame jc outer :: st → y.pca.live = true ∨ y.pcb.live = true) ∧
    (y.ended = true ↔ x.ended = true ∨ (y.pca.live = false ∧ y.pcb.live = false ∧ y.stack = [])) ∧
    (∃ gone, x.stack = gone ++ y.stack) ∧ ((x.pca.live = true ∧ x.pcb.live = true) → y = x)

/-- R97, R100, R101, R102, R103, R105, R107, R110, R129, R135, R137, R219: Each load, store, pin, write-back, reduction,
atomic, watch, ENQ, SPAWN and VIEW.DECL raises the alignment trap of its form, or the trap of the first failed check of
its ranges, and otherwise enters the table of unperformed accesses with the ranges, data and operation its form gives;
until it performs no register and no byte changes. VIEW.DECL checks its own addresses, whatever view holds them, and
cuts its range where its arena ends. The mask of every active lane, with the address reported, for a uniform instruction
is the reading of log entry 24, and for a misaligned pitch of LD.T or ST.PAIR the choice of log entry 76. -/
def Obligations.AccessIssue : Prop :=
  ∀ (s : State) (w : Nat) (pcb : Bool) (x : Wave) (f : Sched) (off : BitVec 20) (ty : BitVec 4) (cnt n : BitVec 2) (sc op : BitVec 3)
    (fmt : BitVec 5) (pn : BitVec 3) (d a b : Reg), Turn s w pcb x → activeAt s w pcb f ≠ 0 →
    let r := s.atIssue w f
    let act := activeAt s w pcb f
    (∀ e ∈ loadStoreForms r (r.wave w) act f off ty cnt d a b ++ otherForms r (r.wave w) act f off ty sc op n d a b,
      (∀ va, e.bad = some va → exec e.instr s = .next (s.raiseIssue w pcb f { Trap.of 3 act with va := va % 2 ^ 56 })) ∧
      (e.bad = none → ∀ t, s.checkAll x e.align e.rd e.wr (e.ranges ++ e.second) = .error t →
        exec e.instr s = .next (s.raiseIssue w pcb f (if e.uni then { t with mask := act } else t))) ∧
      (e.bad = none → ∀ cs, s.checkAll x e.align e.rd e.wr (e.ranges ++ e.second) = .ok cs →
        ∃ u, exec e.instr s = .next u ∧
          Pends s u w pcb x f e.op act e.uni (e.cut (cs.take e.ranges.length)) (cs.drop e.ranges.length) e.pops)) ∧
    (let e := r.ea (r.wave w) a off 0
     let len := (readAt s w f b).toNat
     let n := match r.cover x.ctx e with
       | some (_, k) => min len (k.base + k.size - e)
       | none => len
     let good := len % 128 = 0 ∧ 128 ≤ len ∧ len ≤ 2 ^ 30
     (¬good → exec (.viewDecl f off fmt op pn d a b) s = .next (s.raiseIssue w pcb f { Trap.of 3 act with va := e % 2 ^ 56 })) ∧
     (good → ∀ c, r.checkRange x.who e n 128 true true = .error c →
       exec (.viewDecl f off fmt op pn d a b) s = .next (s.raiseIssue w pcb f { Trap.of c act with va := e % 2 ^ 56 })) ∧
     (good → ∀ k g, r.checkRange x.who e n 128 true true = .ok (k, g) → ∃ u, exec (.viewDecl f off fmt op pn d a b) s = .next u ∧
       Pends s u w pcb x f (.viewDecl fmt.toNat op.toNat pn.toNat d (readAt s w f b)) act true
         [{ mkReq 0 0 e n 0 with win := k, gen := g }] [] []))

/-- R114, R138, R163: An arena instruction that R114 forbids raises ARENA_PERM; otherwise each of these enters the table
of unperformed accesses and takes effect where it performs. That ARENA.SEAL of the SCRATCH arena of a launch is among
those forbidden is the reading of log entry 71. -/
def Obligations.FreeIssue : Prop :=
  ∀ (s : State) (w : Nat) (pcb : Bool) (x : Wave) (f : Sched) (off : BitVec 20) (pn : BitVec 3) (aln sel : BitVec 4) (ch : BitVec 2)
    (d a b : Reg), Turn s w pcb x → activeAt s w pcb f ≠ 0 →
    let r := s.atIssue w f
    let act := activeAt s w pcb f
    ∀ e ∈ freeForms r (r.wave w) act f off pn aln sel ch d a b,
      (∀ t, e.trap = some t → exec e.instr s = .next (s.raiseIssue w pcb f t)) ∧
      (e.trap = none → ∃ u, exec e.instr s = .next u ∧ Pends s u w pcb x f e.op act true [] [] [])

/-- R36, R38, R178, R179, R181, R182: On a control core SYSRD, SYSWR, TINV, SLOTSET and SNAP enter the table of
unperformed accesses once their alignment and range checks pass; on a compute core each of them, RFT and HALT raises
ILLEGAL with detail 8. That SNAP with b outside 1 to 256 enters the table without a check is the reading of log entry
38. -/
def Obligations.SystemIssue : Prop :=
  (∀ (s : State) (w : Nat) (pcb : Bool) (x : Wave) (f : Sched) (reg inst : BitVec 16) (ctx : BitVec 6) (all : Bool) (g : BitVec 2)
      (d a b : Reg), Turn s w pcb x → x.super = true → activeAt s w pcb f ≠ 0 →
      let r := s.atIssue w f
      let act := activeAt s w pcb f
      let va := readAt s w f a
      let n := readAt s w f b
      let range := [mkReq 0 0 va.toNat (8 * n.toNat + 32) 0]
      (∀ e ∈ systemForms r (r.wave w) act f reg inst ctx all g d a b,
        (∀ t, e.trap = some t → exec e.instr s = .next (s.raiseIssue w pcb f t)) ∧
        (e.trap = none → ∃ u, exec e.instr s = .next u ∧ Pends s u w pcb x f e.op act true [] [] [])) ∧
      (va.toNat % 8 ≠ 0 → exec (.snap f d a b) s = .next (s.raiseIssue w pcb f { Trap.of 3 act with va := va.toNat % 2 ^ 56 })) ∧
      (va.toNat % 8 = 0 → (n.toNat < 1 ∨ 256 < n.toNat) →
        ∃ u, exec (.snap f d a b) s = .next u ∧ Pends s u w pcb x f (.snap d va n) act true [] [] []) ∧
      (va.toNat % 8 = 0 → 1 ≤ n.toNat → n.toNat ≤ 256 →
        (∀ t, s.checkAll x 8 true false range = .error t → exec (.snap f d a b) s = .next (s.raiseIssue w pcb f { t with mask := act })) ∧
        (∀ cs, s.checkAll x 8 true false range = .ok cs →
          ∃ u, exec (.snap f d a b) s = .next u ∧ Pends s u w pcb x f (.snap d va n) act true ((cs.take 1).flatMap splitReq) (cs.drop 1) []))) ∧
  (∀ (s : State) (w : Nat) (pcb : Bool) (x : Wave) (f : Sched) (reg inst : BitVec 16) (ctx : BitVec 6) (all : Bool) (g : BitVec 2)
      (mask : BitVec 4) (limit : BitVec 24) (d a b : Reg), Turn s w pcb x → x.super = false →
      ∀ i ∈ [Instr.rft f, .sysrd f reg inst d, .syswr f reg inst a, .tinv f ctx all a b, .halt f mask limit d, .snap f d a b, .slotset f g d a],
        exec i s = .next (s.raiseIssue w pcb f { Trap.of 1 (x.path pcb).mask with detail := 8 }))

/-- R141, R142, R143, R164: An engine command issued by a wave of its role is queued for its engine with the operands
read at issue, changing no register and no byte; from a wave of another role it raises ROLE. -/
def Obligations.CommandIssue : Prop :=
  ∀ (s : State) (w : Nat) (pcb : Bool) (x : Wave) (f : Sched) (k : BitVec 9) (z exp clr : Bool) (ch cm1 sel : BitVec 2) (fmt : BitVec 5)
    (op : BitVec 3) (d a b : Reg), Turn s w pcb x → activeAt s w pcb f ≠ 0 →
    ∀ e ∈ commandForms f k z exp clr ch cm1 sel fmt op d a b,
      (x.role = e.2.1 → ∃ u, Underway s u w pcb x f ∧
        exec e.1 s = .next { u with cmds := kset s.cmds s.uid (newCmd s w pcb x f e.2.2.1 e.2.2.2.1 e.2.2.2.2.1 e.2.2.2.2.2) }) ∧
      (x.role ≠ e.2.1 → exec e.1 s = .next (s.raiseIssue w pcb f (Trap.of 2 (activeAt s w pcb f))))

/-- R134, R139, R180: HALT on a control core, TEND and YIELD hold the issuing path until their condition, and YIELD.HDL
raises what its check of the hurdle finds; no register, byte or access changes. -/
def Obligations.HoldingInstructions : Prop :=
  ∀ (s : State) (w : Nat) (pcb : Bool) (x : Wave) (f : Sched) (mask : BitVec 4) (limit : BitVec 24) (n : BitVec 4) (k : BitVec 6) (d a b : Reg),
    Turn s w pcb x → activeAt s w pcb f ≠ 0 →
    ∃ u, Underway s u w pcb x f ∧
      (x.super = true → exec (.halt f mask limit d) s =
        .next (u.withHold w pcb (.halt s.uid mask (some (limit.toNat * 1024)) d))) ∧
      exec (.tend f) s = .next (u.withHold w pcb (.tend s.uid)) ∧
      (∀ kind : BitVec 2, kind ≠ 2 → exec (.yield f kind n k a b) s = .next (u.withHold w pcb (.yield s.uid kind.toNat n.toNat k.toNat 0 false))) ∧
      (let r := s.atIssue w f
       let e := (readAt s w f a).toNat
       match r.hurdleCheck (r.wave w) true false e with
       | some c => exec (.yield f 2 n k a b) s = .next (s.raiseIssue w pcb f { Trap.of c (activeAt s w pcb f) with va := e % 2 ^ 56 })
       | none => exec (.yield f 2 n k a b) s = .next (u.withHold w pcb (.yield s.uid 2 n.toNat k.toNat e ((readAt s w f b).getLsbD 0))))

/-- R122, R237: WAITC and WAITC.TEST hold their path while the counter is above the bound; then WAITC goes on, or raises
ENGINE_FAULT with the reason of the counter when its error bit is set, and WAITC.TEST writes the predicate by the error
bit and clears the error. That the time joined is the largest of the completions counted is the reading of log entry 29.
-/
def Obligations.CounterWaits : Prop :=
  ∀ (s : State) (w : Nat) (pcb : Bool) (x : Wave) (f : Sched) (n : BitVec 4) (k : BitVec 6) (d : Reg),
    Turn s w pcb x → activeAt s w pcb f ≠ 0 → x.park = none → x.stopped = false →
    let act := activeAt s w pcb f
    ∃ u, Underway s u w pcb x f ∧
      let c := (u.wave w).ctr n.toNat
      let held (dst : Option Reg) := u.withHold w pcb (.waitc s.uid n.toNat k.toNat dst act)
      (k.toNat < c.count → exec (.waitc f n k) s = .next (held none) ∧ exec (.waitcTest f n k d) s = .next (held (some d))) ∧
      (c.count ≤ k.toNat → c.err = false → exec (.waitc f n k) s = .next ((held none).release w pcb s.uid c.ept)) ∧
      (c.count ≤ k.toNat → c.err = true → exec (.waitc f n k) s =
        .next (((held none).standAt w pcb s.uid).raise w pcb { Trap.of 15 act with detail := c.reason, ctr := n.toNat, info := c.info })) ∧
      (c.count ≤ k.toNat → ∃ t : State, exec (.waitcTest f n k d) s = .next (t.release w pcb s.uid c.ept) ∧
        WritesP (u.wave w) (t.wave w) d.toNat (if c.err then 0 else 0xFFFFFFFF) ∧
        (t.wave w).ctr n.toNat = { c with err := false, reason := 0, info := 0 } ∧
        (∀ m, m ≠ n.toNat → (t.wave w).ctr m = (u.wave w).ctr m) ∧
        (t.wave w).s = x.s ∧ (t.wave w).v = x.v ∧ (t.wave w).pend = x.pend ∧ (∀ v, v ≠ w → kget t.waves v = kget s.waves v) ∧
        { t with waves := u.waves } = u)

/-- R130: WAITW writes to D the watches of its mask that are ready (fired or not armed), turns the fired ones off, and
goes on; with none ready it holds its path, but for a zero mask with a zero limit. -/
def Obligations.WatchWaits : Prop :=
  ∀ (s : State) (w : Nat) (pcb : Bool) (x : Wave) (f : Sched) (mask : BitVec 4) (limit : BitVec 24) (d : Reg),
    Turn s w pcb x → activeAt s w pcb f ≠ 0 → x.park = none → x.stopped = false →
    let ready := x.readyWatches mask
    ∃ u, Underway s u w pcb x f ∧
      let held := u.withHold w pcb (.waitw s.uid mask (if limit = 0 then none else some (limit.toNat * 1024)) d)
      (∀ n < 4, ready.getLsbD n = (mask.getLsbD n && ((x.watch n).fired || !(x.watch n).armed))) ∧
      (ready = 0 → ¬(mask = 0 ∧ limit = 0) → exec (.waitw f mask limit d) s = .next held) ∧
      (ready ≠ 0 ∨ (mask = 0 ∧ limit = 0) → ∃ t : State, exec (.waitw f mask limit d) s = .next (t.release w pcb s.uid 0) ∧
        WritesS x (t.wave w) d (ready.setWidth 64) ∧ (t.wave w).v = x.v ∧ (t.wave w).p = x.p ∧ (t.wave w).pend = x.pend ∧
        (∀ n, (t.wave w).watch n = if ready.getLsbD n = true ∧ (x.watch n).fired = true then Watch.off else x.watch n) ∧
        (∀ v, v ≠ w → kget t.waves v = kget s.waves v) ∧ { t with waves := u.waves } = u)

/-- R123, R124: A BAR counts one arrival, the first of a phase fixing n; while fewer than the target have arrived its
path is held, and the arrival that reaches the target begins the next phase and releases every path held at the phase.
That it brings the released waves to the time of the latest of them is the reading of log entry 28. -/
def Obligations.BarrierArrival : Prop :=
  ∀ (s : State) (w : Nat) (pcb : Bool) (x : Wave) (f : Sched) (bn : BitVec 2) (n : BitVec 5) (b : Block),
    Turn s w pcb x → activeAt s w pcb f ≠ 0 → x.park = none → x.stopped = false → kget s.blocks x.block = some b →
    let r := b.bar bn.toNat
    let r' : Barrier := { r with arrivals := r.arrivals + 1, n := if r.arrivals = 0 then n.toNat else r.n }
    let target := if r'.n = 0 then (s.liveWaves x.block).length else r'.n
    ∃ u, Underway s u w pcb x f ∧
      let held := u.withHold w pcb (.bar s.uid bn.toNat r.phase)
      (r'.arrivals < target → exec (.bar f bn n) s = .next (held.modBlock x.block fun k => k.setBar bn.toNat r')) ∧
      (target ≤ r'.arrivals → ∃ t, exec (.bar f bn n) s = .next t ∧
        (∃ k, kget t.blocks x.block = some k ∧ k.bar bn.toNat = { phase := r.phase + 1, arrivals := 0, n := 0 } ∧
          (∀ m, m ≠ bn.toNat → k.bar m = b.bar m)) ∧
        (∀ v ∈ blockWaves x.block b.nwaves, ∀ q, ((held.wave v).path q).atBar bn.toNat r.phase = true →
          ((t.wave v).path q).hold = .none ∧
          ∀ v' ∈ blockWaves x.block b.nwaves, ∀ q', ((held.wave v').path q').atBar bn.toNat r.phase = true → (held.wave v').pts ≤ (t.wave v).pts) ∧
        (∀ v q, ((held.wave v).path q).atBar bn.toNat r.phase = false → (t.wave v).path q = (held.wave v).path q))

/-- R126, R190: A hurdle instruction raises what the check of its hurdle finds; otherwise it becomes an access, HDL.INIT
taking a tracker entry, which it notes, where its hurdle has none, and HDL.WAIT holding its path. The order of the
checks is the reading of log entry 65; that the entry is taken at the issue, and that both spellings of HDL.INIT do the
same, of log entry 37. -/
def Obligations.HurdleIssue : Prop :=
  ∀ (s : State) (w : Nat) (pcb : Bool) (x : Wave) (f : Sched) (off : BitVec 20) (d a b : Reg), Turn s w pcb x → activeAt s w pcb f ≠ 0 →
    let r := s.atIssue w f
    let act := activeAt s w pcb f
    let e := r.ea (r.wave w) a off 0
    let v := readAt s w f b
    let rows : List (Instr × Bool × AccOp) := [(.hdlInit f off a b, true, .hdlInit v false), (.hdlInitRelease f off a b, true, .hdlInit v false),
      (.hdlExpect f off a b, false, .hdlExpect v), (.hdlArrive f off a b, false, .hdlArrive v),
      (.hdlWait f off a b, true, .hdlWait (v.getLsbD 0)), (.hdlTest f off d a b, true, .hdlTest d (v.getLsbD 0))]
    ∀ i ∈ rows,
      (∀ c, r.hurdleCheck (r.wave w) i.2.1 true e = some c →
        exec i.1 s = .next (s.raiseIssue w pcb f { Trap.of c act with va := e % 2 ^ 56 })) ∧
      (∀ cs, r.hurdleCheck (r.wave w) i.2.1 true e = none → s.checkAll x 16 true true [mkReq 0 0 e 16 0] = .ok cs →
        ∃ u, Pends s u w pcb x f i.2.2 act true (cs.take 1) (cs.drop 1) [] ∧ exec i.1 s = .next (match i.2.2 with
          | .hdlInit _ _ => if v.getLsbD 31 ∨ u.hasTracker x.block e then u else (u.takeTracker x.block e).modWave w fun y =>
              { y with pend := y.pend.map fun q => if q.uid = s.uid then q.setTook true else q }
          | .hdlWait p => u.modWave w fun y => y.holdBy pcb s.uid (.hdlWait s.uid e p false none act)
          | _ => u))

/-- R133: QBIND changes the binding of the one port it names, for the whole block, and nothing else: no entry, register,
byte or other block. -/
def Obligations.QbindResult : Prop :=
  ∀ (s : State) (w : Nat) (pcb : Bool) (x : Wave) (f : Sched) (fifo : BitVec 3) (on : Bool) (d : Reg), Turn s w pcb x → activeAt s w pcb f ≠ 0 →
    ∃ u, Fixed s u w pcb x f 0 ∧ NoResult s u w x ∧ ∃ t, exec (.qbind f fifo on d) s = .next t ∧ { t with blocks := u.blocks } = u ∧
      (∀ b, b ≠ x.block → kget t.blocks b = kget s.blocks b) ∧
      ∀ b, kget u.blocks x.block = some b → ∃ b', kget t.blocks x.block = some b' ∧ { b' with binds := b.binds } = b ∧
        ∀ p, kget b'.binds p = if p = d.toNat - 240 then (if on then some fifo.toNat else none) else kget b.binds p

/-- R176, R184, R307: TRAP on a compute core parks its wave at the instruction and writes a record to the fault queue of
the die of the core, with n in INFO; no register and no byte of other memory changes. That words 6 and 7 hold the two
operands is the choice of log entry 16. -/
def Obligations.ServiceTrap : Prop :=
  ∀ (s : State) (w : Nat) (pcb : Bool) (x : Wave) (f : Sched) (n : BitVec 16) (d a b : Reg), Turn s w pcb x → activeAt s w pcb f ≠ 0 →
    x.super = false →
    ∃ u, Issued s u w x f ∧ Counted s u w x f none ∧ NoResult s u w x ∧ (u.wave w).pend = x.pend ∧
      (u.wave w).path pcb = { x.path pcb with last := u.clk, since := u.clk } ∧
      let r : RecInfo := { u.waveRecord x pcb with recov := true, primary := true, mask := activeAt s w pcb f, info := n.toNat }
      let ws := (recordWords r).take 6 ++ [readAt s w f a, readAt s w f b]
      let p : Park := { uid := s.uid, code := 0, va := 0, mask := activeAt s w pcb f, pcb := pcb, service := some d, info := n.toNat
                        words := ws, die := 0, frec := 0 }
      exec (.trap f n d a b) s = .next ((u.modWave w fun y => { y with park := some p }).writeRecord (dieOf x.core) ws (some (.wave w)))

/-- R176, R177, R293: On a control core a trap stops the core and raises vector 0 when it is already in a trap; else it
saves the pc to TEPC (the next instruction for TRAP and BRK), sets TCAUSE and TVA and goes to TVEC. For TRAP and BRK
this is the instruction, for a fault the shared operation of raising it. Zero for n at a fault and for TVA at TRAP and
BRK is the reading of log entry 25; the low 56 bits of TVEC, whatever they are, the choice of log entry 70. -/
def Obligations.ControlCoreTraps : Prop :=
  (∀ (s : State) (w : Nat) (pcb : Bool) (x : Wave) (f : Sched) (n : BitVec 16) (d a b : Reg), Turn s w pcb x → activeAt s w pcb f ≠ 0 →
      x.super = true →
      let c := w % 16
      let r := s.ctlRegs c
      ∀ e ∈ [(Instr.trap f n d a b, 0), (.brk f n, 18)],
        ∃ u, Issued s u w x f ∧ Counted s u w x f (some 0) ∧ NoResult s u w x ∧ (u.wave w).pend = x.pend ∧
        (u.wave w).path pcb = { x.path pcb with last := u.clk, since := u.clk } ∧
        (r.tcause.getLsbD 31 = true → exec e.1 s = .next { u with
          ctl := dset CtlRegs.zero s.ctl c { r with stopped := true }, irqs := s.irqs ++ [0] }) ∧
        (r.tcause.getLsbD 31 = false → exec e.1 s = .next (State.modWave { u with
          ctl := dset CtlRegs.zero s.ctl c { r with
            tepc := ((x.path pcb).pc + 12).setWidth 64, tcause := BitVec.ofNat 64 (2 ^ 31 + e.2 * 2 ^ 16 + n.toNat), tva := 0 } } w fun y =>
          y.setPath pcb { y.path pcb with pc := r.tvec.setWidth 56, hold := .none }))) ∧
  (∀ (s : State) (w : Nat) (pcb : Bool) (x : Wave) (t : Trap), kget s.waves w = some x → x.super = true → t.code < 256 → t.va < 2 ^ 56 →
      let c := w % 16
      let r := s.ctlRegs c
      (r.tcause.getLsbD 31 = true → s.raise w pcb t = { s with ctl := dset CtlRegs.zero s.ctl c { r with stopped := true }, irqs := s.irqs ++ [0] }) ∧
      (r.tcause.getLsbD 31 = false → ∃ y : State, s.raise w pcb t = y ∧ { y with waves := s.waves, ctl := s.ctl } = s ∧
        y.ctlRegs c = { r with tepc := (x.path pcb).pc.setWidth 64, tcause := BitVec.ofNat 64 (2 ^ 31 + t.code * 2 ^ 16), tva := BitVec.ofNat 64 t.va } ∧
        (∀ k, k ≠ c → y.ctlRegs k = s.ctlRegs k) ∧ (∀ v, v ≠ w → kget y.waves v = kget s.waves v) ∧
        kget y.waves w = some (x.setPath pcb { x.path pcb with pc := r.tvec.setWidth 56, hold := .none })))

/-- R177, R293: RFT on a control core clears INTRAP, goes to TEPC, and changes no other control register, register or
byte. The low 56 bits of TEPC, whatever they are, are the choice of log entry 70. -/
def Obligations.ReturnFromTrap : Prop :=
  ∀ (s : State) (w : Nat) (pcb : Bool) (x : Wave) (f : Sched), Turn s w pcb x → activeAt s w pcb f ≠ 0 → x.super = true →
    let c := w % 16
    let r := s.ctlRegs c
    ∃ u, Goes s u w pcb x f 0 (r.tepc.setWidth 56) ∧ NoResult s u w x ∧ ∃ t, exec (.rft f) s = .next t ∧ { t with ctl := s.ctl } = u ∧
      t.ctlRegs c = { r with tcause := r.tcause &&& ~~~(0x80000000#64) } ∧ ∀ k, k ≠ c → t.ctlRegs k = s.ctlRegs k

/-- R177, R185, R197, R318: BRK on a compute core, and every other non-recoverable trap, requests a halt of the block:
the first request makes its wave the primary, notes the form of TRAPMODE, takes the commands of the block that have not
started off their queues and stops the parked waves; a further one only stops its own wave, whose first record is then
no longer primary. -/
def Obligations.HaltRequest : Prop :=
  ∀ (s : State) (w : Nat) (pcb : Bool) (x : Wave) (b : Block) (t : Trap), kget s.waves w = some x → kget s.blocks x.block = some b →
    (∀ (f : Sched) (n : BitVec 16), Turn s w pcb x → activeAt s w pcb f ≠ 0 → x.super = false →
      exec (.brk f n) s = .next (State.requestHalt { s with clk := s.issueTime w f } w pcb
        { code := 18, detail := 0, ctr := 0, mask := activeAt s w pcb f, va := 0, info := n.toNat, half := 0 })) ∧
    (b.stopping = true → s.requestHalt w pcb t = (s.setWave w { x with stopped := true, lastPcb := pcb, park := none, trap := some t }).modBlock x.block
      fun k => { k with primary := if k.primary = some w then none else k.primary }) ∧
    (b.stopping = false → let u := s.requestHalt w pcb t
      { u with waves := s.waves, blocks := s.blocks, cmds := s.cmds, free := s.free } = s ∧
      kget u.blocks x.block = some { b with stopping := true, primary := some w, halt := some t, haltClk := s.clk, haltDraw := s.free
                                            haltForm := (s.sysReg 0x0201 x.core).getLsbD 0 } ∧
      (∀ k, k ≠ x.block → kget u.blocks k = kget s.blocks k) ∧
      u.cmds = s.cmds.filter (fun e => e.2.started || e.2.block != x.block) ∧
      (u.wave w).stopped = true ∧ (u.wave w).skid = 0 ∧ (u.wave w).lastPcb = pcb ∧ (u.wave w).park = none ∧ (u.wave w).trap = some t ∧
      (∀ v ∈ blockWaves x.block b.nwaves, v ≠ w → (s.wave v).park ≠ none → (u.wave v).stopped = true ∧ (u.wave v).skid = 0 ∧ (u.wave v).park = none) ∧
      (∀ v, v ≠ w → (∀ e ∈ s.cmds, e.2.block = x.block → e.2.started = false → e.2.wave ≠ v) →
        (v ∉ blockWaves x.block b.nwaves ∨ (s.wave v).park = none) → kget u.waves v = kget s.waves v))

/-- R107: PREF issues and completes at once; it changes no register and, while no slice is so full that a prefetched
line evicts another, no data of a line that is present and, with sampling off, no byte of memory. That it does nothing
outside its limits is the reading of log entry 31. -/
def Obligations.PrefetchResult : Prop :=
  ∀ (s : State) (w : Nat) (pcb : Bool) (x : Wave) (f : Sched) (off : BitVec 20) (lv : Bool) (a b : Reg),
    Turn s w pcb x → activeAt s w pcb f ≠ 0 →
    let n := (readAt s w f b).toNat
    (¬(1 ≤ n ∧ n ≤ 65536) → ∃ u, exec (.pref f off lv a b) s = .next u ∧ Fixed s u w pcb x f 0 ∧ NoResult s u w x) ∧
    (1 ≤ n → n ≤ 65536 → ∃ u v, exec (.pref f off lv a b) s = .next v ∧ Fixed s u w pcb x f 0 ∧ NoResult s u w x ∧
      { v with trans := u.trans, lines := u.lines, l1 := u.l1, mem := u.mem, poison := u.poison, sampled := u.sampled, sys := u.sys
               sliceBase := u.sliceBase, free := u.free, eps := u.eps, errs := u.errs, flaws := u.flaws } = u ∧
      ((∀ q, (s.lines.filter fun e => e.2.slice == q).length + 513 ≤ sliceLines) →
        (∀ k l, kget s.lines k = some l → ∃ l', kget v.lines k = some l' ∧ l'.data = l.data ∧ l'.dirty = l.dirty) ∧
        ((∀ die, (s.sysReg 0x0120 die).toNat % 2 ^ 32 = 0) → ∀ k, v.byte k = s.byte k)))

/-- R102, R107, R108, R109, R111, R129, R224, R225: A scalar load, a store, a reduction, an atomic and a
compare-and-swap whose line is present at its slice perform at the time R225 gives: the load lands the extended bytes of
the line in its registers and extends the lease, the others write the bytes of the line that they name, a store firing
the watches of the line. WATCH reads and arms its slot; PIN marks the line within the slice's limit, UNPIN clears the
mark, each with its count in D; WBR writes a dirty line back and leaves a clean one. No other line, byte or register
changes. -/
def Obligations.LineAccesses : Prop :=
  ∀ (s : State) (w : Nat) (x : Wave) (a : Acc) (rest : List Acc) (r : Req) (win : Win) (l : Line),
    AtHead s w x a rest → a.reqs = [r] → a.got = [] → r.lane = 0 → r.idx = 0 → r.va % 128 + r.len ≤ 128 →
    let key := lineTag r.win r.gen r.va
    let bytes := (l.data.drop (r.va % 128)).take r.len
    let old : BitVec 128 := BitVec.ofNat 128 (ofBytes bytes)
    let put (v : Nat) : List Byte := overlay l.data (r.va % 128) (toBytes r.len v)
    let ts := max x.pts (l.rts + 1)
    (∀ d sgn, a.op = .loadS d sgn → LineReady s x.ctx r win l false → (∀ c, x.who.cluster = some c → kget s.l1 (l1Key c key) = none) →
      ∃ t, exec (.accessPerform w) s = .next t ∧ Performed s t w x a rest (max x.pts l.wts) ∧ OtherBytes s t key ∧
        (t.wave w).s = (landScalar x d sgn r.len old).s ∧ (t.wave w).v = x.v ∧ (t.wave w).p = x.p ∧ (t.wave w).lfsr = x.lfsr ∧
        ∃ l', kget t.lines key = some l' ∧ l'.data = l.data ∧ l'.dirty = l.dirty ∧
          l'.rts = max l.rts (max x.pts l.wts + attrLease win.attr)) ∧
    (a.op = .store → a.second = [] → LineReady s x.ctx r win l true →
      ∃ t, exec (.accessPerform w) s = .next t ∧ Performed s t w x a rest ts ∧ OtherBytes s t key ∧
        (t.wave w).s = x.s ∧ (t.wave w).v = x.v ∧ (t.wave w).p = x.p ∧ (t.wave w).lfsr = x.lfsr ∧
        (∃ l', kget t.lines key = some l' ∧ l'.data = put r.dat.toNat ∧ l'.dirty = true ∧ l'.wts = ts ∧ l'.rts = ts) ∧
        ∀ n, ((t.wave w).watch n).fired = ((x.watch n).fired || ((x.watch n).armed && (x.watch n).line == key))) ∧
    (∀ ty op sc, sc ≠ 5 → (a.op = .red ty op sc ∨ ∃ d, a.op = .atom ty op sc d true) → LineReady s x.ctx r win l true →
      ∃ t, exec (.accessPerform w) s = .next t ∧ Performed s t w x a rest ts ∧ OtherBytes s t key ∧
        (a.op = .red ty op sc → (t.wave w).s = x.s) ∧
        (∀ d, a.op = .atom ty op sc d true → (t.wave w).s = (landScalar x d (decide (ty = 0)) r.len old).s) ∧
        (t.wave w).v = x.v ∧ (t.wave w).p = x.p ∧ (t.wave w).lfsr = x.lfsr ∧
        ∃ l', kget t.lines key = some l' ∧ l'.data = put (atomNew ty op (ofBytes bytes) r.dat.toNat) ∧ l'.wts = ts ∧ l'.rts = ts) ∧
    (∀ ty sc d, a.op = .cas ty sc d true → sc ≠ 5 → LineReady s x.ctx r win l true →
      ∃ t, exec (.accessPerform w) s = .next t ∧ Performed s t w x a rest ts ∧ OtherBytes s t key ∧
        (t.wave w).s = (landScalar x d (decide (ty = 0)) r.len old).s ∧ (t.wave w).v = x.v ∧ (t.wave w).p = x.p ∧ (t.wave w).lfsr = x.lfsr ∧
        ∃ l', kget t.lines key = some l' ∧
          l'.data = (if ofBytes bytes = r.dat.toNat % 2 ^ (8 * r.len) then put r.alt.toNat else l.data)) ∧
    (∀ n d, a.op = .watch n d → r.len = 8 → LineReady s x.ctx r win l false →
      ∃ t l', exec (.accessPerform w) s = .next t ∧ Performed s t w x a rest (max x.pts l.wts) ∧ OtherBytes s t key ∧
        Lands s t w x [(d, BitVec.ofNat 64 (ofBytes bytes))] none ∧ kget t.lines key = some l' ∧ l'.data = l.data ∧
        ∀ m, (t.wave w).watch m = if m = n then { armed := true, fired := false, line := key } else x.watch m) ∧
    (∀ d len, a.op = .pin d len → LineReady s x.ctx r win l false →
      let now := l.pinned || decide (s.pinCount l.slice < 12288)
      ∃ t, exec (.accessPerform w) s = .next t ∧ Performed s t w x a rest x.pts ∧ { t with waves := s.waves, lines := s.lines } = s ∧
        Lands s t w x [(d, if now then 1 else 0)] none ∧ kget t.lines key = some { l with pinned := now } ∧
        (∀ k, k ≠ key → kget t.lines k = kget s.lines k) ∧ ∀ v, v ≠ w → kget t.waves v = kget s.waves v) ∧
    (∀ d len, a.op = .unpin d len → LineReady s x.ctx r win l false →
      ∃ t, exec (.accessPerform w) s = .next t ∧ Performed s t w x a rest x.pts ∧ { t with waves := s.waves, lines := s.lines } = s ∧
        Lands s t w x [(d, if l.pinned then 1 else 0)] none ∧ kget t.lines key = some { l with pinned := false } ∧
        (∀ k, k ≠ key → kget t.lines k = kget s.lines k) ∧ ∀ v, v ≠ w → kget t.waves v = kget s.waves v) ∧
    (∀ len, a.op = .wbr len → LineReady s x.ctx r win l false → s.deadTag key = false →
      (l.dirty = false → ∃ t, exec (.accessPerform w) s = .next t ∧ Performed s t w x a rest x.pts ∧ Lands s t w x [] none ∧
        { t with waves := s.waves } = s ∧ ∀ v, v ≠ w → kget t.waves v = kget s.waves v) ∧
      (∀ u, l.dirty = true → s.writeBack key = .ok u → ∃ t l', exec (.accessPerform w) s = .next t ∧ Performed s t w x a rest x.pts ∧
        Lands s t w x [] none ∧ { t with waves := u.waves } = u ∧ kget t.lines key = some l' ∧ l'.data = l.data ∧ l'.dirty = false ∧
        (∀ k, (kget t.lines k).map (·.data) = (kget s.lines k).map (·.data)) ∧ ∀ v, v ≠ w → kget t.waves v = kget s.waves v))

/-- R102, R103, R116, R117, R118, R119, R126, R127, R135, R137, R181, R182: A per-lane 32-bit load from SCRATCH writes
to each lane of its ranges the four bytes that stand there and changes no byte; a store writes the bytes of its ranges
in order and no other byte or register; a hurdle instruction changes the 16 bytes of its hurdle, the tracker, or its
path and predicate, as its rule says while no wave waits on the hurdle. Where it performs, an arena instruction gives
its results and changes its arena's descriptor, windows, lines and drop lists alone, or is held or refused; ENQ and
SPAWN append the record, and the child, to the bin of the node; VIEW.DECL appends the view; VIEW.INFO, CPWP and SYSRD
read; TINV drops translations; SNAP answers and freezes; SLOTSET sets the table of the next lap. The waits are those of
R128, the views those of R138, CPWP is that of R163 and TINV that of R179. -/
def Obligations.ScratchAccesses : Prop :=
  (∀ (s : State) (w : Nat) (x : Wave) (a : Acc) (rest : List Acc), AtHead s w x a rest → a.reqs ≠ [] → a.got = [] →
    (∀ r ∈ a.reqs, ScratchReady s x.ctx r) → (∀ sp, (s.sysReg 0x0102 sp).toNat % 8 = 0) →
    (∀ d sgn, a.op = .loadV d 4 sgn false → isV d = true → (∀ r ∈ a.reqs, r.idx = 0 ∧ r.len = 4 ∧ r.lane < 32) →
      ∃ t ts, exec (.accessPerform w) s = .next t ∧ Performed s t w x a rest ts ∧ (∀ k, t.byte k = s.byte k) ∧ (∀ k, (kget t.lines k).map (·.data) = (kget s.lines k).map (·.data)) ∧
        (∀ k, dget 0 (t.wave w).v k = match a.reqs.find? (fun r => r.lane == k % 32) with
          | some r => if k / 32 = d.toNat then BitVec.ofNat 32 (ofBytes (s.bytes (s.scratchByte r.win r.va) 4)) else dget 0 x.v k
          | none => dget 0 x.v k) ∧
        (t.wave w).s = x.s ∧ (t.wave w).p = x.p ∧ (t.wave w).lfsr = x.lfsr) ∧
    (a.op = .store → a.second = [] →
      ∃ t ts, exec (.accessPerform w) s = .next t ∧ Performed s t w x a rest ts ∧ (∀ k, (kget t.lines k).map (·.data) = (kget s.lines k).map (·.data)) ∧
        (∀ k, t.byte k = storedByte s a.reqs k) ∧
        (t.wave w).s = x.s ∧ (t.wave w).v = x.v ∧ (t.wave w).p = x.p ∧ (t.wave w).lfsr = x.lfsr)) ∧
  (∀ (s : State) (w : Nat) (x : Wave) (a : Acc) (rest : List Acc) (r : Req) (b : BitVec 64), AtHead s w x a rest → a.reqs = [r] → a.got = [] →
    ScratchReady s x.ctx r → (∀ sp, (s.sysReg 0x0102 sp).toNat % 8 = 0) → r.len = 16 → (∀ e ∈ s.waves, ∀ p ∈ e.2.paths, p.heldOn r.va = false) →
    (∀ v, ∀ q ∈ (s.wave v).pend, (v = w ∧ q = a) ∨ q.initAt r.va = false) →
    let key := s.scratchByte r.win r.va
    let word := ofBytes (s.bytes key 16)
    let h := hurdleOf word
    let p : Int := h.pend + (b.toNat % 2 ^ 32 : Nat)
    let does (k : State → Prop) := ∃ t ts, exec (.accessPerform w) s = .next t ∧ Performed s t w x a rest ts ∧ x.pts ≤ ts ∧
      (∀ k, (kget t.lines k).map (·.data) = (kget s.lines k).map (·.data)) ∧ k t
    let becomes (v : Nat) := does fun t => Stores s t key 16 v ∧ Lands s t w x [] none ∧ t.blocks = s.blocks
    (∀ took, a.op = .hdlInit b took → b.getLsbD 31 = false → rest.all (·.uid != a.uid) = true →
      let arr := max (b.toNat % 65536) 1
      becomes (b.toNat / 2 ^ 32 * 2 ^ 96 + arr * 2 ^ 48 + arr * 2 ^ 32)) ∧
    (∀ took k, a.op = .hdlInit b took → b.getLsbD 31 = true → s.charging x.ctx r.va = false → kget s.blocks x.block = some k → does fun t =>
      (∀ q, t.byte q = s.byte q) ∧ Lands s t w x [] none ∧ kget t.blocks x.block = some { k with hurdles := k.hurdles.filter (· != r.va) } ∧
      ∀ c, c ≠ x.block → kget t.blocks c = kget s.blocks c) ∧
    (a.op = .hdlExpect b → (0 < h.acnt ∨ 0 < p) →
      becomes (if p ≤ 2147483647 then { h with pend := p } else { h with pend := 2147483647, overrun := true } : Hurdle).toNat) ∧
    (a.op = .hdlArrive b → 0 < h.acnt → p ≤ 2147483647 →
      becomes (if 1 < h.acnt ∨ 0 < p then { h with acnt := h.acnt - 1, pend := p }
        else if h.arr = 0 then { h with phase := !h.phase, overrun := true, acnt := 0, pend := p }
        else { h with phase := !h.phase, acnt := h.arr, pend := p } : Hurdle).toNat) ∧
    (∀ d par, a.op = .hdlTest d par →
      (h.overrun = false → does fun t => (∀ q, t.byte q = s.byte q) ∧ Lands s t w x [] (some (d.toNat, if h.phase = par then 0 else 0xFFFFFFFF))) ∧
      (h.overrun = true → ∃ u : State, exec (.accessPerform w) s = .next (u.raiseAt w a (Trap.of 13 a.mask)) ∧
        { u with ltime := s.ltime, lines := s.lines } = s)) ∧
    (∀ par, a.op = .hdlWait par → h.overrun = false → ∃ t, exec (.accessPerform w) s = .next t ∧ (t.wave w).pend = rest ∧
      (∀ q, t.byte q = s.byte q) ∧ Lands s t w x [] none ∧ (t.wave w).stack.length = x.stack.length ∧
      let limit := if h.tlimit = 0 then none else some (h.tlimit * 1024)
      let hold := if h.phase = par then Hold.hdlWait a.uid r.va par true limit a.mask else .none
      ∀ q, (t.wave w).path q = if heldAsWait (x.path q) a.uid then { x.path q with hold := hold } else x.path q)) ∧
  (∀ (s : State) (w : Nat) (x : Wave) (a : Acc) (rest : List Acc), AtHead s w x a rest →
    let i := Instr.accessPerform w
    (∀ h, arenaHandle a.op = some h → s.arenaOf x.ctx h = none →
      exec i s = .next (s.faultHead w x.pts a [] [] { code := 6, va := 0, mask := a.mask, info := 0 })) ∧
    (∀ h k win, arenaHandle a.op = some h → s.arenaOf x.ctx h = some (k, win) →
      let ts := (s.arenaPoint k x.pts).2
      let does (ts : Nat) (vals : List (Reg × BitVec 64)) (pred : Option (Nat × BitVec 32)) (p : State → Prop) :=
        ∃ t, exec i s = .next t ∧ Performed s t w x a rest ts ∧ Lands s t w x vals pred ∧ p t
      (∀ pn aln d n, a.op = .arenaAlloc pn aln d h n →
        let al := 2 ^ (aln + 7)
        let at_ := (s.bump k + al - 1) / al * al
        let top := at_ + (n.toNat + 127) / 128 * 128
        (win.base + win.size < top → does ts [(d, 0)] (some (pn, 0)) fun t => Quiet s t w ∧ t.mem = s.mem ∧ t.wins = s.wins) ∧
        (top ≤ win.base + win.size → win.base + win.size < 2 ^ 56 → does ts [(d, BitVec.ofNat 64 at_)] (some (pn, 0xFFFFFFFF)) fun t =>
          Quiet s t w ∧ t.bump k = top ∧ t.wins = s.wins)) ∧
      (∀ d q, a.op = .arenaQuota d h q → does ts [(d, BitVec.ofNat 64 (s.charged (winSpace k) (winId k)))] none fun t =>
        Quiet s t w ∧ t.quota (winSpace k) (winId k) = q.toNat % 2 ^ 32 ∧ t.charged (winSpace k) (winId k) = s.charged (winSpace k) (winId k) ∧
        t.wins = s.wins) ∧
      (∀ pn d n attr, a.op = .arenaNew pn d h n attr →
        let base := (s.bump k + 65535) / 65536 * 65536
        let reason := if s.attrBad x k win attr = true ∨ n = 0 ∨ n.toNat % 65536 ≠ 0 then 1 else if win.state = .sealed then 2
          else if s.freeId (winSpace k) = none then 3 else if win.base + win.size < base + n.toNat then 4 else 0
        (reason ≠ 0 → does ts [(d, 0), (d + 1, BitVec.ofNat 64 reason)] (some (pn, 0)) fun t => Quiet s t w ∧ t.mem = s.mem ∧ t.wins = s.wins) ∧
        (∀ id, reason = 0 → s.freeId (winSpace k) = some id → win.base + win.size < 2 ^ 56 →
          let c := winKey x.ctx (winGlobal k) id
          ∃ t v, exec i s = .next t ∧ Performed s t w x a rest ts ∧
            Lands s t w x [(d, winHandle c ((t.desc (winSpace k) id 0).extractLsb' 58 4).toNat), (d + 1, BitVec.ofNat 64 base)] (some (pn, 0xFFFFFFFF)) ∧
            Quiet s t w ∧ t.bump k = base + n.toNat ∧ kget t.wins c = some v ∧ v.state = .live ∧ v.base = base ∧ v.size = n.toNat ∧ v.attr = attr ∧
            v.gen = ((s.desc (winSpace k) id 0).extractLsb' 58 4).toNat ∧ v.parent = (winHandle k win.gen).toNat ∧
            ∀ q, winId q ≠ id → kget t.wins q = kget s.wins q)) ∧
      (a.op = .arenaSeal h →
        let ks := s.subtree nestLimit k
        (s.writersOf w ks = true → exec i s = .next (s.holdHead w a)) ∧
        (∀ u, s.writersOf w ks = false → s.flushLines (fun t => ks.any fun k => tagOf k t) = .ok u →
          ∃ t z, exec i s = .next t ∧ Performed s t w x a rest z ∧ u.arenaTime ks < z ∧ Lands s t w x [] none ∧
            (∀ q, kget t.lines q = kget u.lines q) ∧ (∀ v, v ≠ w → kget t.waves v = kget s.waves v) ∧
            (∀ q v, kget s.wins q = some v → (∃ k' ∈ ks, sameArena q k') → kget t.wins q = some { v with state := .sealed }) ∧
            ∀ q, (∀ k' ∈ ks, ¬sameArena q k') → kget t.wins q = kget s.wins q)) ∧
      (let ks := s.subtree nestLimit k
       let ended (t : State) := ∀ q ∈ ks, ∀ v, kget s.wins q = some v →
         (∀ key l, key < 2 ^ 100 → tagSpace key = winSpace q → tagId key = winId q → tagGen key = v.gen → kget t.lines key ≠ some l) ∧
         ∃ e ∈ t.drops, e.win = winSpace q * 4096 + winId q ∧ e.gen = v.gen ∧ e.left = List.range 128
       let refused := exec i s = .next (s.faultHead w x.pts a [] [] { code := 4, va := 0, mask := a.mask, info := 0 })
       (∀ d, a.op = .arenaReset d h →
         let gen := (win.gen + 1) % 16
         (256 < ks.length → refused) ∧
         (ks.length ≤ 256 → (s.dropListed k gen = true ∨ s.dropRoom ks.length = false) → exec i s = .next (s.holdHead w a)) ∧
         (ks.length ≤ 256 → s.dropListed k gen = false → s.dropRoom ks.length = true →
           ∃ t z, exec i s = .next t ∧ Performed s t w x a rest z ∧ s.arenaTime ks < z ∧ Lands s t w x [(d, winHandle k gen)] none ∧ ended t ∧
             t.bump k = win.base % 2 ^ 56 ∧
             (∀ q v, kget s.wins q = some v → sameArena q k → (∀ k' ∈ ks.drop 1, ¬sameArena q k') → kget t.wins q = some { v with gen := gen }) ∧
             (∀ q v, kget s.wins q = some v → ¬sameArena q k → (∃ k' ∈ ks.drop 1, sameArena q k') → kget t.wins q = some { v with state := .dropped }) ∧
             ∀ q, (∀ k' ∈ ks, ¬sameArena q k') → kget t.wins q = kget s.wins q)) ∧
       (a.op = .arenaDrop h →
         (256 < ks.length → refused) ∧ (ks.length ≤ 256 → s.dropRoom ks.length = false → exec i s = .next (s.holdHead w a)) ∧
         (ks.length ≤ 256 → s.dropRoom ks.length = true →
           ∃ t z, exec i s = .next t ∧ Performed s t w x a rest z ∧ s.arenaTime ks < z ∧ Lands s t w x [] none ∧ ended t ∧
             (∀ q v, kget s.wins q = some v → (∃ k' ∈ ks, sameArena q k') → kget t.wins q = some { v with state := .dropped }) ∧
             ∀ q, (∀ k' ∈ ks, ¬sameArena q k') → kget t.wins q = kget s.wins q)))) ∧
    (∀ sel pn d va, a.op = .arenaInfo sel pn d va →
      let none_ := ∃ t, exec i s = .next t ∧ Performed s t w x a rest x.pts ∧ Lands s t w x [(d, 0)] (some (pn, 0)) ∧ { t with waves := s.waves } = s
      ((inReserved va.toNat = true ∨ s.cover x.ctx va.toNat = none) → none_) ∧
      (∀ k win, inReserved va.toNat = false → s.cover x.ctx va.toNat = some (k, win) →
        let live := win.lost = false ∧ (win.state = .live ∨ win.state = .sealed)
        (¬live → none_) ∧
        (live → ∃ t, exec i s = .next t ∧ Performed s t w x a rest (s.arenaPoint k x.pts).2 ∧
          Lands s t w x [(d, s.infoOf k win sel)] (some (pn, 0xFFFFFFFF)) ∧ Quiet s t w ∧ t.mem = s.mem ∧ t.wins = s.wins))) ∧
    (∀ spawn d h ea n, a.op = .enq spawn d h ea → s.nodeOf x.ctx h = some n → a.got = [] → a.reqs.foldl (fun t r => t + r.len) 0 = n.recSize →
      (n.binCap ≤ n.occupancy → exec i s = .next (s.holdHead w a)) ∧
      (∀ u ts out, n.occupancy < n.binCap → s.performLoad x.who x.pts 0 false a.reqs = .done u ts out [] none →
        let bytes := (List.range (n.recSize / 8)).flatMap fun i => toBytes 8 ((gotAt (gotOf out) i 0).getD 0).toNat
        let binned (t : State) (c : Option Nat) := WritesS (u.wave w) (t.wave w) d (BitVec.ofNat 64 n.nextSeq) ∧
          (t.wave w).pend = (u.wave w).pend.drop 1 ∧ (∀ v, v ≠ w → kget t.waves v = kget u.waves v) ∧
          { t with waves := u.waves, nodes := u.nodes, tasks := u.tasks } = u ∧ (∀ k, k ≠ h.toNat → kget t.nodes k = kget u.nodes k) ∧
          kget t.nodes h.toNat = (kget u.nodes h.toNat).map fun m => { m with nextSeq := m.nextSeq + 1, bin := m.bin ++
            [{ seq := m.nextSeq, bytes := bytes, ts := ts, entered := u.clk / 2, spawn := c, resume := none }] }
        (spawn = false → ∃ t, exec i s = .next t ∧ binned t none ∧ t.tasks = u.tasks) ∧
        (∀ b k, spawn = true → kget s.blocks x.block = some b → kget s.tasks b.task = some k → kget u.tasks b.task = some k → k.views = [] →
          ∃ t, exec i s = .next t ∧ binned t (some u.nextTask) ∧ kget t.tasks b.task = some { k with children := k.children + 1 } ∧
            kget t.tasks u.nextTask = some { node := h.toNat, seq := n.nextSeq, parent := some b.task, ordinal := k.children, children := 0
                                             state := .binned, views := [], block := none, saved := none, merge := none, merged := 0, ts := ts }))) ∧
    (∀ fmt op pn d n r more tid k, a.op = .viewDecl fmt op pn d n → a.reqs = r :: more → s.taskOf x = some (tid, k) →
      let bad := match kget s.wins r.win with
        | some v => v.base + v.size < r.va + n.toNat ∨ attrSync v.attr = true ∨ attrKind v.attr = 3 ∨ winGlobal r.win = true
        | none => True
      let meets := ∃ v ∈ k.views, v.base < r.va + n.toNat ∧ r.va < v.base + v.size
      let fails (c : Nat) := ∃ t, exec i s = .next t ∧ Performed s t w x a rest x.pts ∧ Lands s t w x [(d, BitVec.ofNat 64 c)] (some (pn, 0)) ∧
        { t with waves := s.waves } = s
      (8 ≤ k.views.length → fails 1) ∧ (k.views.length < 8 → meets → fails 2) ∧ (k.views.length < 8 → ¬meets → bad → fails 3) ∧
      (k.views.length < 8 → ¬meets → ¬bad → ∃ t, exec i s = .next t ∧ Performed s t w x a rest x.pts ∧
        Lands s t w x [(d, BitVec.ofNat 64 k.views.length)] (some (pn, 0xFFFFFFFF)) ∧ { t with waves := s.waves, tasks := s.tasks } = s ∧
        (∀ q, q ≠ tid → kget t.tasks q = kget s.tasks q) ∧ kget t.tasks tid = some { k with views := k.views ++
          [{ base := r.va, size := n.toNat, fmt := fmt, op := op, inherited := false, buf := r.va, bufWin := r.win, cursor := 0
             declarer := tid, num := k.views.length }] })) ∧
    (∀ sel d n tid k, a.op = .viewInfo sel d n → s.taskOf x = some (tid, k) →
      ∃ t, exec i s = .next t ∧ Performed s t w x a rest x.pts ∧ { t with waves := s.waves } = s ∧
        Lands s t w x [(d, match k.views[n.toNat]? with
          | some v => [BitVec.ofNat 64 v.base, BitVec.ofNat 64 v.size, BitVec.ofNat 64 (v.fmt + 32 * v.op + (if v.inherited then 256 else 0)),
              BitVec.ofNat 64 v.buf].getD sel (BitVec.ofNat 64 v.cursor)
          | none => 0)] none) ∧
    (∀ ch d, a.op = .cpwp ch d → ∃ t, exec i s = .next t ∧ { t with waves := s.waves } = s ∧
      Performed s t w x a rest (max x.pts (dget 0 s.chPts (4 * x.core + ch))) ∧
      Lands s t w x [(d, BitVec.ofNat 64 (dget 0 s.chStarted (4 * x.core + ch) % 256 * 2 ^ 56 + dget 0 s.chwp (4 * x.core + ch) % 2 ^ 56))] none) ∧
    (∀ reg inst d, a.op = .sysrd reg inst d → reg ∉ [0x0018, 0x0021, 0x020B, 0x0124] → ∃ t, exec i s = .next t ∧ { t with waves := s.waves } = s ∧
      Performed s t w x a rest x.pts ∧ Lands s t w x [(d, s.sysValue (w % 16) reg inst)] none) ∧
    (∀ ctx all va n, a.op = .tinv ctx all va n → ∃ t, exec i s = .next t ∧ Deferred s t w x a rest 0 0 ∧ Lands s t w x [] none ∧
      { t with waves := s.waves, asyncs := s.asyncs, trans := s.trans } = s ∧ t.trans = s.trans.filter fun e =>
        !((all || e.ctx == ctx || e.ctx == 64) && decide (e.base < va.toNat + n.toNat) && decide (va.toNat < e.base + e.size))) ∧
    (∀ d g codes, a.op = .slotset d g codes →
      let cs := (List.range 16).map fun i => (codes.extractLsb' (4 * i) 4).toNat
      let tab := s.slotNext.getD s.slotTab
      let new := tab.take (16 * g) ++ cs ++ tab.drop (16 * g + 16)
      let bad := (∃ c ∈ cs, 5 < c) ∨ (new.filter (· == 0)).length < 16
      (bad → ∃ t, exec i s = .next t ∧ Performed s t w x a rest x.pts ∧ Lands s t w x [(d, 1)] none ∧ { t with waves := s.waves } = s) ∧
      (¬bad → ∃ t, exec i s = .next t ∧ Deferred s t w x a rest 1 d.toNat ∧ Lands s t w x [] none ∧ t.slotNext = some new ∧
        { t with waves := s.waves, asyncs := s.asyncs, slotNext := s.slotNext } = s)) ∧
    (∀ d va n u ts out, a.op = .snap d va n → a.reqs ≠ [] → s.performLoad x.who x.pts 0 false a.reqs = .done u ts out [] none →
      let ws := out.map fun o => BitVec.ofNat 64 o.2
      let named := (ws.take n.toNat).map fun h => u.arenaOf x.ctx h
      let ks := named.filterMap id
      let q := ws.drop n.toNat
      let answers (t v : State) (c : BitVec 64) := WritesS (v.wave w) (t.wave w) d c ∧ (t.wave w).pend = (v.wave w).pend.drop 1
      let refuses (c : BitVec 64) := ∃ t, exec i s = .next t ∧ answers t u c ∧ { t with waves := u.waves } = u
      (u.drainOf x.ctx (q.getD 0 0) (q.getD 1 0) (q.getD 2 0) (q.getD 3 0) = none → refuses 0x8000000000000003) ∧
      (∀ ep tva tlen, u.drainOf x.ctx (q.getD 0 0) (q.getD 1 0) (q.getD 2 0) (q.getD 3 0) = some (ep, tva, tlen) →
        (none ∈ named → refuses 0x8000000000000001) ∧ (none ∉ named → 4 ≤ u.snaps.length → refuses 0x8000000000000002) ∧
        (none ∉ named → u.snaps.length < 4 → (∃ f ∈ u.frozen, ∃ k ∈ ks, f.win = winSpace k.1 * 4096 + winId k.1) → exec i s = .next (u.holdHead w a)) ∧
        (∀ v, none ∉ named → u.snaps.length < 4 → (∀ f ∈ u.frozen, ∀ k ∈ ks, f.win ≠ winSpace k.1 * 4096 + winId k.1) →
          u.flushLines (fun t => ks.any fun k => tagOf k.1 t) = .ok v → ∃ t fs pts, exec i s = .next t ∧
            answers t v (BitVec.ofNat 64 (v.snapNum % 2 ^ 32)) ∧ v.arenaTime (ks.map (·.1)) < pts ∧ t.snapNum = v.snapNum + 1 ∧
            t.snaps = v.snaps ++ [{ num := v.snapNum, ctx := x.ctx, desc := va.toNat + 8 * n.toNat, ep := ep, tva := tva, tlen := tlen, count := 0
                                    err := false, pts := pts }] ∧
            t.frozen = v.frozen ++ fs ∧ (∀ f ∈ fs, f.snap = v.snapNum ∧ f.copy = none) ∧
            ∀ k ∈ ks, ∀ g ∈ v.backedGranules (winSpace k.1 * 4096 + winId k.1) k.2.gen,
              ∃ f ∈ fs, f.win = winSpace k.1 * 4096 + winId k.1 ∧ f.gen = k.2.gen ∧ f.va = g))))

/-- R121, R162, R190, R196, R220, R281, R307: The reply of a deferred fault raises the trap at the access, or on a
compute wave with a recoverable code parks the wave at it; the rewind before it takes the younger accesses and unstarted
commands of the wave away, restores its paths and stack as they stood after the access issued, puts back every S and V
register, every predicate and the LFSR that younger instructions wrote, and gives back the tracker entries that younger
HDL.INITs took. A wave already stopped for a halt is not rewound (log entry 80). The fault of a paused command or merge
writes its record, for which the unit waits. -/
def Obligations.FaultReplies : Prop :=
  ∀ (s : State) (w : Nat) (x : Wave) (a : Acc) (rest : List Acc) (r : Reply), kget s.waves w = some x → w < 2 ^ 32 →
    x.pend = a :: rest → a.reply = some r →
    let t : Trap := { Trap.of r.code r.mask with va := r.va, info := r.info, half := a.half }
    let u := s.rewind w a
    (x.super = true ∨ r.code ∉ [8, 9, 10] → exec (.faultReply w) s = .next (s.raiseAt w a t)) ∧
    (x.super = false → r.code ∈ [8, 9, 10] → exec (.faultReply w) s =
      .next (((if x.stopped then s else u).modWave w fun y => y.setHead { a with reply := none }).parkWave w a.uid a.pcb a.pc t none)) ∧
    (x.super = false → r.code ∈ [8, 9, 10] → ∃ y p, exec (.faultReply w) s = .next y ∧ (y.wave w).park = some p ∧
      p.uid = a.uid ∧ p.code = r.code ∧ p.va = r.va ∧ p.mask = r.mask ∧ p.service = none ∧ (y.wave w).pend.head? = some { a with reply := none }) ∧
    (∀ id < 2 ^ 32, ∀ c q, kget s.cmds id = some c → c.reply = some q → ∃ y n, exec (.faultReply (2 ^ 32 + id)) s = .next y ∧
      y.waves = s.waves ∧ kget y.cmds id = some { c with reply := none, frec := some (dieOf c.core, n) }) ∧
    (∀ id k m q b, kget s.tasks id = some k → k.merge = some m → k.block = some b → m.reply = some q → s.taskAway k = false → q.code ∈ [8, 9, 10] →
      ∃ y f, exec (.faultReply (2 ^ 33 + id)) s = .next y ∧ y.waves = s.waves ∧
        kget y.tasks id = some { k with merge := some { m with reply := none, paused := true, frec := f } }) ∧
    (let y := u.wave w
     let kept := x.pend.filter (fun b => decide (b.uid ≤ a.uid))
     let took := (x.pend.filter fun b => decide (a.uid < b.uid)).filterMap Acc.tookAt
     let bare (z : Wave) : Wave := { z with pend := z.pend.map (·.setTook false) }
     { u with waves := s.waves, cmds := s.cmds, blocks := s.blocks } = s ∧
     (∀ v, v ≠ w → (kget u.waves v).map bare = (kget s.waves v).map bare) ∧
     (took = [] → u.blocks = s.blocks ∧ y.pend = kept ∧ ∀ v, v ≠ w → kget u.waves v = kget s.waves v) ∧
     (∀ va b, took = [va] → kget s.blocks x.block = some b →
       (∀ v ∈ blockWaves x.block b.nwaves, ∀ q ∈ (u.wave v).pend, q.initAt va = false) →
       kget u.blocks x.block = some { b with hurdles := b.hurdles.filter (· != va) } ∧ ∀ k, k ≠ x.block → kget u.blocks k = kget s.blocks k) ∧
     u.cmds = s.cmds.filter (fun e => e.2.started || e.2.wave != w || decide (e.2.uid ≤ a.uid)) ∧
     y.pca = a.ctl.1 ∧ y.pcb = a.ctl.2.1 ∧ y.stack = a.ctl.2.2 ∧ y.ended = false ∧
     y.pend.map (·.setTook false) = kept.map (·.setTook false) ∧
     (∀ n, dget 0 y.s n = ((x.undo.filterMap fun e => match e with
        | (u, .s k old _) => if a.uid < u ∧ k = n then some old else none
        | _ => none).getLast?).getD (dget 0 x.s n)) ∧
     (∀ n, dget 0 y.v n = ((x.undo.filterMap fun e => match e with
        | (u, .v k old _) => if a.uid < u ∧ k = n / 32 then some (old.getD (n % 32) 0) else none
        | _ => none).getLast?).getD (dget 0 x.v n)) ∧
     y.lfsr = ((x.undo.filterMap fun e => match e with
        | (u, .lfsr old) => if a.uid < u then some old else none
        | _ => none).getLast?).getD x.lfsr ∧
     (∀ n < 7, y.pred n = ((x.undo.filterMap fun e => match e with
        | (u, .p k old _) => if a.uid < u ∧ k = n then some old else none
        | _ => none).getLast?).getD (x.pred n)))

/-- R230, R234: The acknowledgement of a cluster for a store to a SYNC line raises the read time of the line, marks the
copy of the cluster held until the store performs, and takes the cluster off the sharers; where a time would overflow,
the base of a slice rises with the times of its lines, and no data changes. A renewal whose line has still the data that
the expired copy had lets the load perform; one that finds another version rewinds the wave to the load, which then
performs with the new data: that no expired copy is consumed before its renewal is the choice of log entry 15. -/
def Obligations.OrderingReplies : Prop :=
  ∀ (s : State) (w : Nat) (x : Wave) (a : Acc) (rest : List Acc), kget s.waves w = some x → x.pend = a :: rest →
    (∀ out gave c, a.acks = some (out, gave) → c ∈ out → ∃ t, exec (.syncPushAck w c) s = .next t ∧
      (t.wave w).pend = { a with acks := some (out.filter (· != c), gave ++ [c]) } :: rest ∧
      { t with waves := s.waves, lines := s.lines, l1 := s.l1, sliceBase := s.sliceBase } = s ∧ (∀ v, v ≠ w → kget t.waves v = kget s.waves v) ∧
      (∀ l ∈ s.locsOf a.reqs, s.isSync l = true → ∀ y, kget s.lines l.key = some y →
        let rts := max y.rts (dget 0 y.sharers c)
        (∃ z, kget t.lines l.key = some z ∧ z.sharers = kdel y.sharers c ∧ y.wts ≤ z.wts ∧ rts ≤ z.rts) ∧
        (t.sliceBase = s.sliceBase → kget t.lines l.key = some { y with rts := rts, sharers := kdel y.sharers c }) ∧
        ∀ z, kget s.l1 (l1Key c l.key) = some z → kget t.l1 (l1Key c l.key) = some { z with held := true }) ∧
      (∀ k, (kget t.lines k).map (fun y => (y.data, y.dirty, y.pinned)) = (kget s.lines k).map (fun y => (y.data, y.dirty, y.pinned))) ∧
      (∀ k, (∀ l ∈ s.locsOf a.reqs, l.key ≠ k) → (kget t.lines k).map (·.sharers) = (kget s.lines k).map (·.sharers) ∧
        (t.sliceBase = s.sliceBase → kget t.lines k = kget s.lines k))) ∧
    (AtHead s w x a rest → (∃ d sgn, a.op = .loadS d sgn) ∨ (∃ d n sgn, a.op = .loadV d n sgn false) → s.renewals x a ≠ [] →
      ((∀ b ∈ s.renewals x a, b = true) → exec (.l1RenewalReply w) s = exec (.accessPerform w) s) ∧
      ((∃ b ∈ s.renewals x a, b = false) → exec (.l1RenewalReply w) s = exec (.accessPerform w) (s.rewind w a))) ∧
    (∀ r win l c y d sgn, AtHead s w x a rest → a.op = .loadS d sgn → a.reqs = [r] → a.got = [] → r.lane = 0 → r.idx = 0 →
      r.va % 128 + r.len ≤ 128 → LineReady s x.ctx r win l false → x.who.cluster = some c →
      kget s.l1 (l1Key c (lineTag r.win r.gen r.va)) = some y → y.held = false → y.rts < x.pts → y.wts = l.wts →
      ∃ t, exec (.l1RenewalReply w) s = .next t ∧ Performed s t w x a rest (max x.pts l.wts) ∧
        (t.wave w).s = (landScalar x d sgn r.len (BitVec.ofNat 128 (ofBytes ((l.data.drop (r.va % 128)).take r.len)))).s ∧
        (t.wave w).v = x.v ∧ (t.wave w).p = x.p ∧ ∀ k, t.byte k = s.byte k)

/-- R28, R143, R144, R150, R151, R155, R170, R173, R174: A command starts only in its turn; MSWAP exchanges the latches
and MQ reads the state of its array at once, MW, MS and MST end with the reason of their failed check or take their
length; a finished command completes in its turn: it leaves its queue and its counter notes its outcome; an
announcement, a time limit and a transport failure end a started command with their reason. -/
def Obligations.EngineEvents : Prop :=
  ∀ (s : State) (id : Nat) (c : Cmd), kget s.cmds id = some c →
    let begun := { c with
      started := true, pts := (s.wave c.wave).pts, gens := (s.wins.filter fun e => winCtx e.1 == c.ctx).map fun e => (e.1, e.2.gen) }
    let arr := s.array c.array
    let ends (t : State) (e i : Nat) := kget t.cmds id = some { begun with finished := true, err := e, info := i, reply := none, frec := none }
    let rest (t : State) := { t with cmds := s.cmds, arrays := s.arrays, waves := s.waves } = s ∧ (∀ k, k ≠ id → kget t.cmds k = kget s.cmds k) ∧
      (∀ v, v ≠ c.wave → kget t.waves v = kget s.waves v)
    (c.started = true ∨ s.cmdTurn c = false → exec (.engineStart id) s = .next s) ∧
    (c.started = false → s.cmdTurn c = true → c.reply = none → c.frec = none → c.err = 0 → c.info = 0 →
      (c.op = .mswap → ∃ t, exec (.engineStart id) s = .next t ∧ rest t ∧ ends t 0 0 ∧ t.waves = s.waves ∧
        (∀ k, t.array k = if k = c.array then { arr with live := arr.shadow, shadow := arr.live } else s.array k)) ∧
      (∀ sel clr d, c.op = .mq sel clr d → (kget s.waves c.wave).isSome = true → ∃ t, exec (.engineStart id) s = .next t ∧ rest t ∧ ends t 0 0 ∧
        WritesS (s.wave c.wave) (t.wave c.wave) d (mqValue arr sel (c.array % 4)) ∧
        (∀ k, t.array k = if k = c.array ∧ clr = true then { arr with tagres := false, poison := false } else s.array k)) ∧
      (∀ sh k, c.op = .mw sh k → ∃ t, exec (.engineStart id) s = .next t ∧ rest t ∧ t.waves = s.waves ∧ t.arrays = s.arrays ∧
        match s.mwCheck begun k with
        | .error e => ends t e 0
        | .ok tile => kget t.cmds id = some { begun with ready := true, total := tile.rows }) ∧
      (∀ tr z, c.op = .stream tr z → ∃ t, exec (.engineStart id) s = .next t ∧ rest t ∧ t.waves = s.waves ∧ t.arrays = s.arrays ∧
        match s.streamCheck begun tr with
        | .error e => ends t e 0
        | .ok (tile, _, _, ns) => kget t.cmds id = some { begun with ready := true, total := tile.rows + 65 + ns.length })) ∧
    (c.finished = false ∨ s.completeTurn c = false → exec (.engineComplete id) s = .next s) ∧
    (c.finished = true → s.completeTurn c = true → ∀ x, kget s.waves c.wave = some x → ∃ t, exec (.engineComplete id) s = .next t ∧
      { t with cmds := s.cmds, waves := s.waves, blocks := s.blocks, mem := s.mem } = s ∧ (s.imageOf x = none → t.mem = s.mem) ∧
      t.blocks = kmod s.blocks c.block (fun b => { b with ept := max b.ept c.pts }) ∧ kget t.cmds id = none ∧ (∀ k, k ≠ id → kget t.cmds k = kget s.cmds k) ∧
      (∀ v, v ≠ c.wave → kget t.waves v = kget s.waves v) ∧
      { t.wave c.wave with ctrs := x.ctrs } = x ∧
      ∀ n, (t.wave c.wave).ctr n = (x.ctr n).mapToks fun k =>
        if k.uid = c.uid then { k with done := true, err := c.err, info := c.info, pts := c.pts } else k) ∧
    (∀ e ∈ [(Instr.collAnnouncement id, c.isColl && c.pos == 0, if s.deadlinePassed c then 12 else 11, 0), (.collTimeLimit id, c.isColl && s.deadlinePassed c, 12, 0),
        (.endpointTimeLimit id, c.isNet && s.deadlinePassed c, 12, 0), (.transportFailure id, c.isColl || c.isNet, 12, 0)],
      exec e.1 s = .next (if c.started && !c.finished && e.2.1 then
        { s with cmds := kset s.cmds id { c with finished := true, err := e.2.2.1, info := e.2.2.2, reply := none, frec := none } } else s)) ∧
    (∀ status : BitVec 16, exec (.nvmeCompletion id status) s = .next (if c.started && !c.finished && status != 0 && (match c.op with
        | .net 2 _ => true
        | _ => false) then
        { s with cmds := kset s.cmds id { c with finished := true, err := 13, info := status.toNat, reply := none, frec := none } } else s)) ∧
    (∀ o, s.vacates.find? (fun v => v.uid == id) = none → s.asyncs.find? (fun o => o.uid == id && o.kind == 0) = some o →
      ∃ t, exec (.asynchronousCompletion id) s = .next t ∧ t.asyncs = s.asyncs.filter (fun p => p.uid != id) ∧
        { t with asyncs := s.asyncs, waves := s.waves } = s ∧
        ∀ n, (t.wave o.wave).ctr n = ((s.wave o.wave).ctr n).mapToks fun k =>
          if k.uid = id then { k with done := true, err := 0, info := 0, pts := 0 } else k)

/-- R178, R293, R298, R304, R321, R325: A write of a system register that performs gives the register the bits its table
keeps and changes no other; the messages, power requests, placement writes, map publications and core resets have their
effect or begin it, completing later; a core reset waits while the drop lists have no room for what it drops. The
model's choice (log entry 40): TVEC, TEPC, TCAUSE and FQRVAL are held whole, reserved bits of the others are dropped,
and CRST of a core of 192 or more resets nothing. -/
def Obligations.RegisterWrites : Prop :=
  ∀ (s : State) (w : Nat) (x : Wave) (a : Acc) (rest : List Acc) (reg inst : Nat) (v : BitVec 64),
    AtHead s w x a rest → a.op = .syswr reg inst v → reg < 65536 → inst < 65536 →
    let c := w % 16
    let done (i : Instr) (p : State → Prop) := ∃ t, exec i s = .next t ∧ Performed s t w x a rest x.pts ∧ p t
    let deferred (i : Instr) (p : State → Prop) := ∃ t, exec i s = .next t ∧ Deferred s t w x a rest 0 0 ∧ p t
    let others (t : State) := ∀ k, k ≠ sysKey reg inst → kget t.sys k = kget s.sys k
    (ownStep reg = false → reg ∉ [0x0001, 0x0002, 0x0003, 0x011B] → s.fqHeld = [] → done (.sysregWrite w) fun t =>
      t.sysReg reg inst = (s.sysStored reg inst v).getD (s.sysReg reg inst) ∧ others t ∧ t.ctl = s.ctl ∧ t.mem = s.mem) ∧
    (s.fqHeld = [] → (reg = 0x0001 → done (.sysregWrite w) fun t => t.ctlRegs c = { s.ctlRegs c with tvec := v }) ∧
      (reg = 0x0002 → done (.sysregWrite w) fun t => t.ctlRegs c = { s.ctlRegs c with tepc := v }) ∧
      (reg = 0x0003 → done (.sysregWrite w) fun t => t.ctlRegs c = { s.ctlRegs c with tcause := v }) ∧
      (reg = 0x011B → done (.sysregWrite w) fun t => t.ctlRegs c = { s.ctlRegs c with fqrval := v })) ∧
    (reg = 0x0020 → done (.icmsg w) fun t => (t.ctlRegs inst).icpend = (s.ctlRegs inst).icpend ||| (1#64 <<< c) ∧
      ∀ k, k ≠ inst → t.ctlRegs k = s.ctlRegs k) ∧
    (reg = 0x0030 → done (.hirq w) fun t => t.irqs = s.irqs ++ [v.toNat % 64] ∧ t.sys = s.sys ∧ t.ctl = s.ctl) ∧
    (reg = 0x0208 → done (.pwrstRequest w) fun t => others t ∧
      t.sysReg reg inst = if v.toNat % 4 = 3 then s.sysReg reg inst else (s.sysReg reg inst &&& 0xC) ||| (v &&& 3)) ∧
    (reg = 0x0207 → v.toNat % 256 < 192 → s.resetRoom (v.toNat % 256) = false → exec (.crst w) s = .next s) ∧
    (reg = 0x0207 → (v.toNat % 256 < 192 → s.blocksOn (v.toNat % 256) = [] ∧ s.resetRoom (v.toNat % 256) = true) → deferred (.crst w) fun t => v.toNat % 256 < 192 →
      kget t.coreReset (v.toNat % 256) = some s.clk ∧ (∀ k, t.byte k =
        if scratchKey (v.toNat % 256) 0 ≤ k ∧ k < scratchKey (v.toNat % 256) 0 + 786432 then unlisted else s.byte k)) ∧
    (reg = 0x0207 → v.toNat % 256 < 192 → s.resetRoom (v.toNat % 256) = true → ∃ t, exec (.crst w) s = .next t ∧ kget t.coreReset (v.toNat % 256) = some s.clk ∧
      ∀ k, scratchKey (v.toNat % 256) 0 ≤ k → k < scratchKey (v.toNat % 256) 0 + 786432 → t.byte k = unlisted) ∧
    (reg = 0x0110 → deferred (.l2hmWrite w) fun t => t.sysReg reg inst =
      if (v.extractLsb' 56 7).toNat % 2 ^ (v.extractLsb' 53 3).toNat = 0 then v &&& 0xFFE000000000007F else s.sysReg reg inst) ∧
    (reg = 0x0103 → v.toNat % 4096 = 0 → deferred (.aminv w) fun t => t.wins = s.wins ∧ t.leaves = s.leaves ∧ t.mem = s.mem) ∧
    (reg = 0x0103 → v.toNat % 4096 ≠ 0 → deferred (.aminv w) fun t => v.getLsbD 57 = false →
      kget t.wins (winKey (v.extractLsb' 58 6).toNat false (v.toNat % 4096)) =
        kget (s.publish (v.extractLsb' 58 6).toNat false (v.toNat % 4096)).wins (winKey (v.extractLsb' 58 6).toNat false (v.toNat % 4096)) ∧
      t.leaves = (s.publish (v.extractLsb' 58 6).toNat false (v.toNat % 4096)).leaves)

/-- R178, R285, R313, R326: A SYSRD of HERR, ICPEND, CLAMPC or SRDROP writes the value to D and clears the register; no
byte and no other register changes. -/
def Obligations.ClearingReads : Prop :=
  ∀ (s : State) (w : Nat) (x : Wave) (a : Acc) (rest : List Acc) (reg inst : Nat) (d : Reg),
    AtHead s w x a rest → a.op = .sysrd reg inst d →
    let c := w % 16
    ∀ e ∈ [(Instr.herrRead w, 0x0018, fun t : State => t.sysReg 0x0018 0 = 0), (.icpendRead w, 0x0021, fun t : State => (t.ctlRegs c).icpend = 0),
        (.clampcRead w, 0x020B, fun t : State => dget 0 t.clamped inst = 0), (.srdropRead w, 0x0124, fun t : State => t.sysReg 0x0124 inst = 0)],
      reg = e.2.1 → ∃ t, exec e.1 s = .next t ∧ Performed s t w x a rest x.pts ∧ WritesS x (t.wave w) d (s.sysValue c reg inst) ∧
        (t.wave w).v = x.v ∧ (t.wave w).p = x.p ∧ t.mem = s.mem ∧ e.2.2 t

/-- R308, R309, R310, R311, R314, R315: FQREPLY frees the record it names. To a parked TRAP it gives the reply value or
all ones, and the wave goes on after it; RESUME lets a parked access or a paused command go on, DECLINE raises the fault
of the access or ends the command with reason 9. A malformed page descriptor or one without a leaf, and a malformed
vacate descriptor, get their STATUS written. A good MIGRATE becomes the page operation under way, a good UNMAP makes its
leaves invalid and drops the lines and translations of its range, and a good vacate marks the blocks of its cores. The
model's choices: the STATUS of an UNMAP of a range with some valid leaf is 0 and one of length 0 is malformed (log entry
39); a vacate descriptor with any of bits 63:32 of its word 3 is malformed (log entry 89). -/
def Obligations.ServiceWrites : Prop :=
  ∀ (s : State) (w : Nat) (x : Wave) (a : Acc) (rest : List Acc) (v : BitVec 64) (inst : Nat), AtHead s w x a rest →
    let status (t : State) (k : Nat) (code : Nat) := t.byte (raKey (k + 24)) = BitVec.ofNat 8 code ∧
      ∀ q, q ≠ raKey (k + 24) → t.byte q = s.byte q
    (∀ f y p d, a.op = .syswr 0x011C inst v → s.recordOf (w % 16) v = some f → f.who = .wave y → y ≠ w → s.awaits (s.wave y) f = some p →
      p.service = some d →
      (∀ e ∈ [(Instr.fqreplyResume w, true, (s.ctlRegs (w % 16)).fqrval), (.fqreplyDecline w, false, BitVec.allOnes 64)],
        replyAction v = some e.2.1 → ∃ t, exec e.1 s = .next t ∧ Performed s t w x a rest x.pts ∧
          t.frecs = s.frecs.filter (fun g => g.die != f.die || g.k != f.k) ∧ (t.wave y).park = none ∧
          ((t.wave y).path p.pcb).pc = ((s.wave y).path p.pcb).pc + 12 ∧ WritesS (s.wave y) (t.wave y) d e.2.2)) ∧
    (let reply (i : Instr) (p : State → Prop) := ∃ t, exec i s = .next t ∧ Performed s t w x a rest x.pts ∧ p t
     let others (f : FaultRec) := s.frecs.filter fun g => g.die != f.die || g.k != f.k
     a.op = .syswr 0x011C inst v →
      (s.recordOf (w % 16) v = none → ∀ e ∈ [(Instr.fqreplyResume w, true), (.fqreplyDecline w, false)], replyAction v = some e.2 →
        reply e.1 fun t => t.frecs = s.frecs) ∧
      (∀ f y p, s.recordOf (w % 16) v = some f → f.who = .wave y → y ≠ w → s.awaits (s.wave y) f = some p → p.service = none →
        (replyAction v = some true → reply (.fqreplyResume w) fun t => t.frecs = others f ∧ t.wave y = { s.wave y with park := none }) ∧
        (replyAction v = some false → exec (.fqreplyDecline w) s = .next ((State.declinePark { s with frecs := others f } y p).finishHead w x.pts))) ∧
      (∀ f k c, s.recordOf (w % 16) v = some f → f.who = .cmd k → kget s.cmds k = some c → c.frec = some (f.die, f.k) →
        (replyAction v = some true → reply (.fqreplyResume w) fun t => t.frecs = others f ∧ kget t.cmds k = some { c with frec := none }) ∧
        (replyAction v = some false → reply (.fqreplyDecline w) fun t => t.frecs = others f ∧
          kget t.cmds k = some { c with finished := true, err := 9, info := f.code, reply := none, frec := none }))) ∧
    (a.op = .syswr 0x0128 inst v → (s.pageDesc v.toNat).bad = true → ∃ t, exec (.sysregWrite w) s = .next t ∧ Deferred s t w x a rest 0 0 ∧ status t v.toNat 1) ∧
    (a.op = .syswr 0x0128 inst v → (s.pageDesc v.toNat).bad = false → (s.pageDesc v.toNat).op = 1 →
      s.leafOf (s.pageDesc v.toNat).ctx (s.pageDesc v.toNat).va = none → ∃ t, exec (.migrate w) s = .next t ∧ Deferred s t w x a rest 0 0 ∧ status t v.toNat 2) ∧
    (a.op = .syswr 0x0128 inst v → (s.pageDesc v.toNat).bad = false → (s.pageDesc v.toNat).op = 2 →
      (∀ i < (s.pageDesc v.toNat).arg / 65536, s.leafOf (s.pageDesc v.toNat).ctx ((s.pageDesc v.toNat).va + 65536 * i) = none) →
      ∃ t, exec (.unmap w) s = .next t ∧ Deferred s t w x a rest 0 0 ∧ status t v.toNat 2) ∧
    (let p := s.pageDesc v.toNat
     let m := s.msetOf p.ctx p.va
     ∀ k, a.op = .syswr 0x0128 inst v → p.bad = false → p.op = 1 → s.leafOf p.ctx p.va = some k →
      let size := pageBytes ((s.word k).extractLsb' 56 2).toNat
      (s.word k).getLsbD 63 = true → (s.word k).extractLsb' 61 2 = 0 → p.va % size = 0 → s.pageOp = none →
      (∀ i < size / 65536, ∀ q, s.leafOf p.ctx (p.va + 65536 * i) = some q → (s.word q).getLsbD 58 = false) →
      (∀ i < size / 65536, ∀ q ∈ s.pieces m (p.arg + i * s.addrStep 0 m), q % 2 ^ 36 < 63000000000 ∧
        (s.word (ownKey q 1)).getLsbD 63 = true ∧ (s.word (ownKey q 1)).getLsbD 62 = false) →
      ∃ t, exec (.migrate w) s = .next t ∧ Deferred s t w x a rest 2 v.toNat ∧ t.mem = s.mem ∧
        t.pageOp = some { uid := a.uid, wave := w, ra := v.toNat, ctx := p.ctx, va := p.va, size := size, newAddr := p.arg, moved := 0, mset := m }) ∧
    (let p := s.pageDesc v.toNat
     let leaf (k : Nat) := ∃ i < p.arg / 65536, s.leafOf p.ctx (p.va + 65536 * i) = some k ∧ (s.word k).getLsbD 63 = true
     a.op = .syswr 0x0128 inst v → p.bad = false → p.op = 2 → (∃ k, leaf k) →
      ∃ t, exec (.unmap w) s = .next t ∧ Deferred s t w x a rest 0 0 ∧ t.byte (raKey (v.toNat + 24)) = 0 ∧
        (∀ k, leaf k → (t.word k).getLsbD 63 = false) ∧
        (∀ k < 2 ^ 100, tagSpace k = (if p.g then 64 else p.ctx) → p.va ≤ tagVa k → tagVa k < p.va + p.arg → kget t.lines k = none) ∧
        ∀ e ∈ t.trans, e.ctx = (if inGlobal p.va then 64 else p.ctx) → e.base < p.va + p.arg → e.base + e.size ≤ p.va) ∧
    (a.op = .syswr 0x0200 inst v →
      let ws := (List.range 4).map fun i => (s.word (raKey (v.toNat + 8 * i))).toNat
      let cores := (List.range 192).filter fun n => (ws.getD (n / 64) 0).testBit (n % 64)
      let bad := cores = [] ∨ ws.getD 3 0 / 256 % 256 ≠ 0 ∨ ws.getD 3 0 / 2 ^ 32 ≠ 0
      (bad → ∃ t, exec (.vacate w) s = .next t ∧ Deferred s t w x a rest 0 0 ∧ status t v.toNat 1) ∧
      (¬bad → ∃ t, exec (.vacate w) s = .next t ∧ Deferred s t w x a rest 2 v.toNat ∧ t.mem = s.mem ∧
        t.vacates = s.vacates ++ [{ uid := a.uid, wave := w, ra := v.toNat, cores := cores, saved := 0 }] ∧
        ∀ b k, kget s.blocks b = some k → kget t.blocks b = some (if cores.contains k.core && !k.away then { k with vacating := true } else k)))

/-- R295, R320, R324: A power-on reset and, with the link up, a function-level reset give every register the value of
State.reset (the spec's or, where the spec gives none, that of log entries 5 and 18), clear the scratchpads and load no
program; a function-level reset keeps the spares and the counts of errors. Link down drops the lines of host memory, at
slices and in L1s, and keeps every other line and byte. The fields that the statement names as kept are the model's own
bookkeeping (log entries 1 and 10). -/
def Obligations.ResetsAndLinks : Prop :=
  ∀ (s : State),
    let keeps (t : State) := t.agenda = s.agenda ∧ t.turn = s.turn ∧ t.uid = s.uid ∧ t.hostData = s.hostData
    let anew (t : State) := { t with
      agenda := [], turn := none, free := 0, uid := 0, mem := [], boot := 0, linkUp := true, hostData := [], spares := [], errs := [] } = State.reset
    (∃ t, exec .powerOnReset s = .next t ∧ keeps t ∧ anew t ∧ t.linkUp = true ∧ t.spares = [] ∧ t.errs = [] ∧
      (∀ k, 2 ^ 64 ≤ k → t.byte k = s.byte k) ∧ (∀ k, 2 ^ 40 ≤ k → k < 2 ^ 64 → t.byte k = unlisted)) ∧
    (s.linkUp = false → exec .functionLevelReset s = .next s) ∧
    (s.linkUp = true → ∃ t, exec .functionLevelReset s = .next t ∧ keeps t ∧ anew t ∧ t.linkUp = true ∧ t.spares = s.spares ∧ t.errs = s.errs ∧
      (∀ k, 2 ^ 40 ≤ k → k < 2 ^ 64 → t.byte k = unlisted)) ∧
    (∃ t, exec .linkDown s = .next t ∧ t.linkUp = false ∧ (∀ k, t.byte k = s.byte k) ∧ t.waves = s.waves ∧ t.tasks = s.tasks ∧
      (∀ k, s.hostTag k = true → kget t.lines k = none ∧ (k < 2 ^ 80 → ∀ c, kget t.l1 (l1Key c k) = none)) ∧
      (∀ k, s.hostTag k = false → (kget t.lines k).map (·.data) = (kget s.lines k).map (·.data) ∧
        (k < 2 ^ 80 → ∀ c, kget t.l1 (l1Key c k) = kget s.l1 (l1Key c k)))) ∧
    exec .linkUp s = .next { s with linkUp := true }

/-- R324, R325, R326: A die hotter than 105 degrees stops every core from issuing and raises vector 0; a reading below
95 ends its stop, and the cores issue again once no die is stopped (log entry 90: no other die's TRIP is set). A clamp
of a cc in which a core has not issued counts once on its die; in that cc the core issues nothing and no watchdog of it
counts. A power change that is ready sets the state of its cluster. Before power off the host halves that the cluster
holds are written back and released and its reads of shared lines stay in their times; its scratchpads and L1 are then
lost. -/
def Obligations.PowerEvents : Prop :=
  ∀ (s : State) (n : Nat) (temp : BitVec 16),
    let hot := n < 4 ∧ 105 * 16 < temp.toNat
    let cool := n < 4 ∧ temp.toNat < 95 * 16
    let others (t : State) := ∀ k, k ≠ sysKey 0x020A n → kget t.sys k = kget s.sys k
    (hot → ∃ t, exec (.thermalTrip n temp) s = .next t ∧ t.sysReg 0x020A n = BitVec.ofNat 64 (2 ^ 16 + temp.toNat) ∧ others t ∧
      t.thermStop = true ∧ t.irqs = s.irqs ++ [0] ∧ { t with sys := s.sys, thermStop := s.thermStop, irqs := s.irqs } = s) ∧
    (¬hot → exec (.thermalTrip n temp) s = .next s) ∧
    (cool → ∃ t, exec (.thermalResume n temp) s = .next t ∧ t.sysReg 0x020A n = BitVec.ofNat 64 temp.toNat ∧ others t ∧
      (t.thermStop = true ↔ ∃ i < 4, i ≠ n ∧ (s.sysReg 0x020A i).getLsbD 16 = true) ∧ { t with sys := s.sys, thermStop := s.thermStop } = s) ∧
    (¬cool → exec (.thermalResume n temp) s = .next s) ∧
    (let past := s.portsUsed n = true ∨ s.clampedNow n = true
     (past → exec (.powerClamp n) s = .next s) ∧
     (¬past → ∃ t, exec (.powerClamp n) s = .next t ∧ dget 0 t.clamped (dieOf n) = dget 0 s.clamped (dieOf n) + 1 ∧
      (∀ d, d ≠ dieOf n → dget 0 t.clamped d = dget 0 s.clamped d) ∧ (∀ c, t.clampedNow c = (decide (c = n) || s.clampedNow c)) ∧
      (∀ w pcb, (s.wave w).core = n → t.canIssue w pcb = false) ∧ (∀ e ∈ s.blocks, e.2.core = n → t.counts e = false) ∧
      { t with clamped := s.clamped, clampAt := s.clampAt } = s)) ∧
    (¬(n < 48 ∧ s.powerReady n = true) → exec (.clusterPowerStateReached n) s = .next s) ∧
    (n < 48 → s.powerReady n = true → ∃ t, exec (.clusterPowerStateReached n) s = .next t ∧
      let q := (s.sysReg 0x0208 n).toNat % 4
      let pads (k : Nat) := 2 ^ 40 + 4 * n * 2 ^ 20 ≤ k ∧ k < 2 ^ 40 + (4 * n + 4) * 2 ^ 20
      let held (e : Nat × Line) : Bool := e.2.halves != (0, 0) &&
        ((kget s.l1 (l1Key n e.1)).isSome || (decide (e.2.writer < 192) && clusterOf e.2.writer == n))
      t.sysReg 0x0208 n = BitVec.ofNat 64 (q + 4 * q) ∧
      (q ≠ 2 → t.mem = s.mem ∧ t.l1 = s.l1 ∧ t.lines = s.lines) ∧
      (q = 2 → (∀ k, pads k → t.byte k = unlisted) ∧ (∀ key < 2 ^ 80, kget t.l1 (l1Key n key) = none) ∧
        (s.lines.filter held = [] → ∀ k, ¬pads k → t.byte k = s.byte k) ∧
        (∀ key y u, s.lines.filter held = [(key, y)] → (s.setSys 0x0208 n (BitVec.ofNat 64 (5 * q))).leaveSlice key = .ok u →
          kget t.lines key = none ∧ ∀ k, ¬pads k → t.byte k = u.byte k) ∧
        (∀ key y, kget s.lines key = some y → held (key, y) = true → y.dirty = false →
          kget t.lines key = none ∧ (key < 2 ^ 80 → ∀ c, kget t.l1 (l1Key c key) = none)) ∧
        (∀ key y tm z, kget s.lines key = some y → kget y.sharers n = some tm → kget t.lines key = some z →
          tm ≤ z.rts ∧ kget z.sharers n = none)))

/-- R296: With the link up each attestation request gets its reply in the mailbox and changes nothing else; with it down
nothing happens. Version 1.2, the one algorithm suite and slot 0 are the spec's; the layout of a reply is SPDM's and its
remaining bytes are open (log entry 11). -/
def Obligations.MailboxReplies : Prop :=
  ∀ (s : State) (slot index code : Nat),
    let more (request arg : Nat) := Config.spdmReply request arg
    let m (i : Nat) := Config.measurement i
    let refused : List Byte := [0x12, 0x7F, 0x01, 0]
    let ofSlot (r : List Byte) := if slot = 0 then r else refused
    (∀ e ∈ [(Instr.getVersion, [0x10, 0x04, 0, 0, 0, 1, 0, 0x12]), (.getCapabilities, [0x12, 0x61, 0, 0, 0, 0, 0, 0, 0x16, 0, 0, 0] ++ more 0xE1 0),
        (.negotiateAlgorithms, [0x12, 0x63, 0, 0, 36, 0, 1, 0, 2, 0, 0, 0, 8, 0, 0, 0, 1, 0, 0, 0] ++ List.replicate 16 0),
        (.getDigests, [0x12, 0x01, 0, 1] ++ more 0x81 0), (.getCertificate slot, ofSlot ([0x12, 0x02, 0, 0] ++ more 0x82 slot)),
        (.challenge slot, ofSlot ([0x12, 0x03, 0, 1] ++ more 0x83 slot)),
        (.getMeasurements index, if index = 0 then [0x12, 0x60, 3, 0, 0, 0, 0, 0] ++ more 0xE0 0
          else if index < 4 then [0x12, 0x60, 0, 0] ++ m index ++ more 0xE0 index
          else if index = 255 then [0x12, 0x60, 0, 0] ++ m 1 ++ m 2 ++ m 3 ++ more 0xE0 255 else refused),
        (.cdatRequest, Config.cdat)],
      exec e.1 s = .next (if s.linkUp then { s with doe := e.2 } else s)) ∧
    exec (.unsupportedRequest code) s = .next (if s.linkUp = true ∧ code ∉ [0x81, 0x82, 0x83, 0x84, 0xE0, 0xE1, 0xE3] then
      { s with doe := [0x12, 0x7F, 0x07, BitVec.ofNat 8 code] } else s)

/-- R165, R250, R252, R257, R286, R287, R288, R289: The event of a packet type serves the head packet of its queue if it
has that type and the control core runs: it acts, a bad packet with the reason of its fault, and its completion entry,
HEAD and vector follow; a full bin holds the queue. Every type gives the results and the refusals that its rules state.
The model's readings: what is left to post of a packet goes on first (log entry 82); an unknown type is served by
NOP_PACKET, and an unknown node refuses a record before its size does (log entry 41); TAIL is read at any alignment (log
entry 100). -/
def Obligations.PacketService : Prop :=
  ∀ (s : State) (qn : Nat),
    (∀ e ∈ packetRows qn,
      (kget s.queues qn = none → exec e.1 s = .next s) ∧
      (∀ q, kget s.queues qn = some q →
        (s.serves q = false ∨ (q.post = none ∧ q.error = true) → exec e.1 s = .next s) ∧
        (∀ o, s.serves q = true → q.post = some o → exec e.1 s = .next (if e.2.1 o.type then s.postPacket qn q o else s)) ∧
        (s.serves q = true → q.post = none → q.error = false →
          (∀ u, s.headPacket qn q = .error u → exec e.1 s = .next u) ∧
          (∀ u p, s.headPacket qn q = .ok (u, p) → e.2.1 p.type = false → exec e.1 s = .next s) ∧
          (∀ u p, s.headPacket qn q = .ok (u, p) → e.2.1 p.type = true →
            (∀ t status reason value, u.actedOn q p e.2.2 = .done t status reason value →
              exec e.1 s = .next (t.packetDone qn q p status reason value) ∧
              (PostReady t q → ∃ z, exec e.1 s = .next z ∧ Served t z qn q p status reason value)) ∧
            (u.actedOn q p e.2.2 = .full → exec e.1 s = .next { u with queues := kmod u.queues qn fun o => { o with held := true } }) ∧
            (∀ t, u.actedOn q p e.2.2 = .wait t → exec e.1 s = .next t))))) ∧
    (∀ q p, s.packetBad q p = none → p.type ≤ 8 ∧ p.slots ≤ 9 ∧ p.ctx = q.owner ∧ (s.sysReg 0x0101 p.ctx).getLsbD 63 = true) ∧
    (∀ q p, actNop s q p = .done s 0 0 0) ∧
    (∀ q p, s.nodeOf p.ctx p.arg = none → actRecord s q p = .done s 4 0 0 ∧ actNodeDel s q p = .done s 4 0 0) ∧
    (∀ q p n, s.nodeOf p.ctx p.arg = some n →
      (128 * p.slots - 16 < n.recSize → actRecord s q p = .done s 2 0 0) ∧
      (n.recSize ≤ 128 * p.slots - 16 → n.binCap ≤ n.occupancy → actRecord s q p = .full) ∧
      (n.recSize ≤ 128 * p.slots - 16 → n.occupancy < n.binCap → ∃ t, actRecord s q p = .done t 0 0 n.nextSeq ∧ { t with nodes := s.nodes } = s ∧
        kget t.nodes p.arg.toNat = some { n with nextSeq := n.nextSeq + 1, bin := n.bin ++
          [{ seq := n.nextSeq, bytes := p.payload.take n.recSize, ts := p.tail, entered := s.clk / 2, spawn := none, resume := none }] }) ∧
      (n.bin ≠ [] ∨ (∃ t ∈ s.tasks, t.2.node = p.arg.toNat ∧ t.2.liveTask = true) → actNodeDel s q p = .done s 1 13 0) ∧
      (n.bin = [] → (∀ t ∈ s.tasks, t.2.node = p.arg.toNat → t.2.liveTask = false) →
        actNodeDel s q p = .done { s with nodes := kdel s.nodes p.arg.toNat } 0 0 0)) ∧
    (∀ q p,
      let part := 16 * ((s.sysReg 0x0205 p.ctx).extractLsb' 32 4).toNat
      let cores := (s.partCores p.ctx).filter fun c => (p.word (4 + c / 64)).getLsbD (c % 64)
      let n : Node := { words := (List.range 8).map fun i => if 4 ≤ i ∧ i < 7 then p.word i &&& s.sysReg 0x0206 (part + (i - 4)) else p.word i
                        ctx := p.ctx, cores := [], nextSeq := 0, bin := [], lastCore := none, lastUc := none, expired := false }
      let mine := if n.pgroup = 0 then cores else cores.filter fun c => !(s.nodes.any fun e => e.2.pgroup == n.pgroup && e.2.cores.contains c)
      (s.nodeReason p.ctx n cores ≠ 0 → actNodeDef s q p = .done s 1 (s.nodeReason p.ctx n cores) 0) ∧
      (s.nodeReason p.ctx n cores = 0 → n.pgroup ≠ 0 → mine.length < n.field 7 32 8 → actNodeDef s q p = .done s 1 14 0) ∧
      (s.nodeReason p.ctx n cores = 0 → n.pgroup = 0 ∨ n.field 7 32 8 ≤ mine.length →
        actNodeDef s q p = .done { s with nodes := kset s.nodes n.number { n with cores := mine } } 0 0 0)) ∧
    (∀ q p,
      let peer (e : Nat) : Bool := match kget s.eps e with
        | some x => x.kind == 0
        | none => false
      let bad := 4096 ≤ p.arg.toNat ∨ s.handleBusy true p.arg.toNat = true ∨ p.field 0 0 15 ≠ 0 ∨ p.field 1 32 32 ≠ 0
      let size := p.field 0 27 13
      let ends := 2 ≤ size ∧ size ≤ 4096 ∧ p.field 0 15 12 < size ∧ peer (p.field 0 52 12) = true ∧ peer (p.field 0 40 12) = true
      let c : Comm := { next := p.field 0 52 12, prev := p.field 0 40 12, p := size, rank := p.field 0 15 12, limit := p.field 1 0 32, number := 0 }
      (bad ∨ (size ≠ 0 ∧ ¬ends) → actCommDef s q p = .done s 6 0 0) ∧
      (¬bad → size = 0 → actCommDef s q p = .done { s with comms := kdel s.comms p.arg.toNat } 0 0 0) ∧
      (¬bad → ends → actCommDef s q p = .done { s with comms := kset s.comms p.arg.toNat c } 0 0 0)) ∧
    (∀ q p,
      let kind := p.field 0 62 2
      let bad := 4096 ≤ p.arg.toNat ∨ 2 ≤ kind ∨ s.handleBusy false p.arg.toNat = true ∨ p.field 0 59 3 ≠ 0 ∨ p.field 0 32 24 ≠ 0 ∨
        p.field 1 48 10 ≠ 0 ∨ (kind = 0 ∧ p.field 1 32 16 ≠ 0) ∨ (kind = 1 ∧ p.field 1 58 6 ≠ 0) ∨
        (kind = 1 ∧ blockSize p.arg.toNat ≠ 512 ∧ blockSize p.arg.toNat ≠ 4096)
      let short := kind = 1 ∧ 128 * p.slots - 16 < 288
      (short → actEpDef s q p = .done s 2 0 0) ∧ (¬short → bad → actEpDef s q p = .done s 6 0 0) ∧
      (¬short → ¬bad → ∃ e, actEpDef s q p = .done { s with eps := kset s.eps p.arg.toNat e } 0 0 0 ∧ e.kind = kind ∧
        e.group = p.field 0 56 3 ∧ e.dev = p.field 0 0 32 ∧ e.pctx = p.field 1 58 6 ∧ e.port = p.field 1 32 16 ∧ e.limit = p.field 1 0 32 ∧
        (kind = 1 → e.addr = (p.payload.drop 16).take 16 ∧ e.nqn = (p.payload.drop 32).take 256))) ∧
    (∀ q p, s.arenaOf p.ctx p.arg = none → actVpool s q p = .done s 6 0 0) ∧
    (∀ q p k w, s.arenaOf p.ctx p.arg = some (k, w) → actVpool s q p =
      if w.root = true ∧ attrKind w.attr = 0 ∧ winGlobal k = false then .done { s with pools := kset s.pools p.ctx k } 0 0 0 else .done s 6 0 0) ∧
    (∀ q p, qn ≠ 0 → actQcreate qn s q p = .done s 5 0 0) ∧
    (∀ q p i,
      let va (i : Nat) : Nat := (p.word i).toNat
      let lslot := p.field 4 48 4
      let owner := p.field 4 58 6
      let n : Queue := { ring := va 0, tail := va 1, head := va 2, cq := va 3, owner := owner, slots := 2 ^ lslot, vec := p.field 4 38 6
                         ccore := 4 * p.field 4 34 2 + p.field 4 32 2, headCount := 0, entries := 0, error := false, held := false, post := none }
      ((List.range 63).map (· + 1)).find? (fun i => (kget s.queues i).isNone) = some i → qn = 0 → (∀ i < 4, va i < 2 ^ 56) →
      p.field 4 52 6 = 0 → p.field 4 44 4 = 0 → p.field 4 36 2 = 0 → p.field 4 0 32 = 0 → 4 ≤ lslot → va 0 % 128 = 0 → va 2 % 128 = 0 →
      va 3 % 16 = 0 → s.queueRegion owner (va 0) (128 * 2 ^ lslot) false = true → s.queueRegion owner (va 1) 8 true = true →
      s.queueRegion owner (va 2) 16 false = true → s.queueRegion owner (va 3) (16 * 2 ^ lslot) false = true →
      actQcreate qn s q p = .done { s with queues := kset s.queues i n } 0 0 i) ∧
    (∀ q p, kget s.queues p.arg.toNat = none ∨ qn ≠ 0 ∨ p.arg = 0 → actQdestroy qn s q p = .done s 5 0 0) ∧
    (∀ q p d u ts bs, kget s.queues p.arg.toNat = some d → qn = 0 → p.arg ≠ 0 → s.readTail d.who p.ts d.tail = .ok u ts bs →
      actQdestroy qn s q p = if ofBytes bs ≤ d.headCount then .done { u with queues := kdel u.queues p.arg.toNat } 0 0 0 else .done u 5 0 0)

/-- R128, R130, R180, R198, R233: A passed hurdle limit raises HURDLE_TIMEOUT and a passed WAITW limit releases with the
ready watches, of the path named and of one that the divergence stack holds; an event of its mask wakes HALT, a watchdog
whose counted cc has found its limit raises WATCHDOG, and the creep brings every live wave of a core one tick on; before
its condition each does nothing. -/
def Obligations.LimitEvents : Prop :=
  ∀ (s : State) (w : Nat) (pcb : Bool) (x : Wave), kget s.waves w = some x →
    let h := x.path pcb
    let calm (late : Path → Bool) := ∀ p, DivRec.path p ∈ x.stack → late p = false
    let can := x.park.isNone && !x.stopped && !s.waveAway x
    (∀ uid va par limit mask, h.hold = .hdlWait uid va par true limit mask → calm s.hurdleLate → exec (.hurdleTimeout w pcb) s =
      .next (if s.waiting w pcb && s.limitPassed h limit then (s.standAt w pcb uid).raise w pcb (Trap.of 14 mask) else s)) ∧
    (∀ p st uid va par limit mask, s.hurdleLate h = false → can = true → x.stack = .path p :: st → p.live = true →
      (∀ q, DivRec.path q ∈ st → s.hurdleLate q = false) → p.hold = .hdlWait uid va par true limit mask → s.limitPassed p limit = true →
      exec (.hurdleTimeout w pcb) s = .next (s.atSpilled w 0 fun u => (u.standAt w false uid).raise w false (Trap.of 14 mask))) ∧
    (∀ p st uid mask limit d, s.waitwLate h = false → can = true → x.stack = .path p :: st → p.live = true →
      (∀ q, DivRec.path q ∈ st → s.waitwLate q = false) → p.hold = .waitw uid mask limit d → s.limitPassed p limit = true →
      ∃ t, exec (.waitwLimitExpiry w pcb) s = .next t ∧ { t with waves := s.waves } = s ∧ (∀ v, v ≠ w → kget t.waves v = kget s.waves v) ∧
        (t.wave w).stack = .path { p with hold := .none } :: st ∧ (t.wave w).pca = x.pca ∧ (t.wave w).pcb = x.pcb ∧
        WritesS x (t.wave w) d ((x.readyWatches mask).setWidth 64)) ∧
    (∀ uid mask limit d, h.hold = .waitw uid mask limit d → calm s.waitwLate →
      (s.waiting w pcb = false ∨ s.limitPassed h limit = false → exec (.waitwLimitExpiry w pcb) s = .next s) ∧
      (s.waiting w pcb = true → s.limitPassed h limit = true → ∃ t, exec (.waitwLimitExpiry w pcb) s = .next t ∧
        { t with waves := s.waves } = s ∧ (∀ v, v ≠ w → kget t.waves v = kget s.waves v) ∧
        (t.wave w).path pcb = { h with hold := .none } ∧ (t.wave w).path (!pcb) = x.path (!pcb) ∧
        WritesS x (t.wave w) d ((x.readyWatches mask).setWidth 64) ∧ (t.wave w).v = x.v ∧ (t.wave w).p = x.p ∧
        ∀ n, (t.wave w).ctr n = (x.ctr n).mapToks fun k =>
          if k.uid = uid then { k with done := true, err := 0, info := 0, pts := 0 } else k)) ∧
    (∀ uid mask limit d, x.pca.hold = .halt uid mask limit d → x.pcb.hold = .none → x.super = true →
      let ev := s.haltEvents w (s.limitPassed x.pca limit)
      (s.waiting w false = false ∨ ev &&& mask = 0 → exec (.haltWake w) s = .next s) ∧
      (s.waiting w false = true → ev &&& mask ≠ 0 → ∃ t, exec (.haltWake w) s = .next t ∧
        { t with waves := s.waves } = s ∧ (t.wave w).pca = { x.pca with hold := .none } ∧ WritesS x (t.wave w) d (ev.setWidth 64))) ∧
    (∀ b, kget s.blocks x.block = some b → w ∈ s.liveWaves x.block → (∀ v ∈ s.liveWaves x.block, v ≠ w → x.age < (s.wave v).age) →
      exec (.watchdog x.block) s = .next (if !b.away && !b.stopping && b.bark then
        let q := x.lastPath
        s.raise w q (Trap.of 16 (x.path q).mask) else s)) ∧
    (let due := dget 0 s.crept x.core < (s.clk - dget 0 s.coreReset x.core) / 1024
     (¬due → exec (.ptsCreep x.core) s = .next s) ∧
     (due → ∃ t, exec (.ptsCreep x.core) s = .next t ∧ { t with waves := s.waves, crept := s.crept } = s ∧
       dget 0 t.crept x.core = dget 0 s.crept x.core + 1 ∧ ∀ v y, kget s.waves v = some y → kget t.waves v =
         some (if y.core = x.core ∧ y.ended = false ∧ s.waveAway y = false ∧ (y.pca.live = true ∨ y.pcb.live = true) then { y with pts := y.pts + 1 } else y)))

/-- R132, R134, R139, R200, R253, R256, R261: The events of batch timers, F0 refills, TEND points, saves, resume
records, ended tasks and merges act only in the state their rules name and leave the task, block and node as those rules
say; a task ends only with room in the drop lists, a merge moves only in its slots. The model's reading (log entry 49):
a save waits while a matrix command of the block is under way. -/
def Obligations.TaskEvents : Prop :=
  ∀ (s : State) (tid bid node : Nat),
    (∀ n, kget s.nodes node = some n → ∃ t, exec (.batchTimerExpiry node) s = .next t ∧ { t with nodes := s.nodes } = s ∧
      kget t.nodes node = some (if n.timerPassed s.uc then { n with expired := true } else n) ∧ ∀ k, k ≠ node → kget t.nodes k = kget s.nodes k) ∧
    (∀ b e es, kget s.blocks bid = some b → b.refill = e :: es →
      (s.fifoLoad bid 0 < 16 → b.away = false → ∃ t b', exec (.f0Refill bid) s = .next t ∧ { t with blocks := s.blocks } = s ∧
        kget t.blocks bid = some b' ∧ (∀ k, k ≠ bid → kget t.blocks k = kget s.blocks k) ∧ { b' with fifos := b.fifos, refill := b.refill } = b ∧
        b'.refill = es ∧ ∀ q, dget [] b'.fifos q = if q = 0 then dget [] b.fifos 0 ++ [e] else dget [] b.fifos q) ∧
      (16 ≤ s.fifoLoad bid 0 ∨ b.away = true → exec (.f0Refill bid) s = .next s)) ∧
    (∀ b k, kget s.blocks bid = some b → kget s.tasks b.task = some k →
      (k.state ≠ .running ∨ s.tendReady bid = false → exec (.tendPoint bid) s = .next s) ∧
      (k.state = .running → s.tendReady bid = true → ∃ t k', exec (.tendPoint bid) s = .next t ∧ kget t.tasks b.task = some k' ∧
        (k'.state = .ending ∨ k'.state = .ended) ∧ k'.node = k.node ∧ k'.seq = k.seq ∧ k'.parent = k.parent ∧ k'.views = k.views)) ∧
    (∀ b k img more, kget s.blocks bid = some b → kget s.tasks b.task = some k → s.freeAreas (dieOf b.core) = img :: more →
      let ready := s.yielded bid && !b.away && !b.stopping && !b.vacating && s.drained bid b && !s.matrixBusy bid
      (ready = false → exec (.yieldSave bid) s = .next s) ∧
      (ready = true → k.state = .running → ∃ t, exec (.yieldSave bid) s = .next t ∧
        kget t.blocks bid = some { b.flushPush with away := true, slots := [], vacating := false, wdog := 0, bark := false } ∧ t.saveUse = s.saveUse ++ [img] ∧
        ∃ k', kget t.tasks b.task = some k' ∧ k'.state = .saved ∧ ∃ sv, k'.saved = some sv ∧ sv.img = img)) ∧
    (∀ k sv b n, kget s.tasks tid = some k → k.state = .saved → k.saved = some sv → k.block = some b → kget s.nodes k.node = some n →
      (s.liveWaves b).all sv.conds.contains = true → ∃ t, exec (.yieldResumeRecord tid) s = .next t ∧
        kget t.tasks tid = some { k with state := .ready } ∧ kget t.nodes k.node = some { n with bin := n.bin ++
          [{ seq := k.seq, bytes := [], ts := k.ts, entered := s.clk / 2, spawn := none, resume := some tid }] }) ∧
    (∀ k, kget s.tasks tid = some k →
      (k.state ≠ .halted ∨ s.endRoom k = false → exec (.firmwareEndsTheTask tid) s = .next s) ∧
      (k.state = .halted → s.endRoom k = true → ∃ t k', exec (.firmwareEndsTheTask tid) s = .next t ∧ kget t.tasks tid = some k' ∧ k'.state = .ended)) ∧
    (∀ k m v, kget s.tasks tid = some k → k.merge = some m → k.inherited[k.merged]? = some v →
      let waits := m.queued || m.paused || m.reply.isSome || m.frec.isSome || k.state != .ending || s.taskAway k
      (waits = true ∨ 1 < s.slotNow → exec (.mergeComplete tid) s = .next s) ∧
      (waits = false → s.slotNow ≤ 1 → v.size ≤ m.cursor → m.lines = [] → ∃ t k', exec (.mergeComplete tid) s = .next t ∧
        kget t.tasks tid = some k' ∧ k'.merged = k.merged + 1))

/-- R187, R189, R253, R254, R255: The placing of the head batch of the chosen node on the first core that fits makes a
running task and its block with the lowest free slots, its waves in their launch state and its records in F0, and takes
the records from the bin. The model's reading (log entry 44): the one node whose turn it is is that of State.placer. -/
def Obligations.TaskPlacement : Prop :=
  ∀ (s : State) (node : Nat),
    (s.placer ≠ some node → exec (.taskPlace node) s = .next s) ∧
    (∀ n r rs id core, s.placer = some node → kget s.nodes node = some n → n.headTask = .batch (r :: rs) → s.topId n.ctx = some id →
      n.searchOrder.find? (s.fits n 0) = some core →
      let bid := s.nextBlock
      let tid := s.nextTask
      let slots := (s.freeSlots core).take n.nwaves
      ∃ t b n', exec (.taskPlace node) s = .next t ∧
        kget t.tasks tid = some { node := node, seq := r.seq, parent := none, ordinal := 0, children := 0, state := .running, views := []
                                  block := some bid, saved := none, merge := none, merged := 0, ts := r.ts } ∧
        kget t.blocks bid = some b ∧ b.core = core ∧ b.slots = slots ∧ b.node = node ∧ b.task = tid ∧ b.nwaves = n.nwaves ∧ b.away = false ∧
        (let entries := headerEntry (rs.length + 1) n.recSize node :: batchEntries n.recSize (r :: rs)
         dget [] b.fifos 0 = entries.take 16 ∧ b.refill = entries.drop 16) ∧
        (∀ i < n.nwaves, ∃ arr age, kget t.waves (16 * bid + i) = some (launchWave n bid core (slots.getD i 0) i arr n.ctx (r.ts + 1) age)) ∧
        kget t.nodes node = some n' ∧ n'.lastCore = some core ∧ n'.lastUc = some (s.clk / 2) ∧ n'.expired = false ∧
        n'.bin = n.bin.filter (fun q => !((r :: rs).any fun p => p.seq == q.seq && q.resume.isNone)))

/-- R209, R240, R241, R284, R285: A host request outside the windows or refused by its check sets HERR and raises vector
0; one to a present line reads or writes its bytes, at most to the end of the link line, and takes bridge time. An
access of a peer does the same with the time of its link, and an atomic of a peer acts once on the bytes of its line. No
byte of memory behind the line changes but by an atomic. The model's readings: HERR holds the host physical address of a
request without a window (log entry 58), and a peer is checked in its endpoint's PCTX (log entry 65). -/
def Obligations.OutsideAccesses : Prop :=
  (∀ (s : State) (h n : Nat) (bs : List Byte),
      (s.cxlMem = false → exec (.hostCxlMemRead ⟨h, n⟩) s = .next s ∧ exec (.hostCxlMemWrite h bs) s = .next s) ∧
      (bs = [] → exec (.hostCxlMemWrite h bs) s = .next s) ∧
      (s.cxlMem = true → ∀ wr : Bool, (wr = true → bs ≠ []) →
        let i := if wr then Instr.hostCxlMemWrite h bs else Instr.hostCxlMemRead ⟨h, n⟩
        let m := max 1 (min (if wr then bs.length else n) (64 - h % 64))
        let log (va : Nat) (t : State) := t.irqs = s.irqs ++ [0] ∧ t.mem = s.mem ∧ t.lines = s.lines ∧
          t.sysReg 0x0018 0 = (if (s.sysReg 0x0018 0).getLsbD 63 then s.sysReg 0x0018 0
            else BitVec.ofNat 64 (2 ^ 63 + (if wr then 2 ^ 62 else 0) + va % 2 ^ 56)) ∧
          t.hostData = s.hostData ++ (if wr then [] else List.replicate m none)
        (s.hostWindow h = none → ∃ t, exec i s = .next t ∧ log h t) ∧
        (∀ ctx va, s.hostWindow h = some (ctx, va) → s.outsideCheck ctx va m 1 (!wr) wr = none → ∃ t, exec i s = .next t ∧ log va t) ∧
        (∀ ctx va k g win l, s.hostWindow h = some (ctx, va) → s.outsideCheck ctx va m 1 (!wr) wr = some (k, g) →
          LineReady s ctx { mkReq 0 0 va m 0 with win := k, gen := g } win l wr → l.data.length = 128 → ∃ t l', exec i s = .next t ∧
            kget t.lines (lineTag k g va) = some l' ∧ l'.data = (if wr then overlay l.data (va % 128) (bs.take m) else l.data) ∧
            t.hostData = s.hostData ++ (if wr then [] else ((l.data.drop (va % 128)).take m).map some) ∧ t.irqs = s.irqs ∧ (∀ q, t.byte q = s.byte q) ∧
            t.bridgePts = (if wr then max s.bridgePts (l.rts + 1) else max s.bridgePts l.wts)))) ∧
  (∀ (s : State) (ep : Nat) (va : Addr) (kind : PeerKind) (pts : Nat) (carried : List Byte),
      let q := peerReq kind carried
      let m := peerLen q
      let i := Instr.peerRemoteAccess ep va kind pts carried
      (s.bootFailed = true ∨ kget s.eps ep = none ∨ 128 < va.toNat % 128 + m → exec i s = .next s) ∧
      (∀ e, kget s.eps ep = some e → s.outsideCheck e.pctx va.toNat m (if peerAtomic q then m else 1) (peerReads q) (peerWrites q) = none →
        exec i s = .next s) ∧
      (∀ e k g win l, s.bootFailed = false → kget s.eps ep = some e → va.toNat % 128 + m ≤ 128 →
        s.outsideCheck e.pctx va.toNat m (if peerAtomic q then m else 1) (peerReads q) (peerWrites q) = some (k, g) →
        LineReady s e.pctx { mkReq 0 0 va.toNat m 0 with win := k, gen := g } win l (peerWrites q) → l.data.length = 128 →
        (peerAtomic q = true → attrKind win.attr ≠ 2 ∧ ∃ u, s.writeBack (lineTag k g va.toNat) = .ok u) →
        let old := (l.data.drop (va.toNat % 128)).take m
        let put (bs : List Byte) := overlay l.data (va.toNat % 128) bs
        let ts := if peerWrites q then max (max pts e.time) (l.rts + 1) else max (max pts e.time) l.wts
        ∃ t l', exec i s = .next t ∧ kget t.eps ep = some { e with time := ts } ∧ kget t.lines (lineTag k g va.toNat) = some l' ∧
          l'.data = (match q with
            | .read _ => l.data
            | .write bs => put bs
            | .atom ty op y => put (toBytes m (atomNew ty.toNat op.toNat (ofBytes old) y.toNat))
            | .cas _ x y => if ofBytes old = x.toNat % 2 ^ (8 * m) then put (toBytes m y.toNat) else l.data) ∧
          t.hostData = s.hostData ++ (if peerReads q then old.map some else []) ∧ (peerAtomic q = false → ∀ k, t.byte k = s.byte k)))

/-- R240, R322, R323, R324: A snoop of a line that a slice holds answers, shares or drops it as its kind says and fires
the watches of a dropped one; an invalidating one takes its time also where only an L1 copy is left; a snoop waits for a
merge of its line. An acknowledged back-invalidation takes the host data of the halves the host held into a line that is
ready for it, as an access of the bridge, and fires its watches; with the link down no answer comes (log entry 48). -/
def Obligations.Snoops : Prop :=
  ∀ (s : State) (key : Nat) (data : List Byte),
    let fires (t : State) := ∀ w y, kget s.waves w = some y → ∀ n, ((t.wave w).watch n).fired =
      ((y.watch n).fired || ((y.watch n).armed && (y.watch n).line == key))
    let others (t : State) := ∀ k, k ≠ key → (kget t.lines k).map (·.data) = (kget s.lines k).map (·.data)
    (s.mergeTag key = true ∨ (s.hostLine key = false ∧ s.hostCopy key = false) →
      ∀ i ∈ [Instr.snpData key, .snpInv key, .snpCur key], exec i s = .next s) ∧
    (s.hostCopy key = true → s.mergeTag key = false → exec (.snpData key) s = .next s ∧ exec (.snpCur key) s = .next s ∧
      ∃ t, exec (.snpInv key) s = .next t ∧ t.l1 = s.l1 ∧ t.mem = s.mem ∧ others t ∧ fires t ∧
        t.bridgePts = max s.bridgePts (dget 0 s.sliceBase (s.tagHome key) + 1) ∧ t.bridgePts ≤ dget 0 t.sliceBase (s.tagHome key)) ∧
    (∀ x, s.hostLine key = true → s.mergeTag key = false → kget s.lines key = some x →
      (exec (.snpCur key) s = .next { s with
        hostData := s.hostData ++ x.data.zipIdx.map fun b => if x.poison.contains (b.2 / 8) then none else some b.1 }) ∧
      (∃ t x', exec (.snpData key) s = .next t ∧ kget t.lines key = some x' ∧ x'.data = x.data ∧ x'.dirty = false ∧ x'.halves = (1, 1) ∧
        others t ∧ t.l1 = s.l1 ∧ t.bridgePts = max s.bridgePts x.wts ∧ (x.halves.1 ≠ 3 → x.halves.2 ≠ 3 → t.mem = s.mem)) ∧
      (∃ t, exec (.snpInv key) s = .next t ∧ kget t.lines key = none ∧ t.l1 = s.l1 ∧ t.bridgePts = max s.bridgePts (x.rts + 1) ∧
        others t ∧ (x.halves.1 ≠ 3 → x.halves.2 ≠ 3 → t.mem = s.mem) ∧ fires t)) ∧
    (s.linkUp = false ∨ (∀ q ∈ s.hostAck, q / 2 ≠ key) → exec (.backInvalidateAcknowledged key data) s = .next s) ∧
    (s.linkUp = true → (∃ q ∈ s.hostAck, q / 2 = key) →
      let o := dget (0, 0) s.hostHalf key
      let left := s.hostAck.filter fun q => q / 2 != key
      let keeps : Nat × Nat := if s.hostAck.contains (2 * key + 1) then (0, 0) else (min o.1 1, min o.2 1)
      (o.1 ≠ 2 → o.2 ≠ 2 → exec (.backInvalidateAcknowledged key data) s =
        .next { s with hostAck := left, hostHalf := dset (0, 0) s.hostHalf key keeps }) ∧
      (∀ x k own win, o.1 = 2 ∨ o.2 = 2 → kget s.lines key = some x → x.data.length = 128 → data.length = 128 → s.deadTag key = false →
        s.winOfTag key = some (k, own) →
        (∀ off ∈ [0, 64], LineReady { s with hostHalf := kdel s.hostHalf key } (winCtx k)
          { mkReq 0 0 (tagVa key + off) 64 0 with win := k, gen := tagGen key } win x true) →
        ∃ t x', exec (.backInvalidateAcknowledged key data) s = .next t ∧ kget t.lines key = some x' ∧
          x'.data = (if o.1 = 2 then data.take 64 else x.data.take 64) ++ (if o.2 = 2 then data.drop 64 else x.data.drop 64) ∧
          x'.dirty = true ∧ t.hostAck = left ∧ dget (0, 0) t.hostHalf key = keeps ∧ others t ∧ t.mem = s.mem ∧ fires t ∧
          t.bridgePts = max s.bridgePts (x.rts + 1) + (if o.1 = 2 ∧ o.2 = 2 then 1 else 0)))

/-- R108, R216, R277, R331, R334, R336: In a scrub slot, once, an L2 slice looks at the next 1,024 of its lines, drops
those that its drop list names, and strikes itself off the entries whose whole lap has passed and that name no line of
it any more; an L1 slice drops such copies; a memory base die reads the next 64 KiB of its stack, and the words with a
failed symbol are whole again and counted. An eviction removes a dead or clean unpinned line without touching memory and
never a live pinned one; the copy of a frozen granule that a write waits for waits for room. The model's readings: one
list holds the entries of all slices (log entry 64), and an entry stays while a wave has an unperformed access that
passed its check with it (log entry 73). -/
def Obligations.CacheSlots : Prop :=
  ∀ (s : State) (unit line agent : Nat), (∀ e ∈ s.drops, e.left ≠ []) → (∀ t ∈ s.tasks, t.2.state ≠ .ending) →
    let sweep := exec (.scrubAndDropSweep unit) s
    (s.slotNow ≠ 3 ∨ 192 ≤ unit → sweep = .next s) ∧
    (let mine := s.drops.filter fun e => e.left.contains unit
     let ks := (s.sweepKeys (64 + unit) ((s.lines.filter fun l => l.2.slice == unit).map (·.1))).2
     let gone (k : Nat) : Bool := ks.contains k && mine.any (·.names k)
     let strikes (e : Drop) : Bool := e.left.contains unit && s.dropRipe e && !(s.lines.any fun l => l.2.slice == unit && e.names l.1 && !gone l.1)
     s.slotNow = 3 → unit < 128 →
      (s.slotDone (64 + unit) ≠ 0 → sweep = .next s) ∧
      (s.slotDone (64 + unit) = 0 → ∃ t, sweep = .next t ∧ t.slotDone (64 + unit) = 1024 ∧
        (∀ k, gone k = true → kget t.lines k = none ∧ (k < 2 ^ 80 → ∀ c, kget t.l1 (l1Key c k) = none)) ∧
        t.drops = (s.drops.map fun e => if strikes e then { e with left := e.left.filter (· != unit) } else e).filter (fun e => !e.left.isEmpty) ∧
        (t.drops.length = s.drops.length → t.mem = s.mem ∧
          ∀ k, gone k = false → (kget t.lines k).map (·.data) = (kget s.lines k).map (·.data)))) ∧
    (let cl := unit - 128
     let ks := (s.sweepKeys (192 + cl) ((s.l1.filter fun e => e.1 / 2 ^ 80 == cl).map (·.1))).2
     s.slotNow = 3 → 128 ≤ unit → unit < 176 →
      (s.slotDone (192 + cl) ≠ 0 → sweep = .next s) ∧
      (s.slotDone (192 + cl) = 0 → ∃ t, sweep = .next t ∧ t.slotDone (192 + cl) = 1024 ∧
        t.l1 = s.l1.filter (fun e => !(ks.contains e.1 && s.drops.any (·.names (e.1 % 2 ^ 80)))) ∧
        { t with l1 := s.l1, cursors := s.cursors, slotAt := s.slotAt, slotUse := s.slotUse } = s)) ∧
    (let st := unit - 176
     let from_ := dget 0 s.cursors (16 + st)
     let lo := st * 2 ^ 36 + from_
     let hit (f : Nat) : Bool := decide (lo ≤ 32 * f) && decide (32 * f < lo + 65536)
     s.slotNow = 3 → 176 ≤ unit → unit < 192 →
      (s.slotDone (16 + st) ≠ 0 → sweep = .next s) ∧
      (s.slotDone (16 + st) = 0 → ∃ t, sweep = .next t ∧ t.slotDone (16 + st) = 65536 ∧ t.flaws = s.flaws.filter (fun f => !hit f) ∧
        t.errs = ((s.flaws.filter hit).foldl State.countFlaw s).errs ∧
        dget 0 t.cursors (16 + st) = (if stackBytes ≤ from_ + 65536 then 0 else from_ + 65536) ∧
        { t with flaws := s.flaws, errs := s.errs, cursors := s.cursors, slotAt := s.slotAt, slotUse := s.slotUse } = s)) ∧
    (kget s.lines line = none → exec (.lineEviction line) s = .next { s with l1 := kdel s.l1 line }) ∧
    (∀ l, kget s.lines line = some l → s.deadTag line = false → l.pinned = true → exec (.lineEviction line) s = .next s) ∧
    (∀ l, kget s.lines line = some l → (s.deadTag line = true ∨ (l.pinned = false ∧ l.dirty = false)) → ∃ t, exec (.lineEviction line) s = .next t ∧
      kget t.lines line = none ∧ (∀ k, k ≠ line → (kget t.lines k).map (·.data) = (kget s.lines k).map (·.data)) ∧ t.mem = s.mem ∧
      (s.deadTag line = true → ∀ e ∈ t.l1, e.1 % 2 ^ 80 ≠ line)) ∧
    (s.frozenFor agent = none → exec (.frozenGranuleCopy agent) s = .next s) ∧
    (∀ f, s.frozenFor agent = some f → s.asked.contains (f.win / 4096, f.va) = true ∧
      (s.copyRoom f = false → exec (.frozenGranuleCopy agent) s = .next s) ∧
      (s.copyRoom f = true → exec (.frozenGranuleCopy agent) s = .next { s with
        frozen := s.frozen.map fun g => if g = f then { g with copy := some (s.granuleCells f), bad := s.granuleBad f } else g
        asked := s.asked.filter (· != (f.win / 4096, f.va)) }))

/-- R30, R182, R331, R333, R337, R338, R339: A lap starts when its uc is reached, puts the written slot table in force
and completes SLOTSET with d := 0; drains, migrations and telemetry work only in their slots, and of each stack at most
64 KiB in one: a drain writes one granule to its target and releases it, one past its target's length or to a target
that is none ends with an error, and the last step writes the outcome and ends the snapshot; a migration moves on by one
piece per stack, a telemetry slot stores its page, the counts of errors among it, and nothing else, and retraining marks
its group and vector. The model's readings: which granule of a snapshot drains next is open (log entry 96), and a
migration counts its slots and moves the bytes at the last one (log entry 47). -/
def Obligations.LapSlots : Prop :=
  ∀ (s : State) (stack group num : Nat),
    (s.uc / 4096 ≤ s.lap ∨ s.bootFailed = true → exec .lapStart s = .next s) ∧
    (s.lap < s.uc / 4096 → s.bootFailed = false → ∃ t, exec .lapStart s = .next t ∧ t.lap = s.uc / 4096 ∧ t.slotTab = s.slotNext.getD s.slotTab ∧ t.slotNext = none ∧
      t.asyncs = s.asyncs.filter (fun o => o.kind != 1) ∧ t.mem = s.mem ∧
      ∀ o, s.asyncs.filter (fun o => o.kind == 1) = [o] → WritesS (s.wave o.wave) (t.wave o.wave) (BitVec.ofNat 8 o.arg) 0) ∧
    (s.slotNow ≠ 2 ∨ s.snaps.find? (fun n => n.num == num) = none ∨
      ((∃ f ∈ s.frozen, f.snap = num) ∧ ∀ f ∈ s.frozen, f.snap = num → s.drainRoom f = false) → exec (.snapshotDrain num) s = .next s) ∧
    (∀ sn, s.slotNow = 2 → s.snaps.find? (fun n => n.num == num) = some sn → (∃ f ∈ s.frozen, f.snap = num ∧ s.drainRoom f = true) →
      sn.tlen < (sn.count + 1) * 65664 ∨ (match sn.ep with
        | some ep => s.isPeer ep = false
        | none => s.inHost sn.ctx (sn.tva + 65664 * sn.count) = false) → ∃ t, exec (.snapshotDrain num) s = .next t ∧ (∀ f ∈ t.frozen, f.snap ≠ num) ∧
        t.snaps = s.snaps.map fun n => if n.num = num then { sn with err := true } else n) ∧
    (let who (sn : Snap) : Who := { ctx := sn.ctx, core := 192, super := true }
     (∀ sn k win own, s.slotNow = 2 → s.snaps.find? (fun n => n.num == num) = some sn → (∃ f ∈ s.frozen, f.snap = num) →
      (∀ f ∈ s.frozen, f.snap = num → s.drainRoom f = true) →
      let va := sn.tva + 65664 * sn.count
      (sn.count + 1) * 65664 ≤ sn.tlen → sn.ep = none → s.cover sn.ctx va = some (k, win) → attrKind win.attr = 1 → kget s.wins k = some own →
      (∀ i < 513, s.checkRange (who sn) (va + 128 * i) 128 1 false true = .ok (k, win.gen) ∧ (va + 128 * i) % 128 = 0 ∧
        ∃ l, LineReady s sn.ctx { mkReq 0 0 (va + 128 * i) 128 0 with win := k, gen := win.gen } own l true) →
      ∃ t f pts, exec (.snapshotDrain num) s = .next t ∧ f ∈ s.frozen ∧ f.snap = num ∧ t.frozen = s.frozen.filter (· != f) ∧
        t.snaps = s.snaps.map fun n => if n.num = num then { sn with count := sn.count + 1, pts := pts } else n) ∧
     (∀ sn k g win l, s.slotNow = 2 → s.snaps.find? (fun n => n.num == num) = some sn → (∀ f ∈ s.frozen, f.snap ≠ num) →
      (sn.desc + 24) % 128 + 8 ≤ 128 → s.checkRange (who sn) (sn.desc + 24) 8 1 false true = .ok (k, g) →
      LineReady s sn.ctx { mkReq 0 0 (sn.desc + 24) 8 0 with win := k, gen := g } win l true → l.data.length = 128 →
      ∃ t, exec (.snapshotDrain num) s = .next t ∧ t.snaps = s.snaps.filter (fun n => n.num != num) ∧ t.frozen = s.frozen ∧
        t.lineWord (who sn) (sn.desc + 24) = 2 ^ 63 + (if sn.err then 2 ^ 62 else 0) + sn.count % 2 ^ 32)) ∧
    (s.slotNow ≠ 4 ∨ s.pageOp = none ∨ s.slotDone 32 ≠ 0 → exec .migrationSlot s = .next s) ∧
    (∀ p, s.slotNow = 4 → s.slotDone 32 = 0 → s.pageOp = some p → p.moved + 2 ^ s.msetLog p.mset < p.size / 65536 →
      exec .migrationSlot s = .next { s.noteSlot 32 1 with pageOp := some { p with moved := p.moved + 2 ^ s.msetLog p.mset } }) ∧
    (¬(s.slotNow = 5 ∧ stack < 16 ∧ s.slotDone (240 + stack) = 0) → exec (.telemetrySlot stack) s = .next s) ∧
    (let k := raKey (telemetryRa stack)
     s.slotNow = 5 → stack < 16 → s.slotDone (240 + stack) = 0 → (s.word (k + 0x200)).getLsbD 63 = false → ∃ t, exec (.telemetrySlot stack) s = .next t ∧
      t.word k = BitVec.ofNat 64 s.lap ∧ (∀ i < 33, t.word (k + 8 + 8 * i) = BitVec.ofNat 64 (dget 0 s.errs (stack * 64 + i))) ∧
      (∀ i < 8, t.word (k + 0x118 + 8 * i) = BitVec.ofNat 64 (dget 0 s.errs (stack * 64 + 33 + i))) ∧ t.slotDone (240 + stack) = 1 ∧ (∀ q, q < k ∨ k + 0x200 ≤ q → t.byte q = s.byte q) ∧ { t with mem := s.mem, free := s.free, slotAt := s.slotAt, slotUse := s.slotUse } = s) ∧
    (s.groups.contains group = false → exec (.groupRetrains group) s = .next s) ∧
    (let k := raKey (telemetryRa 0)
     s.groups.contains group = true → ∃ t, exec (.groupRetrains group) s = .next t ∧ t.groups = s.groups.filter (· != group) ∧
      t.word (k + 0x200) = s.word (k + 0x200) &&& 0x7FFFFFFFFFFFFFFF ∧ t.word (k + 0x208) = BitVec.ofNat 64 (2 ^ 63) ∧
      (∀ q, q < k + 0x200 ∨ k + 0x210 ≤ q → t.byte q = s.byte q))

/-- R12, R17, R74, R98, R141: Ten words written out in the spec decode to the instructions they stand for and are the
words of these. -/
def Obligations.DecodedWords : Prop :=
  let f (stall : BitVec 6) (wait : BitVec 12) (sig : BitVec 4) (yld : Bool) (guard : BitVec 4) : Sched :=
    { stall := stall, wait := wait, sig := sig, yld := yld, reuse := 0, guard := guard }
  ∀ e ∈ [((0x00000000#32, 0x00000000#32, 0x00000000#32), Instr.nop (f 0 0 0 false 0)),
      ((0x00000000#32, 0x00000000#32, 0x00800787#32), .nop (f 1 0 15 false 7)),
      ((0x00C5C401#32, 0x0000000C#32, 0x22004942#32), .saddRI (f 4 0x009 2 true 2) 0 196 197 12),
      ((0x0001093A#32, 0x00000024#32, 0x62000787#32), .brd (f 4 0 15 false 7) 1 false 9 0 0x24),
      ((0xCA082851#32, 0x000010CC#32, 0x00800787#32), .vpackMx8 (f 1 0 15 false 7) false 0 0x28 0x08 0xCA 0xCC),
      ((0xC3C2C699#32, 0x00008003#32, 0x40800087#32), .atom (f 1 0 1 false 7) 8 3 0 0 0xC6 0xC2 0xC3),
      ((0x020000B0#32, 0x00000000#32, 0x20800787#32), .waitc (f 1 0 15 false 7) 2 0),
      ((0xFFCCCACB#32, 0x00000001#32, 0x80800887#32), .ms (f 1 1 1 false 7) true 0xCA 0xCC 0xFF),
      ((0xD8D6D4D8#32, 0x00000004#32, 0x80800007#32), .cp (f 1 0 0 false 7) 0 true 0xD4 0xD6 0xD8),
      ((0xD8D6D4E0#32, 0x00000004#32, 0x80800007#32), .collAr (f 1 0 0 false 7) true 0 0 0xD4 0xD6 0xD8)],
    decode (e.1.2.2 ++ e.1.2.1 ++ e.1.1 : BitVec 96) = .ok e.2 ∧ encode e.2 = e.1.2.2 ++ e.1.2.1 ++ e.1.1

/-- R12, R13, R26, R38, R337: When the agenda names an issue of a path whose twelve bytes stand in a present line of a
sealed window and decode to an instruction that passes the checks at issue and is eligible, the step is exec of that
instruction with its port taken in this cc and the turn given to the path, followed by the undo-pool check and the end
of the step (log entry 1 describes the agenda); one with a poisoned operand traps SOFT_ERROR instead. -/
def Obligations.StepRunsDecoded : Prop :=
  ∀ (s : State) (w : Nat) (pcb : Bool) (cs : List Choice) (x : Wave) (k : Nat) (win : Win) (l : Line) (i : Instr),
    let r : State := { s with agenda := cs }
    let va := (x.path pcb).pc.toNat
    let word := wordOfBytes ((l.data.drop (va % 128)).take 12)
    let sched := (rawOf word).sched
    let act := r.activeAt w pcb sched
    s.agenda = .issue w pcb :: cs → kget s.waves w = some x → s.cover x.ctx va = some (k, win) → k ≠ reservedWin →
    win.state = .sealed → va + 12 ≤ win.base + win.size → attrKind win.attr < 3 → s.migrating k va = false → va % 128 ≤ 116 →
    kget s.lines (lineTag k win.gen va) = some l → l.poison = [] →
    decode word = .ok i → r.checkWord x word = .ok i → r.canIssue w pcb = true → r.eligible w pcb x (rawOf word) i = true →
    (r.operandBad x act sched i = false →
      step s = andNext (exec i { r.notePort x.core (portOf (rawOf word).opc.toNat) with turn := some (w, pcb) }) fun t => (r.poolHeld w t).endStep) ∧
    (r.operandBad x act sched i = true → step s = .next (r.raiseIssue w pcb sched (Trap.of 17 act)).endStep)

/-- R198, R295, R304, R320, R326, R331: After reset the slot table, watchdog, clamp, placement and host registers hold
the values of the spec, sixteen control cores are present with one lane each, none of their paths live (log entry 7: the
image that the boot ROM loads is outside the machine), no cache, window, task or block exists, and every byte reads as
the unlisted value (log entry 4). -/
def Obligations.ResetState : Prop :=
  let s := State.reset
  (∀ i < 64, s.slotTab.getD i 9 = if i < 56 then 0 else if i < 58 then 1 else if i < 60 then 2 else if i < 62 then 3 else if i = 62 then 4 else 5) ∧
  s.slotTab.length = 64 ∧ s.sysReg 0x0202 0 = 65536 ∧ s.sysReg 0x0209 0 = 3200 + 65536 * 3600 ∧ s.sysReg 0x0110 0 = 0x80E0000000000000 ∧
  s.sysReg 0x0111 0 = 0xFFFF ∧ (∀ c < 64, s.sysReg 0x0205 c = 0xFFFFFFFF) ∧
  (∀ c < 16, ∃ x, kget s.waves c = some x ∧ x.super = true ∧ x.core = 192 + c ∧ x.pca.mask = 1 ∧ x.pca.live = false ∧ x.pcb.live = false) ∧
  (∀ w x, kget s.waves w = some x → w < 16) ∧ s.lines = [] ∧ s.l1 = [] ∧ s.wins = [] ∧ s.tasks = [] ∧ s.blocks = [] ∧ s.cmds = [] ∧
  s.thermStop = false ∧ memWf s.mem = true ∧ ∀ k, s.byte k = unlisted

/-- R12, R14, R61, R82, R88, R98, R141, R175: For every well-formed instruction, with every operand and modifier at
every value its encoding admits, decoding its word gives the instruction. -/
def Obligations.DecodeEncode : Prop := ∀ i : Instr, WellFormed i → decode (encode i) = .ok i

/-- R207, R297: From every state whose memory is strictly rising by address with no entry equal to the unlisted byte, a
step that answers a next state leaves memory in that form. -/
def Obligations.MemoryStaysCanonical : Prop :=
  ∀ s t : State, memWf s.mem = true → step s = .next t → memWf t.mem = true
end

