-- ==== Sys2Proof/Laws/Exec.lean ====
section
/-! SUPPORT. What exec calls for each instruction and event, one equation per constructor. -/
namespace Sys2Proof.Machine
open Sys2Proof

theorem exec_nop (f : Sched) (s : State) : exec (.nop f) s = execNop f s := rfl
theorem exec_saddRR (f : Sched) (t : BitVec 2) (d : Reg) (a : Reg) (b : Reg) (s : State) : exec (.saddRR f t d a b) s = execSaddRR f t d a b s := rfl
theorem exec_saddRI (f : Sched) (t : BitVec 2) (d : Reg) (a : Reg) (imm : BitVec 32) (s : State) : exec (.saddRI f t d a imm) s = execSaddRI f t d a imm s := rfl
theorem exec_ssubRR (f : Sched) (t : BitVec 2) (d : Reg) (a : Reg) (b : Reg) (s : State) : exec (.ssubRR f t d a b) s = execSsubRR f t d a b s := rfl
theorem exec_ssubRI (f : Sched) (t : BitVec 2) (d : Reg) (a : Reg) (imm : BitVec 32) (s : State) : exec (.ssubRI f t d a imm) s = execSsubRI f t d a imm s := rfl
theorem exec_smulRR (f : Sched) (t : BitVec 2) (d : Reg) (a : Reg) (b : Reg) (s : State) : exec (.smulRR f t d a b) s = execSmulRR f t d a b s := rfl
theorem exec_smulRI (f : Sched) (t : BitVec 2) (d : Reg) (a : Reg) (imm : BitVec 32) (s : State) : exec (.smulRI f t d a imm) s = execSmulRI f t d a imm s := rfl
theorem exec_smulhRR (f : Sched) (t : BitVec 2) (d : Reg) (a : Reg) (b : Reg) (s : State) : exec (.smulhRR f t d a b) s = execSmulhRR f t d a b s := rfl
theorem exec_smulhRI (f : Sched) (t : BitVec 2) (d : Reg) (a : Reg) (imm : BitVec 32) (s : State) : exec (.smulhRI f t d a imm) s = execSmulhRI f t d a imm s := rfl
theorem exec_sdivRR (f : Sched) (t : BitVec 2) (d : Reg) (a : Reg) (b : Reg) (s : State) : exec (.sdivRR f t d a b) s = execSdivRR f t d a b s := rfl
theorem exec_sdivRI (f : Sched) (t : BitVec 2) (d : Reg) (a : Reg) (imm : BitVec 32) (s : State) : exec (.sdivRI f t d a imm) s = execSdivRI f t d a imm s := rfl
theorem exec_sandRR (f : Sched) (d : Reg) (a : Reg) (b : Reg) (s : State) : exec (.sandRR f d a b) s = execSandRR f d a b s := rfl
theorem exec_sandRI (f : Sched) (d : Reg) (a : Reg) (imm : BitVec 32) (s : State) : exec (.sandRI f d a imm) s = execSandRI f d a imm s := rfl
theorem exec_sorRR (f : Sched) (d : Reg) (a : Reg) (b : Reg) (s : State) : exec (.sorRR f d a b) s = execSorRR f d a b s := rfl
theorem exec_sorRI (f : Sched) (d : Reg) (a : Reg) (imm : BitVec 32) (s : State) : exec (.sorRI f d a imm) s = execSorRI f d a imm s := rfl
theorem exec_sxorRR (f : Sched) (d : Reg) (a : Reg) (b : Reg) (s : State) : exec (.sxorRR f d a b) s = execSxorRR f d a b s := rfl
theorem exec_sxorRI (f : Sched) (d : Reg) (a : Reg) (imm : BitVec 32) (s : State) : exec (.sxorRI f d a imm) s = execSxorRI f d a imm s := rfl
theorem exec_snot (f : Sched) (d : Reg) (a : Reg) (s : State) : exec (.snot f d a) s = execSnot f d a s := rfl
theorem exec_sshlRR (f : Sched) (t : BitVec 2) (d : Reg) (a : Reg) (b : Reg) (s : State) : exec (.sshlRR f t d a b) s = execSshlRR f t d a b s := rfl
theorem exec_sshlRI (f : Sched) (t : BitVec 2) (d : Reg) (a : Reg) (imm : BitVec 32) (s : State) : exec (.sshlRI f t d a imm) s = execSshlRI f t d a imm s := rfl
theorem exec_sshrRR (f : Sched) (t : BitVec 2) (d : Reg) (a : Reg) (b : Reg) (s : State) : exec (.sshrRR f t d a b) s = execSshrRR f t d a b s := rfl
theorem exec_sshrRI (f : Sched) (t : BitVec 2) (d : Reg) (a : Reg) (imm : BitVec 32) (s : State) : exec (.sshrRI f t d a imm) s = execSshrRI f t d a imm s := rfl
theorem exec_ssarRR (f : Sched) (t : BitVec 2) (d : Reg) (a : Reg) (b : Reg) (s : State) : exec (.ssarRR f t d a b) s = execSsarRR f t d a b s := rfl
theorem exec_ssarRI (f : Sched) (t : BitVec 2) (d : Reg) (a : Reg) (imm : BitVec 32) (s : State) : exec (.ssarRI f t d a imm) s = execSsarRI f t d a imm s := rfl
theorem exec_sminRR (f : Sched) (t : BitVec 2) (d : Reg) (a : Reg) (b : Reg) (s : State) : exec (.sminRR f t d a b) s = execSminRR f t d a b s := rfl
theorem exec_sminRI (f : Sched) (t : BitVec 2) (d : Reg) (a : Reg) (imm : BitVec 32) (s : State) : exec (.sminRI f t d a imm) s = execSminRI f t d a imm s := rfl
theorem exec_smaxRR (f : Sched) (t : BitVec 2) (d : Reg) (a : Reg) (b : Reg) (s : State) : exec (.smaxRR f t d a b) s = execSmaxRR f t d a b s := rfl
theorem exec_smaxRI (f : Sched) (t : BitVec 2) (d : Reg) (a : Reg) (imm : BitVec 32) (s : State) : exec (.smaxRI f t d a imm) s = execSmaxRI f t d a imm s := rfl
theorem exec_smov (f : Sched) (d : Reg) (a : Reg) (s : State) : exec (.smov f d a) s = execSmov f d a s := rfl
theorem exec_slil (f : Sched) (d : Reg) (imm : BitVec 32) (s : State) : exec (.slil f d imm) s = execSlil f d imm s := rfl
theorem exec_slih (f : Sched) (d : Reg) (a : Reg) (imm : BitVec 32) (s : State) : exec (.slih f d a imm) s = execSlih f d a imm s := rfl
theorem exec_ssel (f : Sched) (n : BitVec 3) (neg : Bool) (d : Reg) (a : Reg) (b : Reg) (s : State) : exec (.ssel f n neg d a b) s = execSsel f n neg d a b s := rfl
theorem exec_scmpRR (f : Sched) (t : BitVec 2) (cnd : BitVec 3) (d : Reg) (a : Reg) (b : Reg) (s : State) : exec (.scmpRR f t cnd d a b) s = execScmpRR f t cnd d a b s := rfl
theorem exec_scmpRI (f : Sched) (t : BitVec 2) (cnd : BitVec 3) (d : Reg) (a : Reg) (imm : BitVec 32) (s : State) : exec (.scmpRI f t cnd d a imm) s = execScmpRI f t cnd d a imm s := rfl
theorem exec_vaddRR (f : Sched) (t : BitVec 2) (d : Reg) (a : Reg) (b : Reg) (s : State) : exec (.vaddRR f t d a b) s = execVaddRR f t d a b s := rfl
theorem exec_vaddRI (f : Sched) (t : BitVec 2) (d : Reg) (a : Reg) (imm : BitVec 32) (s : State) : exec (.vaddRI f t d a imm) s = execVaddRI f t d a imm s := rfl
theorem exec_vsubRR (f : Sched) (t : BitVec 2) (d : Reg) (a : Reg) (b : Reg) (s : State) : exec (.vsubRR f t d a b) s = execVsubRR f t d a b s := rfl
theorem exec_vsubRI (f : Sched) (t : BitVec 2) (d : Reg) (a : Reg) (imm : BitVec 32) (s : State) : exec (.vsubRI f t d a imm) s = execVsubRI f t d a imm s := rfl
theorem exec_vmulRR (f : Sched) (t : BitVec 2) (d : Reg) (a : Reg) (b : Reg) (s : State) : exec (.vmulRR f t d a b) s = execVmulRR f t d a b s := rfl
theorem exec_vmulRI (f : Sched) (t : BitVec 2) (d : Reg) (a : Reg) (imm : BitVec 32) (s : State) : exec (.vmulRI f t d a imm) s = execVmulRI f t d a imm s := rfl
theorem exec_vmulhRR (f : Sched) (t : BitVec 2) (d : Reg) (a : Reg) (b : Reg) (s : State) : exec (.vmulhRR f t d a b) s = execVmulhRR f t d a b s := rfl
theorem exec_vmulhRI (f : Sched) (t : BitVec 2) (d : Reg) (a : Reg) (imm : BitVec 32) (s : State) : exec (.vmulhRI f t d a imm) s = execVmulhRI f t d a imm s := rfl
theorem exec_vmad (f : Sched) (t : BitVec 2) (d : Reg) (a : Reg) (b : Reg) (c : Reg) (s : State) : exec (.vmad f t d a b c) s = execVmad f t d a b c s := rfl
theorem exec_vandRR (f : Sched) (t : BitVec 2) (d : Reg) (a : Reg) (b : Reg) (s : State) : exec (.vandRR f t d a b) s = execVandRR f t d a b s := rfl
theorem exec_vandRI (f : Sched) (t : BitVec 2) (d : Reg) (a : Reg) (imm : BitVec 32) (s : State) : exec (.vandRI f t d a imm) s = execVandRI f t d a imm s := rfl
theorem exec_vorRR (f : Sched) (t : BitVec 2) (d : Reg) (a : Reg) (b : Reg) (s : State) : exec (.vorRR f t d a b) s = execVorRR f t d a b s := rfl
theorem exec_vorRI (f : Sched) (t : BitVec 2) (d : Reg) (a : Reg) (imm : BitVec 32) (s : State) : exec (.vorRI f t d a imm) s = execVorRI f t d a imm s := rfl
theorem exec_vxorRR (f : Sched) (t : BitVec 2) (d : Reg) (a : Reg) (b : Reg) (s : State) : exec (.vxorRR f t d a b) s = execVxorRR f t d a b s := rfl
theorem exec_vxorRI (f : Sched) (t : BitVec 2) (d : Reg) (a : Reg) (imm : BitVec 32) (s : State) : exec (.vxorRI f t d a imm) s = execVxorRI f t d a imm s := rfl
theorem exec_vshlRR (f : Sched) (t : BitVec 2) (d : Reg) (a : Reg) (b : Reg) (s : State) : exec (.vshlRR f t d a b) s = execVshlRR f t d a b s := rfl
theorem exec_vshlRI (f : Sched) (t : BitVec 2) (d : Reg) (a : Reg) (imm : BitVec 32) (s : State) : exec (.vshlRI f t d a imm) s = execVshlRI f t d a imm s := rfl
theorem exec_vshrRR (f : Sched) (t : BitVec 2) (d : Reg) (a : Reg) (b : Reg) (s : State) : exec (.vshrRR f t d a b) s = execVshrRR f t d a b s := rfl
theorem exec_vshrRI (f : Sched) (t : BitVec 2) (d : Reg) (a : Reg) (imm : BitVec 32) (s : State) : exec (.vshrRI f t d a imm) s = execVshrRI f t d a imm s := rfl
theorem exec_vsarRR (f : Sched) (t : BitVec 2) (d : Reg) (a : Reg) (b : Reg) (s : State) : exec (.vsarRR f t d a b) s = execVsarRR f t d a b s := rfl
theorem exec_vsarRI (f : Sched) (t : BitVec 2) (d : Reg) (a : Reg) (imm : BitVec 32) (s : State) : exec (.vsarRI f t d a imm) s = execVsarRI f t d a imm s := rfl
theorem exec_vminRR (f : Sched) (t : BitVec 2) (d : Reg) (a : Reg) (b : Reg) (s : State) : exec (.vminRR f t d a b) s = execVminRR f t d a b s := rfl
theorem exec_vminRI (f : Sched) (t : BitVec 2) (d : Reg) (a : Reg) (imm : BitVec 32) (s : State) : exec (.vminRI f t d a imm) s = execVminRI f t d a imm s := rfl
theorem exec_vmaxRR (f : Sched) (t : BitVec 2) (d : Reg) (a : Reg) (b : Reg) (s : State) : exec (.vmaxRR f t d a b) s = execVmaxRR f t d a b s := rfl
theorem exec_vmaxRI (f : Sched) (t : BitVec 2) (d : Reg) (a : Reg) (imm : BitVec 32) (s : State) : exec (.vmaxRI f t d a imm) s = execVmaxRI f t d a imm s := rfl
theorem exec_vabs (f : Sched) (t : BitVec 2) (d : Reg) (a : Reg) (s : State) : exec (.vabs f t d a) s = execVabs f t d a s := rfl
theorem exec_vcmpRR (f : Sched) (t : BitVec 2) (cnd : BitVec 3) (d : Reg) (a : Reg) (b : Reg) (s : State) : exec (.vcmpRR f t cnd d a b) s = execVcmpRR f t cnd d a b s := rfl
theorem exec_vcmpRI (f : Sched) (t : BitVec 2) (cnd : BitVec 3) (d : Reg) (a : Reg) (imm : BitVec 32) (s : State) : exec (.vcmpRI f t cnd d a imm) s = execVcmpRI f t cnd d a imm s := rfl
theorem exec_vsel (f : Sched) (t : BitVec 2) (n : BitVec 3) (neg : Bool) (d : Reg) (a : Reg) (b : Reg) (s : State) : exec (.vsel f t n neg d a b) s = execVsel f t n neg d a b s := rfl
theorem exec_vpopc (f : Sched) (t : BitVec 2) (d : Reg) (a : Reg) (s : State) : exec (.vpopc f t d a) s = execVpopc f t d a s := rfl
theorem exec_vclz (f : Sched) (t : BitVec 2) (d : Reg) (a : Reg) (s : State) : exec (.vclz f t d a) s = execVclz f t d a s := rfl
theorem exec_vbfeRR (f : Sched) (t : BitVec 2) (d : Reg) (a : Reg) (b : Reg) (s : State) : exec (.vbfeRR f t d a b) s = execVbfeRR f t d a b s := rfl
theorem exec_vbfeRI (f : Sched) (t : BitVec 2) (d : Reg) (a : Reg) (imm : BitVec 32) (s : State) : exec (.vbfeRI f t d a imm) s = execVbfeRI f t d a imm s := rfl
theorem exec_vbfiRR (f : Sched) (t : BitVec 2) (d : Reg) (a : Reg) (b : Reg) (c : Reg) (s : State) : exec (.vbfiRR f t d a b c) s = execVbfiRR f t d a b c s := rfl
theorem exec_vbfiRI (f : Sched) (t : BitVec 2) (d : Reg) (a : Reg) (imm : BitVec 32) (s : State) : exec (.vbfiRI f t d a imm) s = execVbfiRI f t d a imm s := rfl
theorem exec_vmov (f : Sched) (t : BitVec 2) (d : Reg) (a : Reg) (s : State) : exec (.vmov f t d a) s = execVmov f t d a s := rfl
theorem exec_vli (f : Sched) (t : BitVec 2) (d : Reg) (imm : BitVec 32) (s : State) : exec (.vli f t d imm) s = execVli f t d imm s := rfl
theorem exec_vaddrRR (f : Sched) (scl : BitVec 3) (uns : Bool) (d : Reg) (a : Reg) (b : Reg) (s : State) : exec (.vaddrRR f scl uns d a b) s = execVaddrRR f scl uns d a b s := rfl
theorem exec_vaddrRI (f : Sched) (d : Reg) (a : Reg) (imm : BitVec 32) (s : State) : exec (.vaddrRI f d a imm) s = execVaddrRI f d a imm s := rfl
theorem exec_vbcastRR (f : Sched) (t : BitVec 2) (d : Reg) (a : Reg) (b : Reg) (s : State) : exec (.vbcastRR f t d a b) s = execVbcastRR f t d a b s := rfl
theorem exec_vbcastRI (f : Sched) (t : BitVec 2) (d : Reg) (a : Reg) (imm : BitVec 32) (s : State) : exec (.vbcastRI f t d a imm) s = execVbcastRI f t d a imm s := rfl
theorem exec_v2sRR (f : Sched) (t : BitVec 2) (d : Reg) (a : Reg) (b : Reg) (s : State) : exec (.v2sRR f t d a b) s = execV2sRR f t d a b s := rfl
theorem exec_v2sRI (f : Sched) (t : BitVec 2) (d : Reg) (a : Reg) (imm : BitVec 32) (s : State) : exec (.v2sRI f t d a imm) s = execV2sRI f t d a imm s := rfl
theorem exec_vshflRR (f : Sched) (t : BitVec 2) (mode : BitVec 2) (d : Reg) (a : Reg) (b : Reg) (s : State) : exec (.vshflRR f t mode d a b) s = execVshflRR f t mode d a b s := rfl
theorem exec_vshflRI (f : Sched) (t : BitVec 2) (mode : BitVec 2) (d : Reg) (a : Reg) (imm : BitVec 32) (s : State) : exec (.vshflRI f t mode d a imm) s = execVshflRI f t mode d a imm s := rfl
theorem exec_vred (f : Sched) (t : BitVec 2) (op : BitVec 2) (d : Reg) (a : Reg) (s : State) : exec (.vred f t op d a) s = execVred f t op d a s := rfl
theorem exec_pand (f : Sched) (d : Reg) (a : Reg) (b : Reg) (s : State) : exec (.pand f d a b) s = execPand f d a b s := rfl
theorem exec_por (f : Sched) (d : Reg) (a : Reg) (b : Reg) (s : State) : exec (.por f d a b) s = execPor f d a b s := rfl
theorem exec_pxor (f : Sched) (d : Reg) (a : Reg) (b : Reg) (s : State) : exec (.pxor f d a b) s = execPxor f d a b s := rfl
theorem exec_pnot (f : Sched) (d : Reg) (a : Reg) (s : State) : exec (.pnot f d a) s = execPnot f d a s := rfl
theorem exec_pmov (f : Sched) (d : Reg) (a : Reg) (s : State) : exec (.pmov f d a) s = execPmov f d a s := rfl
theorem exec_pany (f : Sched) (d : Reg) (a : Reg) (s : State) : exec (.pany f d a) s = execPany f d a s := rfl
theorem exec_pall (f : Sched) (d : Reg) (a : Reg) (s : State) : exec (.pall f d a) s = execPall f d a s := rfl
theorem exec_pset (f : Sched) (d : Reg) (a : Reg) (s : State) : exec (.pset f d a) s = execPset f d a s := rfl
theorem exec_bra (f : Sched) (disp : BitVec 32) (s : State) : exec (.bra f disp) s = execBra f disp s := rfl
theorem exec_brc (f : Sched) (n : BitVec 3) (neg : Bool) (mode : Reg) (disp : BitVec 32) (s : State) : exec (.brc f n neg mode disp) s = execBrc f n neg mode disp s := rfl
theorem exec_brd (f : Sched) (n : BitVec 3) (neg : Bool) (jlo : Reg) (jhi : Reg) (disp : BitVec 32) (s : State) : exec (.brd f n neg jlo jhi disp) s = execBrd f n neg jlo jhi disp s := rfl
theorem exec_join (f : Sched) (s : State) : exec (.join f) s = execJoin f s := rfl
theorem exec_call (f : Sched) (d : Reg) (disp : BitVec 32) (s : State) : exec (.call f d disp) s = execCall f d disp s := rfl
theorem exec_ret (f : Sched) (a : Reg) (s : State) : exec (.ret f a) s = execRet f a s := rfl
theorem exec_loop (f : Sched) (d : Reg) (disp : BitVec 32) (s : State) : exec (.loop f d disp) s = execLoop f d disp s := rfl
theorem exec_exit (f : Sched) (s : State) : exec (.exit f) s = execExit f s := rfl
theorem exec_vfadd (f : Sched) (ft : BitVec 2) (rm : BitVec 3) (d : Reg) (a : Reg) (b : Reg) (s : State) : exec (.vfadd f ft rm d a b) s = execVfadd f ft rm d a b s := rfl
theorem exec_vfsub (f : Sched) (ft : BitVec 2) (rm : BitVec 3) (d : Reg) (a : Reg) (b : Reg) (s : State) : exec (.vfsub f ft rm d a b) s = execVfsub f ft rm d a b s := rfl
theorem exec_vfmul (f : Sched) (ft : BitVec 2) (rm : BitVec 3) (d : Reg) (a : Reg) (b : Reg) (s : State) : exec (.vfmul f ft rm d a b) s = execVfmul f ft rm d a b s := rfl
theorem exec_vfma (f : Sched) (ft : BitVec 2) (rm : BitVec 3) (d : Reg) (a : Reg) (b : Reg) (c : Reg) (s : State) : exec (.vfma f ft rm d a b c) s = execVfma f ft rm d a b c s := rfl
theorem exec_vfmin (f : Sched) (ft : BitVec 2) (d : Reg) (a : Reg) (b : Reg) (s : State) : exec (.vfmin f ft d a b) s = execVfmin f ft d a b s := rfl
theorem exec_vfmax (f : Sched) (ft : BitVec 2) (d : Reg) (a : Reg) (b : Reg) (s : State) : exec (.vfmax f ft d a b) s = execVfmax f ft d a b s := rfl
theorem exec_vfcmp (f : Sched) (cnd : BitVec 3) (d : Reg) (a : Reg) (b : Reg) (s : State) : exec (.vfcmp f cnd d a b) s = execVfcmp f cnd d a b s := rfl
theorem exec_vfabs (f : Sched) (ft : BitVec 2) (d : Reg) (a : Reg) (s : State) : exec (.vfabs f ft d a) s = execVfabs f ft d a s := rfl
theorem exec_vfneg (f : Sched) (ft : BitVec 2) (d : Reg) (a : Reg) (s : State) : exec (.vfneg f ft d a) s = execVfneg f ft d a s := rfl
theorem exec_vrcp (f : Sched) (d : Reg) (a : Reg) (s : State) : exec (.vrcp f d a) s = execVrcp f d a s := rfl
theorem exec_vrsq (f : Sched) (d : Reg) (a : Reg) (s : State) : exec (.vrsq f d a) s = execVrsq f d a s := rfl
theorem exec_vexp2 (f : Sched) (d : Reg) (a : Reg) (s : State) : exec (.vexp2 f d a) s = execVexp2 f d a s := rfl
theorem exec_vlog2 (f : Sched) (d : Reg) (a : Reg) (s : State) : exec (.vlog2 f d a) s = execVlog2 f d a s := rfl
theorem exec_cvt (f : Sched) (df : BitVec 5) (sf : BitVec 5) (rm : BitVec 3) (sat : Bool) (ei : BitVec 3) (d : Reg) (a : Reg) (s : State) : exec (.cvt f df sf rm sat ei d a) s = execCvt f df sf rm sat ei d a s := rfl
theorem exec_vpack (f : Sched) (df : BitVec 5) (rm : BitVec 3) (sat : Bool) (d : Reg) (a : Reg) (s : State) : exec (.vpack f df rm sat d a) s = execVpack f df rm sat d a s := rfl
theorem exec_vpackMx8 (f : Sched) (mx4 : Bool) (rm : BitVec 3) (d : Reg) (a : Reg) (b : Reg) (c : Reg) (s : State) : exec (.vpackMx8 f mx4 rm d a b c) s = execVpackMx8 f mx4 rm d a b c s := rfl
theorem exec_vunpack (f : Sched) (df : BitVec 5) (sf : BitVec 5) (rm : BitVec 3) (d : Reg) (a : Reg) (b : Reg) (s : State) : exec (.vunpack f df sf rm d a b) s = execVunpack f df sf rm d a b s := rfl
theorem exec_seedRR (f : Sched) (d : Reg) (a : Reg) (s : State) : exec (.seedRR f d a) s = execSeedRR f d a s := rfl
theorem exec_seedRI (f : Sched) (d : Reg) (imm : BitVec 32) (s : State) : exec (.seedRI f d imm) s = execSeedRI f d imm s := rfl
theorem exec_ldS (f : Sched) (off : BitVec 20) (ty : BitVec 4) (d : Reg) (a : Reg) (s : State) : exec (.ldS f off ty d a) s = execLdS f off ty d a s := rfl
theorem exec_ldV (f : Sched) (off : BitVec 20) (ty : BitVec 4) (d : Reg) (a : Reg) (s : State) : exec (.ldV f off ty d a) s = execLdV f off ty d a s := rfl
theorem exec_ldVb (f : Sched) (off : BitVec 20) (cnt : BitVec 2) (d : Reg) (a : Reg) (s : State) : exec (.ldVb f off cnt d a) s = execLdVb f off cnt d a s := rfl
theorem exec_ldT (f : Sched) (off : BitVec 20) (cnt : BitVec 2) (d : Reg) (a : Reg) (b : Reg) (s : State) : exec (.ldT f off cnt d a b) s = execLdT f off cnt d a b s := rfl
theorem exec_ldLast (f : Sched) (off : BitVec 20) (ty : BitVec 4) (d : Reg) (a : Reg) (s : State) : exec (.ldLast f off ty d a) s = execLdLast f off ty d a s := rfl
theorem exec_stS (f : Sched) (off : BitVec 20) (ty : BitVec 4) (d : Reg) (a : Reg) (s : State) : exec (.stS f off ty d a) s = execStS f off ty d a s := rfl
theorem exec_stV (f : Sched) (off : BitVec 20) (ty : BitVec 4) (d : Reg) (a : Reg) (s : State) : exec (.stV f off ty d a) s = execStV f off ty d a s := rfl
theorem exec_stVb (f : Sched) (off : BitVec 20) (cnt : BitVec 2) (d : Reg) (a : Reg) (s : State) : exec (.stVb f off cnt d a) s = execStVb f off cnt d a s := rfl
theorem exec_stPair (f : Sched) (off : BitVec 20) (cnt : BitVec 2) (d : Reg) (a : Reg) (b : Reg) (s : State) : exec (.stPair f off cnt d a b) s = execStPair f off cnt d a b s := rfl
theorem exec_pref (f : Sched) (off : BitVec 20) (lv : Bool) (a : Reg) (b : Reg) (s : State) : exec (.pref f off lv a b) s = execPref f off lv a b s := rfl
theorem exec_pin (f : Sched) (off : BitVec 20) (d : Reg) (a : Reg) (b : Reg) (s : State) : exec (.pin f off d a b) s = execPin f off d a b s := rfl
theorem exec_unpin (f : Sched) (off : BitVec 20) (d : Reg) (a : Reg) (b : Reg) (s : State) : exec (.unpin f off d a b) s = execUnpin f off d a b s := rfl
theorem exec_wbr (f : Sched) (off : BitVec 20) (a : Reg) (b : Reg) (s : State) : exec (.wbr f off a b) s = execWbr f off a b s := rfl
theorem exec_red (f : Sched) (off : BitVec 20) (ty : BitVec 4) (sc : BitVec 3) (op : BitVec 3) (d : Reg) (a : Reg) (s : State) : exec (.red f off ty sc op d a) s = execRed f off ty sc op d a s := rfl
theorem exec_atom (f : Sched) (off : BitVec 20) (ty : BitVec 4) (sc : BitVec 3) (op : BitVec 3) (d : Reg) (a : Reg) (b : Reg) (s : State) : exec (.atom f off ty sc op d a b) s = execAtom f off ty sc op d a b s := rfl
theorem exec_cas (f : Sched) (off : BitVec 20) (ty : BitVec 4) (sc : BitVec 3) (d : Reg) (a : Reg) (b : Reg) (s : State) : exec (.cas f off ty sc d a b) s = execCas f off ty sc d a b s := rfl
theorem exec_arenaNew (f : Sched) (pn : BitVec 3) (d : Reg) (a : Reg) (b : Reg) (s : State) : exec (.arenaNew f pn d a b) s = execArenaNew f pn d a b s := rfl
theorem exec_arenaAlloc (f : Sched) (pn : BitVec 3) (aln : BitVec 4) (d : Reg) (a : Reg) (b : Reg) (s : State) : exec (.arenaAlloc f pn aln d a b) s = execArenaAlloc f pn aln d a b s := rfl
theorem exec_arenaSeal (f : Sched) (a : Reg) (s : State) : exec (.arenaSeal f a) s = execArenaSeal f a s := rfl
theorem exec_arenaReset (f : Sched) (d : Reg) (a : Reg) (s : State) : exec (.arenaReset f d a) s = execArenaReset f d a s := rfl
theorem exec_arenaDrop (f : Sched) (a : Reg) (s : State) : exec (.arenaDrop f a) s = execArenaDrop f a s := rfl
theorem exec_arenaQuota (f : Sched) (d : Reg) (a : Reg) (b : Reg) (s : State) : exec (.arenaQuota f d a b) s = execArenaQuota f d a b s := rfl
theorem exec_arenaInfo (f : Sched) (off : BitVec 20) (pn : BitVec 3) (sel : BitVec 4) (d : Reg) (a : Reg) (s : State) : exec (.arenaInfo f off pn sel d a) s = execArenaInfo f off pn sel d a s := rfl
theorem exec_waitc (f : Sched) (n : BitVec 4) (k : BitVec 6) (s : State) : exec (.waitc f n k) s = execWaitc f n k s := rfl
theorem exec_waitcTest (f : Sched) (n : BitVec 4) (k : BitVec 6) (d : Reg) (s : State) : exec (.waitcTest f n k d) s = execWaitcTest f n k d s := rfl
theorem exec_bar (f : Sched) (bn : BitVec 2) (n : BitVec 5) (s : State) : exec (.bar f bn n) s = execBar f bn n s := rfl
theorem exec_hdlInit (f : Sched) (off : BitVec 20) (a : Reg) (b : Reg) (s : State) : exec (.hdlInit f off a b) s = execHdlInit f off a b s := rfl
theorem exec_hdlInitRelease (f : Sched) (off : BitVec 20) (a : Reg) (b : Reg) (s : State) : exec (.hdlInitRelease f off a b) s = execHdlInitRelease f off a b s := rfl
theorem exec_hdlExpect (f : Sched) (off : BitVec 20) (a : Reg) (b : Reg) (s : State) : exec (.hdlExpect f off a b) s = execHdlExpect f off a b s := rfl
theorem exec_hdlArrive (f : Sched) (off : BitVec 20) (a : Reg) (b : Reg) (s : State) : exec (.hdlArrive f off a b) s = execHdlArrive f off a b s := rfl
theorem exec_hdlWait (f : Sched) (off : BitVec 20) (a : Reg) (b : Reg) (s : State) : exec (.hdlWait f off a b) s = execHdlWait f off a b s := rfl
theorem exec_hdlTest (f : Sched) (off : BitVec 20) (d : Reg) (a : Reg) (b : Reg) (s : State) : exec (.hdlTest f off d a b) s = execHdlTest f off d a b s := rfl
theorem exec_watch (f : Sched) (off : BitVec 20) (n : BitVec 2) (d : Reg) (a : Reg) (s : State) : exec (.watch f off n d a) s = execWatch f off n d a s := rfl
theorem exec_waitw (f : Sched) (mask : BitVec 4) (limit : BitVec 24) (d : Reg) (s : State) : exec (.waitw f mask limit d) s = execWaitw f mask limit d s := rfl
theorem exec_yield (f : Sched) (kind : BitVec 2) (n : BitVec 4) (k : BitVec 6) (a : Reg) (b : Reg) (s : State) : exec (.yield f kind n k a b) s = execYield f kind n k a b s := rfl
theorem exec_qbind (f : Sched) (fifo : BitVec 3) (on : Bool) (d : Reg) (s : State) : exec (.qbind f fifo on d) s = execQbind f fifo on d s := rfl
theorem exec_enq (f : Sched) (off : BitVec 20) (d : Reg) (a : Reg) (b : Reg) (s : State) : exec (.enq f off d a b) s = execEnq f off d a b s := rfl
theorem exec_spawn (f : Sched) (off : BitVec 20) (d : Reg) (a : Reg) (b : Reg) (s : State) : exec (.spawn f off d a b) s = execSpawn f off d a b s := rfl
theorem exec_viewDecl (f : Sched) (off : BitVec 20) (fmt : BitVec 5) (op : BitVec 3) (pn : BitVec 3) (d : Reg) (a : Reg) (b : Reg) (s : State) : exec (.viewDecl f off fmt op pn d a b) s = execViewDecl f off fmt op pn d a b s := rfl
theorem exec_viewInfo (f : Sched) (sel : BitVec 3) (d : Reg) (a : Reg) (s : State) : exec (.viewInfo f sel d a) s = execViewInfo f sel d a s := rfl
theorem exec_tend (f : Sched) (s : State) : exec (.tend f) s = execTend f s := rfl
theorem exec_mw (f : Sched) (k : BitVec 9) (a : Reg) (b : Reg) (s : State) : exec (.mw f k a b) s = execMw f k a b s := rfl
theorem exec_mws (f : Sched) (k : BitVec 9) (a : Reg) (b : Reg) (s : State) : exec (.mws f k a b) s = execMws f k a b s := rfl
theorem exec_mswap (f : Sched) (s : State) : exec (.mswap f) s = execMswap f s := rfl
theorem exec_ms (f : Sched) (z : Bool) (d : Reg) (a : Reg) (b : Reg) (s : State) : exec (.ms f z d a b) s = execMs f z d a b s := rfl
theorem exec_mst (f : Sched) (z : Bool) (d : Reg) (a : Reg) (b : Reg) (s : State) : exec (.mst f z d a b) s = execMst f z d a b s := rfl
theorem exec_mchain (f : Sched) (cm1 : BitVec 2) (s : State) : exec (.mchain f cm1) s = execMchain f cm1 s := rfl
theorem exec_mq (f : Sched) (sel : BitVec 2) (clr : Bool) (d : Reg) (s : State) : exec (.mq f sel clr d) s = execMq f sel clr d s := rfl
theorem exec_cp (f : Sched) (ch : BitVec 2) (exp : Bool) (d : Reg) (a : Reg) (b : Reg) (s : State) : exec (.cp f ch exp d a b) s = execCp f ch exp d a b s := rfl
theorem exec_cpG (f : Sched) (ch : BitVec 2) (exp : Bool) (d : Reg) (a : Reg) (b : Reg) (s : State) : exec (.cpG f ch exp d a b) s = execCpG f ch exp d a b s := rfl
theorem exec_cpS (f : Sched) (ch : BitVec 2) (exp : Bool) (d : Reg) (a : Reg) (b : Reg) (s : State) : exec (.cpS f ch exp d a b) s = execCpS f ch exp d a b s := rfl
theorem exec_cpRed (f : Sched) (ch : BitVec 2) (exp : Bool) (fmt : BitVec 5) (op : BitVec 3) (d : Reg) (a : Reg) (b : Reg) (s : State) : exec (.cpRed f ch exp fmt op d a b) s = execCpRed f ch exp fmt op d a b s := rfl
theorem exec_cpwp (f : Sched) (ch : BitVec 2) (d : Reg) (s : State) : exec (.cpwp f ch d) s = execCpwp f ch d s := rfl
theorem exec_collAr (f : Sched) (exp : Bool) (fmt : BitVec 5) (op : BitVec 3) (d : Reg) (a : Reg) (b : Reg) (s : State) : exec (.collAr f exp fmt op d a b) s = execCollAr f exp fmt op d a b s := rfl
theorem exec_collAg (f : Sched) (exp : Bool) (d : Reg) (a : Reg) (b : Reg) (s : State) : exec (.collAg f exp d a b) s = execCollAg f exp d a b s := rfl
theorem exec_collRs (f : Sched) (exp : Bool) (fmt : BitVec 5) (op : BitVec 3) (d : Reg) (a : Reg) (b : Reg) (s : State) : exec (.collRs f exp fmt op d a b) s = execCollRs f exp fmt op d a b s := rfl
theorem exec_collBc (f : Sched) (exp : Bool) (d : Reg) (a : Reg) (b : Reg) (s : State) : exec (.collBc f exp d a b) s = execCollBc f exp d a b s := rfl
theorem exec_netGet (f : Sched) (exp : Bool) (d : Reg) (a : Reg) (b : Reg) (s : State) : exec (.netGet f exp d a b) s = execNetGet f exp d a b s := rfl
theorem exec_netPut (f : Sched) (exp : Bool) (d : Reg) (a : Reg) (b : Reg) (s : State) : exec (.netPut f exp d a b) s = execNetPut f exp d a b s := rfl
theorem exec_netRead (f : Sched) (exp : Bool) (d : Reg) (a : Reg) (b : Reg) (s : State) : exec (.netRead f exp d a b) s = execNetRead f exp d a b s := rfl
theorem exec_trap (f : Sched) (n : BitVec 16) (d : Reg) (a : Reg) (b : Reg) (s : State) : exec (.trap f n d a b) s = execTrap f n d a b s := rfl
theorem exec_brk (f : Sched) (n : BitVec 16) (s : State) : exec (.brk f n) s = execBrk f n s := rfl
theorem exec_rft (f : Sched) (s : State) : exec (.rft f) s = execRft f s := rfl
theorem exec_sysrd (f : Sched) (reg : BitVec 16) (inst : BitVec 16) (d : Reg) (s : State) : exec (.sysrd f reg inst d) s = execSysrd f reg inst d s := rfl
theorem exec_syswr (f : Sched) (reg : BitVec 16) (inst : BitVec 16) (a : Reg) (s : State) : exec (.syswr f reg inst a) s = execSyswr f reg inst a s := rfl
theorem exec_tinv (f : Sched) (ctx : BitVec 6) (all : Bool) (a : Reg) (b : Reg) (s : State) : exec (.tinv f ctx all a b) s = execTinv f ctx all a b s := rfl
theorem exec_halt (f : Sched) (mask : BitVec 4) (limit : BitVec 24) (d : Reg) (s : State) : exec (.halt f mask limit d) s = execHalt f mask limit d s := rfl
theorem exec_snap (f : Sched) (d : Reg) (a : Reg) (b : Reg) (s : State) : exec (.snap f d a b) s = execSnap f d a b s := rfl
theorem exec_slotset (f : Sched) (g : BitVec 2) (d : Reg) (a : Reg) (s : State) : exec (.slotset f g d a) s = execSlotset f g d a s := rfl
theorem exec_accessPerform (agent : Nat) (s : State) : exec (.accessPerform agent) s = execAccessPerform agent s := rfl
theorem exec_syncPushAck (agent : Nat) (cluster : Nat) (s : State) : exec (.syncPushAck agent cluster) s = execSyncPushAck agent cluster s := rfl
theorem exec_l1RenewalReply (agent : Nat) (s : State) : exec (.l1RenewalReply agent) s = execL1RenewalReply agent s := rfl
theorem exec_faultReply (agent : Nat) (s : State) : exec (.faultReply agent) s = execFaultReply agent s := rfl
theorem exec_engineStart (cmd : Nat) (s : State) : exec (.engineStart cmd) s = execEngineStart cmd s := rfl
theorem exec_engineComplete (cmd : Nat) (s : State) : exec (.engineComplete cmd) s = execEngineComplete cmd s := rfl
theorem exec_hurdleTimeout (agent : Nat) (pcb : Bool) (s : State) : exec (.hurdleTimeout agent pcb) s = execHurdleTimeout agent pcb s := rfl
theorem exec_waitwLimitExpiry (agent : Nat) (pcb : Bool) (s : State) : exec (.waitwLimitExpiry agent pcb) s = execWaitwLimitExpiry agent pcb s := rfl
theorem exec_haltWake (agent : Nat) (s : State) : exec (.haltWake agent) s = execHaltWake agent s := rfl
theorem exec_watchdog (block : Nat) (s : State) : exec (.watchdog block) s = execWatchdog block s := rfl
theorem exec_ptsCreep (core : Nat) (s : State) : exec (.ptsCreep core) s = execPtsCreep core s := rfl
theorem exec_yieldSave (block : Nat) (s : State) : exec (.yieldSave block) s = execYieldSave block s := rfl
theorem exec_yieldResumeRecord (task : Nat) (s : State) : exec (.yieldResumeRecord task) s = execYieldResumeRecord task s := rfl
theorem exec_tendPoint (block : Nat) (s : State) : exec (.tendPoint block) s = execTendPoint block s := rfl
theorem exec_mergeComplete (task : Nat) (s : State) : exec (.mergeComplete task) s = execMergeComplete task s := rfl
theorem exec_taskPlace (node : Nat) (s : State) : exec (.taskPlace node) s = execTaskPlace node s := rfl
theorem exec_batchTimerExpiry (node : Nat) (s : State) : exec (.batchTimerExpiry node) s = execBatchTimerExpiry node s := rfl
theorem exec_f0Refill (block : Nat) (s : State) : exec (.f0Refill block) s = execF0Refill block s := rfl
theorem exec_lapStart (s : State) : exec (.lapStart) s = execLapStart s := rfl
theorem exec_scrubAndDropSweep (slice : Nat) (s : State) : exec (.scrubAndDropSweep slice) s = execScrubAndDropSweep slice s := rfl
theorem exec_lineEviction (line : Nat) (s : State) : exec (.lineEviction line) s = execLineEviction line s := rfl
theorem exec_snapshotDrain (snap : Nat) (s : State) : exec (.snapshotDrain snap) s = execSnapshotDrain snap s := rfl
theorem exec_frozenGranuleCopy (agent : Nat) (s : State) : exec (.frozenGranuleCopy agent) s = execFrozenGranuleCopy agent s := rfl
theorem exec_migrationSlot (s : State) : exec (.migrationSlot) s = execMigrationSlot s := rfl
theorem exec_telemetrySlot (stack : Nat) (s : State) : exec (.telemetrySlot stack) s = execTelemetrySlot stack s := rfl
theorem exec_collAnnouncement (cmd : Nat) (s : State) : exec (.collAnnouncement cmd) s = execCollAnnouncement cmd s := rfl
theorem exec_collTimeLimit (cmd : Nat) (s : State) : exec (.collTimeLimit cmd) s = execCollTimeLimit cmd s := rfl
theorem exec_endpointTimeLimit (cmd : Nat) (s : State) : exec (.endpointTimeLimit cmd) s = execEndpointTimeLimit cmd s := rfl
theorem exec_transportFailure (cmd : Nat) (s : State) : exec (.transportFailure cmd) s = execTransportFailure cmd s := rfl
theorem exec_nvmeCompletion (cmd : Nat) (status : BitVec 16) (s : State) : exec (.nvmeCompletion cmd status) s = execNvmeCompletion cmd status s := rfl
theorem exec_nopPacket (queue : Nat) (s : State) : exec (.nopPacket queue) s = execNopPacket queue s := rfl
theorem exec_recordPacket (queue : Nat) (s : State) : exec (.recordPacket queue) s = execRecordPacket queue s := rfl
theorem exec_nodeDef (queue : Nat) (s : State) : exec (.nodeDef queue) s = execNodeDef queue s := rfl
theorem exec_nodeDel (queue : Nat) (s : State) : exec (.nodeDel queue) s = execNodeDel queue s := rfl
theorem exec_commDef (queue : Nat) (s : State) : exec (.commDef queue) s = execCommDef queue s := rfl
theorem exec_epDef (queue : Nat) (s : State) : exec (.epDef queue) s = execEpDef queue s := rfl
theorem exec_vpool (queue : Nat) (s : State) : exec (.vpool queue) s = execVpool queue s := rfl
theorem exec_qcreate (queue : Nat) (s : State) : exec (.qcreate queue) s = execQcreate queue s := rfl
theorem exec_qdestroy (queue : Nat) (s : State) : exec (.qdestroy queue) s = execQdestroy queue s := rfl
theorem exec_aminv (agent : Nat) (s : State) : exec (.aminv agent) s = execAminv agent s := rfl
theorem exec_fqreplyResume (agent : Nat) (s : State) : exec (.fqreplyResume agent) s = execFqreplyResume agent s := rfl
theorem exec_fqreplyDecline (agent : Nat) (s : State) : exec (.fqreplyDecline agent) s = execFqreplyDecline agent s := rfl
theorem exec_migrate (agent : Nat) (s : State) : exec (.migrate agent) s = execMigrate agent s := rfl
theorem exec_unmap (agent : Nat) (s : State) : exec (.unmap agent) s = execUnmap agent s := rfl
theorem exec_icmsg (agent : Nat) (s : State) : exec (.icmsg agent) s = execIcmsg agent s := rfl
theorem exec_hirq (agent : Nat) (s : State) : exec (.hirq agent) s = execHirq agent s := rfl
theorem exec_vacate (agent : Nat) (s : State) : exec (.vacate agent) s = execVacate agent s := rfl
theorem exec_crst (agent : Nat) (s : State) : exec (.crst agent) s = execCrst agent s := rfl
theorem exec_l2hmWrite (agent : Nat) (s : State) : exec (.l2hmWrite agent) s = execL2hmWrite agent s := rfl
theorem exec_pwrstRequest (agent : Nat) (s : State) : exec (.pwrstRequest agent) s = execPwrstRequest agent s := rfl
theorem exec_clusterPowerStateReached (cluster : Nat) (s : State) : exec (.clusterPowerStateReached cluster) s = execClusterPowerStateReached cluster s := rfl
theorem exec_herrRead (agent : Nat) (s : State) : exec (.herrRead agent) s = execHerrRead agent s := rfl
theorem exec_icpendRead (agent : Nat) (s : State) : exec (.icpendRead agent) s = execIcpendRead agent s := rfl
theorem exec_clampcRead (agent : Nat) (s : State) : exec (.clampcRead agent) s = execClampcRead agent s := rfl
theorem exec_srdropRead (agent : Nat) (s : State) : exec (.srdropRead agent) s = execSrdropRead agent s := rfl
theorem exec_sysregWrite (agent : Nat) (s : State) : exec (.sysregWrite agent) s = execSysregWrite agent s := rfl
theorem exec_asynchronousCompletion (op : Nat) (s : State) : exec (.asynchronousCompletion op) s = execAsynchronousCompletion op s := rfl
theorem exec_getCertificate (slot : Nat) (s : State) : exec (.getCertificate slot) s = execGetCertificate slot s := rfl
theorem exec_challenge (slot : Nat) (s : State) : exec (.challenge slot) s = execChallenge slot s := rfl
theorem exec_getMeasurements (index : Nat) (s : State) : exec (.getMeasurements index) s = execGetMeasurements index s := rfl
theorem exec_unsupportedRequest (code : Nat) (s : State) : exec (.unsupportedRequest code) s = execUnsupportedRequest code s := rfl
theorem exec_powerClamp (core : Nat) (s : State) : exec (.powerClamp core) s = execPowerClamp core s := rfl
theorem exec_thermalTrip (die : Nat) (temp : BitVec 16) (s : State) : exec (.thermalTrip die temp) s = execThermalTrip die temp s := rfl
theorem exec_thermalResume (die : Nat) (temp : BitVec 16) (s : State) : exec (.thermalResume die temp) s = execThermalResume die temp s := rfl
theorem exec_backInvalidateAcknowledged (line : Nat) (data : List Byte) (s : State) : exec (.backInvalidateAcknowledged line data) s = execBackInvalidateAcknowledged line data s := rfl
theorem exec_firmwareEndsTheTask (task : Nat) (s : State) : exec (.firmwareEndsTheTask task) s = execFirmwareEndsTheTask task s := rfl
theorem exec_groupRetrains (group : Nat) (s : State) : exec (.groupRetrains group) s = execGroupRetrains group s := rfl
theorem exec_peerRemoteAccess (ep : Nat) (va : Addr) (kind : PeerKind) (pts : Nat) (bytes : List Byte) (s : State) :
    exec (.peerRemoteAccess ep va kind pts bytes) s = execPeerRemoteAccess ep va kind pts bytes s := rfl
theorem exec_hostCxlMemRead (req : HostRange) (s : State) : exec (.hostCxlMemRead req) s = execHostCxlMemRead req s := rfl
theorem exec_hostCxlMemWrite (hpa : Nat) (bytes : List Byte) (s : State) : exec (.hostCxlMemWrite hpa bytes) s = execHostCxlMemWrite hpa bytes s := rfl
theorem exec_snpData (line : Nat) (s : State) : exec (.snpData line) s = execSnpData line s := rfl
theorem exec_snpInv (line : Nat) (s : State) : exec (.snpInv line) s = execSnpInv line s := rfl
theorem exec_snpCur (line : Nat) (s : State) : exec (.snpCur line) s = execSnpCur line s := rfl
theorem exec_getVersion (s : State) : exec (.getVersion) s = execGetVersion s := rfl
theorem exec_getCapabilities (s : State) : exec (.getCapabilities) s = execGetCapabilities s := rfl
theorem exec_negotiateAlgorithms (s : State) : exec (.negotiateAlgorithms) s = execNegotiateAlgorithms s := rfl
theorem exec_getDigests (s : State) : exec (.getDigests) s = execGetDigests s := rfl
theorem exec_cdatRequest (s : State) : exec (.cdatRequest) s = execCdatRequest s := rfl
theorem exec_powerOnReset (s : State) : exec (.powerOnReset) s = execPowerOnReset s := rfl
theorem exec_functionLevelReset (s : State) : exec (.functionLevelReset) s = execFunctionLevelReset s := rfl
theorem exec_linkDown (s : State) : exec (.linkDown) s = execLinkDown s := rfl
theorem exec_linkUp (s : State) : exec (.linkUp) s = execLinkUp s := rfl
end Sys2Proof.Machine
end

