-- ==== Sys2Proof/Laws/Tbl.lean ====
section
/-! SUPPORT. Reading after writing, and the canonical form, of sparse tables. The reading laws hold of every table,
sorted or not. -/
namespace Sys2Proof.Machine

variable {α : Type}

theorem kget_kset (t : Tbl α) (j i : Nat) (x : α) : kget (kset t j x) i = if i = j then some x else kget t i := by
  induction t with
  | nil => simp [kset, kget]
  | cons e t ih =>
    obtain ⟨k, v⟩ := e
    by_cases h1 : j = k
    · subst h1
      by_cases h2 : i = j <;> simp [kset, kget, h2]
    · by_cases h3 : j < k
      · by_cases h2 : i = j <;> simp [kset, kget, h1, h2, h3]
      · simp only [kset, h1, h3, if_false, kget, ih]
        by_cases h2 : i = k
        · have : i ≠ j := by omega
          simp [h2, Ne.symm h1]
        · simp [h2]

@[simp] theorem kget_kset_same (t : Tbl α) (j : Nat) (x : α) : kget (kset t j x) j = some x := by simp [kget_kset]

theorem kget_kset_ne (t : Tbl α) {j i : Nat} (x : α) (h : i ≠ j) : kget (kset t j x) i = kget t i := by
  simp [kget_kset, h]

theorem kget_kdel (t : Tbl α) (j i : Nat) : kget (kdel t j) i = if i = j then none else kget t i := by
  induction t with
  | nil => simp [kdel, kget]
  | cons e t ih =>
    obtain ⟨k, v⟩ := e
    unfold kdel at ih ⊢
    by_cases h1 : k = j
    · subst h1
      simp only [List.filter_cons, ne_eq, not_true_eq_false, decide_false, Bool.false_eq_true, if_false, ih, kget]
      by_cases h2 : i = k <;> simp [h2]
    · simp only [List.filter_cons, ne_eq, h1, not_false_eq_true, decide_true, if_true, kget, ih]
      by_cases h2 : i = k
      · subst h2; simp [h1]
      · simp [h2]

theorem kget_kmod (t : Tbl α) (j i : Nat) (g : α → α) :
    kget (kmod t j g) i = if i = j then (kget t j).map g else kget t i := by
  unfold kmod
  cases h : kget t j with
  | none => by_cases h2 : i = j <;> simp [h2, h]
  | some x => by_cases h2 : i = j <;> simp [h2, kget_kset]

/-- Reading a table with a default after a write to it. -/
theorem dget_dset [DecidableEq α] (dflt : α) (t : Tbl α) (j i : Nat) (x : α) :
    dget dflt (dset dflt t j x) i = if i = j then x else dget dflt t i := by
  unfold dget dset
  by_cases h : x = dflt
  · subst h; by_cases h2 : i = j <;> simp [kget_kdel, h2]
  · by_cases h2 : i = j <;> simp [h, kget_kset, h2]

@[simp] theorem dget_dset_same [DecidableEq α] (dflt : α) (t : Tbl α) (j : Nat) (x : α) :
    dget dflt (dset dflt t j x) j = x := by simp [dget_dset]

theorem dget_dset_ne [DecidableEq α] (dflt : α) (t : Tbl α) {j i : Nat} (x : α) (h : i ≠ j) :
    dget dflt (dset dflt t j x) i = dget dflt t i := by simp [dget_dset, h]

/-! ### The canonical form -/

theorem sortedKeys_iff (t : Tbl α) : sortedKeys t = true ↔ t.Pairwise fun a b => a.1 < b.1 := by
  induction t with
  | nil => simp [sortedKeys]
  | cons e t ih =>
    cases t with
    | nil => simp [sortedKeys]
    | cons e' t =>
      obtain ⟨k, v⟩ := e
      obtain ⟨k', v'⟩ := e'
      simp only [sortedKeys, Bool.and_eq_true, decide_eq_true_eq, ih, List.pairwise_cons, List.mem_cons]
      constructor
      · rintro ⟨h, h1, h2⟩
        refine ⟨?_, h1, h2⟩
        rintro a (rfl | ha)
        · exact h
        · exact lt_trans h (h1 a ha)
      · rintro ⟨h, h1, h2⟩
        exact ⟨h (k', v') (Or.inl rfl), h1, h2⟩

theorem canonical_iff [DecidableEq α] (dflt : α) (t : Tbl α) :
    canonical dflt t = true ↔ (t.Pairwise fun a b => a.1 < b.1) ∧ ∀ e ∈ t, e.2 ≠ dflt := by
  simp [canonical, sortedKeys_iff]

theorem mem_kset {t : Tbl α} {j : Nat} {x : α} {e : Nat × α} (h : e ∈ kset t j x) : e = (j, x) ∨ e ∈ t := by
  induction t with
  | nil => simpa [kset] using h
  | cons a t ih =>
    obtain ⟨k, v⟩ := a
    simp only [kset] at h
    split at h
    · rcases List.mem_cons.1 h with h | h <;> simp [h]
    · split at h
      · rcases List.mem_cons.1 h with h | h
        · simp [h]
        · exact Or.inr h
      · rcases List.mem_cons.1 h with h | h
        · simp [h]
        · rcases ih h with h | h <;> simp [h]

theorem kset_sorted {t : Tbl α} (h : t.Pairwise fun a b => a.1 < b.1) (j : Nat) (x : α) :
    (kset t j x).Pairwise fun a b => a.1 < b.1 := by
  induction t with
  | nil => simp [kset]
  | cons a t ih =>
    obtain ⟨k, v⟩ := a
    obtain ⟨h1, h2⟩ := List.pairwise_cons.1 h
    simp only [kset]
    split
    · next e => subst e; exact List.pairwise_cons.2 ⟨h1, h2⟩
    · next ne =>
      split
      · next lt =>
        refine List.pairwise_cons.2 ⟨?_, h⟩
        intro b hb
        rcases List.mem_cons.1 hb with rfl | hb
        · exact lt
        · exact lt_trans lt (h1 b hb)
      · next nlt =>
        refine List.pairwise_cons.2 ⟨?_, ih h2⟩
        intro b hb
        rcases mem_kset hb with rfl | hb
        · show k < j
          omega
        · exact h1 b hb

/-- A write to a table with a default keeps its canonical form. -/
theorem dset_canonical [DecidableEq α] (dflt : α) {t : Tbl α} (h : canonical dflt t = true) (j : Nat) (x : α) :
    canonical dflt (dset dflt t j x) = true := by
  rw [canonical_iff] at h ⊢
  unfold dset
  split
  · exact ⟨h.1.filter _, fun e he => h.2 e (List.mem_of_mem_filter he)⟩
  · next hx =>
    refine ⟨kset_sorted h.1 j x, fun e he => ?_⟩
    rcases mem_kset he with rfl | he
    · exact hx
    · exact h.2 e he

/-- Leaving out entries keeps the canonical form. -/
theorem filter_canonical [DecidableEq α] (dflt : α) {t : Tbl α} (h : canonical dflt t = true) (p : Nat × α → Bool) :
    canonical dflt (t.filter p) = true := by
  rw [canonical_iff] at h ⊢
  exact ⟨h.1.filter _, fun e he => h.2 e (List.mem_of_mem_filter he)⟩

end Sys2Proof.Machine
end

