-- ==== Sys2Proof/Laws/State.lean ====
section
/-! SUPPORT. What each update of the state and of a wave leaves alone, one lemma per field, and the waves and blocks read
after an update. -/
namespace Sys2Proof.Machine

/-! ### State.setByte -/

@[simp] theorem State.setByte_agenda (s : State) (k : Nat) (b : Byte) : (s.setByte k b).agenda = s.agenda := rfl
@[simp] theorem State.setByte_turn (s : State) (k : Nat) (b : Byte) : (s.setByte k b).turn = s.turn := rfl
@[simp] theorem State.setByte_free (s : State) (k : Nat) (b : Byte) : (s.setByte k b).free = s.free := rfl
@[simp] theorem State.setByte_uid (s : State) (k : Nat) (b : Byte) : (s.setByte k b).uid = s.uid := rfl
@[simp] theorem State.setByte_clk (s : State) (k : Nat) (b : Byte) : (s.setByte k b).clk = s.clk := rfl
@[simp] theorem State.setByte_poison (s : State) (k : Nat) (b : Byte) : (s.setByte k b).poison = s.poison := rfl
@[simp] theorem State.setByte_ltime (s : State) (k : Nat) (b : Byte) : (s.setByte k b).ltime = s.ltime := rfl
@[simp] theorem State.setByte_sys (s : State) (k : Nat) (b : Byte) : (s.setByte k b).sys = s.sys := rfl
@[simp] theorem State.setByte_ctl (s : State) (k : Nat) (b : Byte) : (s.setByte k b).ctl = s.ctl := rfl
@[simp] theorem State.setByte_slotTab (s : State) (k : Nat) (b : Byte) : (s.setByte k b).slotTab = s.slotTab := rfl
@[simp] theorem State.setByte_slotNext (s : State) (k : Nat) (b : Byte) : (s.setByte k b).slotNext = s.slotNext := rfl
@[simp] theorem State.setByte_lap (s : State) (k : Nat) (b : Byte) : (s.setByte k b).lap = s.lap := rfl
@[simp] theorem State.setByte_waves (s : State) (k : Nat) (b : Byte) : (s.setByte k b).waves = s.waves := rfl
@[simp] theorem State.setByte_blocks (s : State) (k : Nat) (b : Byte) : (s.setByte k b).blocks = s.blocks := rfl
@[simp] theorem State.setByte_arrays (s : State) (k : Nat) (b : Byte) : (s.setByte k b).arrays = s.arrays := rfl
@[simp] theorem State.setByte_chwp (s : State) (k : Nat) (b : Byte) : (s.setByte k b).chwp = s.chwp := rfl
@[simp] theorem State.setByte_chStarted (s : State) (k : Nat) (b : Byte) : (s.setByte k b).chStarted = s.chStarted := rfl
@[simp] theorem State.setByte_chPts (s : State) (k : Nat) (b : Byte) : (s.setByte k b).chPts = s.chPts := rfl
@[simp] theorem State.setByte_cmds (s : State) (k : Nat) (b : Byte) : (s.setByte k b).cmds = s.cmds := rfl
@[simp] theorem State.setByte_coreReset (s : State) (k : Nat) (b : Byte) : (s.setByte k b).coreReset = s.coreReset := rfl
@[simp] theorem State.setByte_wins (s : State) (k : Nat) (b : Byte) : (s.setByte k b).wins = s.wins := rfl
@[simp] theorem State.setByte_leaves (s : State) (k : Nat) (b : Byte) : (s.setByte k b).leaves = s.leaves := rfl
@[simp] theorem State.setByte_freed (s : State) (k : Nat) (b : Byte) : (s.setByte k b).freed = s.freed := rfl
@[simp] theorem State.setByte_drops (s : State) (k : Nat) (b : Byte) : (s.setByte k b).drops = s.drops := rfl
@[simp] theorem State.setByte_place (s : State) (k : Nat) (b : Byte) : (s.setByte k b).place = s.place := rfl
@[simp] theorem State.setByte_lines (s : State) (k : Nat) (b : Byte) : (s.setByte k b).lines = s.lines := rfl
@[simp] theorem State.setByte_l1 (s : State) (k : Nat) (b : Byte) : (s.setByte k b).l1 = s.l1 := rfl
@[simp] theorem State.setByte_sliceBase (s : State) (k : Nat) (b : Byte) : (s.setByte k b).sliceBase = s.sliceBase := rfl
@[simp] theorem State.setByte_trans (s : State) (k : Nat) (b : Byte) : (s.setByte k b).trans = s.trans := rfl
@[simp] theorem State.setByte_bridgePts (s : State) (k : Nat) (b : Byte) : (s.setByte k b).bridgePts = s.bridgePts := rfl
@[simp] theorem State.setByte_hostHalf (s : State) (k : Nat) (b : Byte) : (s.setByte k b).hostHalf = s.hostHalf := rfl
@[simp] theorem State.setByte_hostAck (s : State) (k : Nat) (b : Byte) : (s.setByte k b).hostAck = s.hostAck := rfl
@[simp] theorem State.setByte_nodes (s : State) (k : Nat) (b : Byte) : (s.setByte k b).nodes = s.nodes := rfl
@[simp] theorem State.setByte_tasks (s : State) (k : Nat) (b : Byte) : (s.setByte k b).tasks = s.tasks := rfl
@[simp] theorem State.setByte_batons (s : State) (k : Nat) (b : Byte) : (s.setByte k b).batons = s.batons := rfl
@[simp] theorem State.setByte_rrNode (s : State) (k : Nat) (b : Byte) : (s.setByte k b).rrNode = s.rrNode := rfl
@[simp] theorem State.setByte_pools (s : State) (k : Nat) (b : Byte) : (s.setByte k b).pools = s.pools := rfl
@[simp] theorem State.setByte_queues (s : State) (k : Nat) (b : Byte) : (s.setByte k b).queues = s.queues := rfl
@[simp] theorem State.setByte_comms (s : State) (k : Nat) (b : Byte) : (s.setByte k b).comms = s.comms := rfl
@[simp] theorem State.setByte_eps (s : State) (k : Nat) (b : Byte) : (s.setByte k b).eps = s.eps := rfl
@[simp] theorem State.setByte_frecs (s : State) (k : Nat) (b : Byte) : (s.setByte k b).frecs = s.frecs := rfl
@[simp] theorem State.setByte_fqHeld (s : State) (k : Nat) (b : Byte) : (s.setByte k b).fqHeld = s.fqHeld := rfl
@[simp] theorem State.setByte_irqs (s : State) (k : Nat) (b : Byte) : (s.setByte k b).irqs = s.irqs := rfl
@[simp] theorem State.setByte_boot (s : State) (k : Nat) (b : Byte) : (s.setByte k b).boot = s.boot := rfl
@[simp] theorem State.setByte_linkUp (s : State) (k : Nat) (b : Byte) : (s.setByte k b).linkUp = s.linkUp := rfl
@[simp] theorem State.setByte_thermStop (s : State) (k : Nat) (b : Byte) : (s.setByte k b).thermStop = s.thermStop := rfl
@[simp] theorem State.setByte_clamped (s : State) (k : Nat) (b : Byte) : (s.setByte k b).clamped = s.clamped := rfl
@[simp] theorem State.setByte_doe (s : State) (k : Nat) (b : Byte) : (s.setByte k b).doe = s.doe := rfl
@[simp] theorem State.setByte_pageOp (s : State) (k : Nat) (b : Byte) : (s.setByte k b).pageOp = s.pageOp := rfl
@[simp] theorem State.setByte_vacates (s : State) (k : Nat) (b : Byte) : (s.setByte k b).vacates = s.vacates := rfl
@[simp] theorem State.setByte_snaps (s : State) (k : Nat) (b : Byte) : (s.setByte k b).snaps = s.snaps := rfl
@[simp] theorem State.setByte_snapNum (s : State) (k : Nat) (b : Byte) : (s.setByte k b).snapNum = s.snapNum := rfl
@[simp] theorem State.setByte_frozen (s : State) (k : Nat) (b : Byte) : (s.setByte k b).frozen = s.frozen := rfl
@[simp] theorem State.setByte_asyncs (s : State) (k : Nat) (b : Byte) : (s.setByte k b).asyncs = s.asyncs := rfl
@[simp] theorem State.setByte_sampled (s : State) (k : Nat) (b : Byte) : (s.setByte k b).sampled = s.sampled := rfl
@[simp] theorem State.setByte_groups (s : State) (k : Nat) (b : Byte) : (s.setByte k b).groups = s.groups := rfl
@[simp] theorem State.setByte_hostData (s : State) (k : Nat) (b : Byte) : (s.setByte k b).hostData = s.hostData := rfl
@[simp] theorem State.setByte_saveUse (s : State) (k : Nat) (b : Byte) : (s.setByte k b).saveUse = s.saveUse := rfl
@[simp] theorem State.setByte_crept (s : State) (k : Nat) (b : Byte) : (s.setByte k b).crept = s.crept := rfl
@[simp] theorem State.setByte_spares (s : State) (k : Nat) (b : Byte) : (s.setByte k b).spares = s.spares := rfl
@[simp] theorem State.setByte_ports (s : State) (k : Nat) (b : Byte) : (s.setByte k b).ports = s.ports := rfl
@[simp] theorem State.setByte_clampAt (s : State) (k : Nat) (b : Byte) : (s.setByte k b).clampAt = s.clampAt := rfl
@[simp] theorem State.setByte_slotAt (s : State) (k : Nat) (b : Byte) : (s.setByte k b).slotAt = s.slotAt := rfl
@[simp] theorem State.setByte_slotUse (s : State) (k : Nat) (b : Byte) : (s.setByte k b).slotUse = s.slotUse := rfl
@[simp] theorem State.setByte_cursors (s : State) (k : Nat) (b : Byte) : (s.setByte k b).cursors = s.cursors := rfl
@[simp] theorem State.setByte_asked (s : State) (k : Nat) (b : Byte) : (s.setByte k b).asked = s.asked := rfl
@[simp] theorem State.setByte_errs (s : State) (k : Nat) (b : Byte) : (s.setByte k b).errs = s.errs := rfl
@[simp] theorem State.setByte_flaws (s : State) (k : Nat) (b : Byte) : (s.setByte k b).flaws = s.flaws := rfl

/-! ### State.setSys -/

@[simp] theorem State.setSys_agenda (s : State) (reg inst : Nat) (x : BitVec 64) : (s.setSys reg inst x).agenda = s.agenda := rfl
@[simp] theorem State.setSys_turn (s : State) (reg inst : Nat) (x : BitVec 64) : (s.setSys reg inst x).turn = s.turn := rfl
@[simp] theorem State.setSys_free (s : State) (reg inst : Nat) (x : BitVec 64) : (s.setSys reg inst x).free = s.free := rfl
@[simp] theorem State.setSys_uid (s : State) (reg inst : Nat) (x : BitVec 64) : (s.setSys reg inst x).uid = s.uid := rfl
@[simp] theorem State.setSys_clk (s : State) (reg inst : Nat) (x : BitVec 64) : (s.setSys reg inst x).clk = s.clk := rfl
@[simp] theorem State.setSys_mem (s : State) (reg inst : Nat) (x : BitVec 64) : (s.setSys reg inst x).mem = s.mem := rfl
@[simp] theorem State.setSys_poison (s : State) (reg inst : Nat) (x : BitVec 64) : (s.setSys reg inst x).poison = s.poison := rfl
@[simp] theorem State.setSys_ltime (s : State) (reg inst : Nat) (x : BitVec 64) : (s.setSys reg inst x).ltime = s.ltime := rfl
@[simp] theorem State.setSys_ctl (s : State) (reg inst : Nat) (x : BitVec 64) : (s.setSys reg inst x).ctl = s.ctl := rfl
@[simp] theorem State.setSys_slotTab (s : State) (reg inst : Nat) (x : BitVec 64) : (s.setSys reg inst x).slotTab = s.slotTab := rfl
@[simp] theorem State.setSys_slotNext (s : State) (reg inst : Nat) (x : BitVec 64) : (s.setSys reg inst x).slotNext = s.slotNext := rfl
@[simp] theorem State.setSys_lap (s : State) (reg inst : Nat) (x : BitVec 64) : (s.setSys reg inst x).lap = s.lap := rfl
@[simp] theorem State.setSys_waves (s : State) (reg inst : Nat) (x : BitVec 64) : (s.setSys reg inst x).waves = s.waves := rfl
@[simp] theorem State.setSys_blocks (s : State) (reg inst : Nat) (x : BitVec 64) : (s.setSys reg inst x).blocks = s.blocks := rfl
@[simp] theorem State.setSys_arrays (s : State) (reg inst : Nat) (x : BitVec 64) : (s.setSys reg inst x).arrays = s.arrays := rfl
@[simp] theorem State.setSys_chwp (s : State) (reg inst : Nat) (x : BitVec 64) : (s.setSys reg inst x).chwp = s.chwp := rfl
@[simp] theorem State.setSys_chStarted (s : State) (reg inst : Nat) (x : BitVec 64) : (s.setSys reg inst x).chStarted = s.chStarted := rfl
@[simp] theorem State.setSys_chPts (s : State) (reg inst : Nat) (x : BitVec 64) : (s.setSys reg inst x).chPts = s.chPts := rfl
@[simp] theorem State.setSys_cmds (s : State) (reg inst : Nat) (x : BitVec 64) : (s.setSys reg inst x).cmds = s.cmds := rfl
@[simp] theorem State.setSys_coreReset (s : State) (reg inst : Nat) (x : BitVec 64) : (s.setSys reg inst x).coreReset = s.coreReset := rfl
@[simp] theorem State.setSys_wins (s : State) (reg inst : Nat) (x : BitVec 64) : (s.setSys reg inst x).wins = s.wins := rfl
@[simp] theorem State.setSys_leaves (s : State) (reg inst : Nat) (x : BitVec 64) : (s.setSys reg inst x).leaves = s.leaves := rfl
@[simp] theorem State.setSys_freed (s : State) (reg inst : Nat) (x : BitVec 64) : (s.setSys reg inst x).freed = s.freed := rfl
@[simp] theorem State.setSys_drops (s : State) (reg inst : Nat) (x : BitVec 64) : (s.setSys reg inst x).drops = s.drops := rfl
@[simp] theorem State.setSys_place (s : State) (reg inst : Nat) (x : BitVec 64) : (s.setSys reg inst x).place = s.place := rfl
@[simp] theorem State.setSys_lines (s : State) (reg inst : Nat) (x : BitVec 64) : (s.setSys reg inst x).lines = s.lines := rfl
@[simp] theorem State.setSys_l1 (s : State) (reg inst : Nat) (x : BitVec 64) : (s.setSys reg inst x).l1 = s.l1 := rfl
@[simp] theorem State.setSys_sliceBase (s : State) (reg inst : Nat) (x : BitVec 64) : (s.setSys reg inst x).sliceBase = s.sliceBase := rfl
@[simp] theorem State.setSys_trans (s : State) (reg inst : Nat) (x : BitVec 64) : (s.setSys reg inst x).trans = s.trans := rfl
@[simp] theorem State.setSys_bridgePts (s : State) (reg inst : Nat) (x : BitVec 64) : (s.setSys reg inst x).bridgePts = s.bridgePts := rfl
@[simp] theorem State.setSys_hostHalf (s : State) (reg inst : Nat) (x : BitVec 64) : (s.setSys reg inst x).hostHalf = s.hostHalf := rfl
@[simp] theorem State.setSys_hostAck (s : State) (reg inst : Nat) (x : BitVec 64) : (s.setSys reg inst x).hostAck = s.hostAck := rfl
@[simp] theorem State.setSys_nodes (s : State) (reg inst : Nat) (x : BitVec 64) : (s.setSys reg inst x).nodes = s.nodes := rfl
@[simp] theorem State.setSys_tasks (s : State) (reg inst : Nat) (x : BitVec 64) : (s.setSys reg inst x).tasks = s.tasks := rfl
@[simp] theorem State.setSys_batons (s : State) (reg inst : Nat) (x : BitVec 64) : (s.setSys reg inst x).batons = s.batons := rfl
@[simp] theorem State.setSys_rrNode (s : State) (reg inst : Nat) (x : BitVec 64) : (s.setSys reg inst x).rrNode = s.rrNode := rfl
@[simp] theorem State.setSys_pools (s : State) (reg inst : Nat) (x : BitVec 64) : (s.setSys reg inst x).pools = s.pools := rfl
@[simp] theorem State.setSys_queues (s : State) (reg inst : Nat) (x : BitVec 64) : (s.setSys reg inst x).queues = s.queues := rfl
@[simp] theorem State.setSys_comms (s : State) (reg inst : Nat) (x : BitVec 64) : (s.setSys reg inst x).comms = s.comms := rfl
@[simp] theorem State.setSys_eps (s : State) (reg inst : Nat) (x : BitVec 64) : (s.setSys reg inst x).eps = s.eps := rfl
@[simp] theorem State.setSys_frecs (s : State) (reg inst : Nat) (x : BitVec 64) : (s.setSys reg inst x).frecs = s.frecs := rfl
@[simp] theorem State.setSys_fqHeld (s : State) (reg inst : Nat) (x : BitVec 64) : (s.setSys reg inst x).fqHeld = s.fqHeld := rfl
@[simp] theorem State.setSys_irqs (s : State) (reg inst : Nat) (x : BitVec 64) : (s.setSys reg inst x).irqs = s.irqs := rfl
@[simp] theorem State.setSys_boot (s : State) (reg inst : Nat) (x : BitVec 64) : (s.setSys reg inst x).boot = s.boot := rfl
@[simp] theorem State.setSys_linkUp (s : State) (reg inst : Nat) (x : BitVec 64) : (s.setSys reg inst x).linkUp = s.linkUp := rfl
@[simp] theorem State.setSys_thermStop (s : State) (reg inst : Nat) (x : BitVec 64) : (s.setSys reg inst x).thermStop = s.thermStop := rfl
@[simp] theorem State.setSys_clamped (s : State) (reg inst : Nat) (x : BitVec 64) : (s.setSys reg inst x).clamped = s.clamped := rfl
@[simp] theorem State.setSys_doe (s : State) (reg inst : Nat) (x : BitVec 64) : (s.setSys reg inst x).doe = s.doe := rfl
@[simp] theorem State.setSys_pageOp (s : State) (reg inst : Nat) (x : BitVec 64) : (s.setSys reg inst x).pageOp = s.pageOp := rfl
@[simp] theorem State.setSys_vacates (s : State) (reg inst : Nat) (x : BitVec 64) : (s.setSys reg inst x).vacates = s.vacates := rfl
@[simp] theorem State.setSys_snaps (s : State) (reg inst : Nat) (x : BitVec 64) : (s.setSys reg inst x).snaps = s.snaps := rfl
@[simp] theorem State.setSys_snapNum (s : State) (reg inst : Nat) (x : BitVec 64) : (s.setSys reg inst x).snapNum = s.snapNum := rfl
@[simp] theorem State.setSys_frozen (s : State) (reg inst : Nat) (x : BitVec 64) : (s.setSys reg inst x).frozen = s.frozen := rfl
@[simp] theorem State.setSys_asyncs (s : State) (reg inst : Nat) (x : BitVec 64) : (s.setSys reg inst x).asyncs = s.asyncs := rfl
@[simp] theorem State.setSys_sampled (s : State) (reg inst : Nat) (x : BitVec 64) : (s.setSys reg inst x).sampled = s.sampled := rfl
@[simp] theorem State.setSys_groups (s : State) (reg inst : Nat) (x : BitVec 64) : (s.setSys reg inst x).groups = s.groups := rfl
@[simp] theorem State.setSys_hostData (s : State) (reg inst : Nat) (x : BitVec 64) : (s.setSys reg inst x).hostData = s.hostData := rfl
@[simp] theorem State.setSys_saveUse (s : State) (reg inst : Nat) (x : BitVec 64) : (s.setSys reg inst x).saveUse = s.saveUse := rfl
@[simp] theorem State.setSys_crept (s : State) (reg inst : Nat) (x : BitVec 64) : (s.setSys reg inst x).crept = s.crept := rfl
@[simp] theorem State.setSys_spares (s : State) (reg inst : Nat) (x : BitVec 64) : (s.setSys reg inst x).spares = s.spares := rfl
@[simp] theorem State.setSys_ports (s : State) (reg inst : Nat) (x : BitVec 64) : (s.setSys reg inst x).ports = s.ports := rfl
@[simp] theorem State.setSys_clampAt (s : State) (reg inst : Nat) (x : BitVec 64) : (s.setSys reg inst x).clampAt = s.clampAt := rfl
@[simp] theorem State.setSys_slotAt (s : State) (reg inst : Nat) (x : BitVec 64) : (s.setSys reg inst x).slotAt = s.slotAt := rfl
@[simp] theorem State.setSys_slotUse (s : State) (reg inst : Nat) (x : BitVec 64) : (s.setSys reg inst x).slotUse = s.slotUse := rfl
@[simp] theorem State.setSys_cursors (s : State) (reg inst : Nat) (x : BitVec 64) : (s.setSys reg inst x).cursors = s.cursors := rfl
@[simp] theorem State.setSys_asked (s : State) (reg inst : Nat) (x : BitVec 64) : (s.setSys reg inst x).asked = s.asked := rfl
@[simp] theorem State.setSys_errs (s : State) (reg inst : Nat) (x : BitVec 64) : (s.setSys reg inst x).errs = s.errs := rfl
@[simp] theorem State.setSys_flaws (s : State) (reg inst : Nat) (x : BitVec 64) : (s.setSys reg inst x).flaws = s.flaws := rfl

/-! ### State.setCtl -/

@[simp] theorem State.setCtl_agenda (s : State) (c : Nat) (x : CtlRegs) : (s.setCtl c x).agenda = s.agenda := rfl
@[simp] theorem State.setCtl_turn (s : State) (c : Nat) (x : CtlRegs) : (s.setCtl c x).turn = s.turn := rfl
@[simp] theorem State.setCtl_free (s : State) (c : Nat) (x : CtlRegs) : (s.setCtl c x).free = s.free := rfl
@[simp] theorem State.setCtl_uid (s : State) (c : Nat) (x : CtlRegs) : (s.setCtl c x).uid = s.uid := rfl
@[simp] theorem State.setCtl_clk (s : State) (c : Nat) (x : CtlRegs) : (s.setCtl c x).clk = s.clk := rfl
@[simp] theorem State.setCtl_mem (s : State) (c : Nat) (x : CtlRegs) : (s.setCtl c x).mem = s.mem := rfl
@[simp] theorem State.setCtl_poison (s : State) (c : Nat) (x : CtlRegs) : (s.setCtl c x).poison = s.poison := rfl
@[simp] theorem State.setCtl_ltime (s : State) (c : Nat) (x : CtlRegs) : (s.setCtl c x).ltime = s.ltime := rfl
@[simp] theorem State.setCtl_sys (s : State) (c : Nat) (x : CtlRegs) : (s.setCtl c x).sys = s.sys := rfl
@[simp] theorem State.setCtl_slotTab (s : State) (c : Nat) (x : CtlRegs) : (s.setCtl c x).slotTab = s.slotTab := rfl
@[simp] theorem State.setCtl_slotNext (s : State) (c : Nat) (x : CtlRegs) : (s.setCtl c x).slotNext = s.slotNext := rfl
@[simp] theorem State.setCtl_lap (s : State) (c : Nat) (x : CtlRegs) : (s.setCtl c x).lap = s.lap := rfl
@[simp] theorem State.setCtl_waves (s : State) (c : Nat) (x : CtlRegs) : (s.setCtl c x).waves = s.waves := rfl
@[simp] theorem State.setCtl_blocks (s : State) (c : Nat) (x : CtlRegs) : (s.setCtl c x).blocks = s.blocks := rfl
@[simp] theorem State.setCtl_arrays (s : State) (c : Nat) (x : CtlRegs) : (s.setCtl c x).arrays = s.arrays := rfl
@[simp] theorem State.setCtl_chwp (s : State) (c : Nat) (x : CtlRegs) : (s.setCtl c x).chwp = s.chwp := rfl
@[simp] theorem State.setCtl_chStarted (s : State) (c : Nat) (x : CtlRegs) : (s.setCtl c x).chStarted = s.chStarted := rfl
@[simp] theorem State.setCtl_chPts (s : State) (c : Nat) (x : CtlRegs) : (s.setCtl c x).chPts = s.chPts := rfl
@[simp] theorem State.setCtl_cmds (s : State) (c : Nat) (x : CtlRegs) : (s.setCtl c x).cmds = s.cmds := rfl
@[simp] theorem State.setCtl_coreReset (s : State) (c : Nat) (x : CtlRegs) : (s.setCtl c x).coreReset = s.coreReset := rfl
@[simp] theorem State.setCtl_wins (s : State) (c : Nat) (x : CtlRegs) : (s.setCtl c x).wins = s.wins := rfl
@[simp] theorem State.setCtl_leaves (s : State) (c : Nat) (x : CtlRegs) : (s.setCtl c x).leaves = s.leaves := rfl
@[simp] theorem State.setCtl_freed (s : State) (c : Nat) (x : CtlRegs) : (s.setCtl c x).freed = s.freed := rfl
@[simp] theorem State.setCtl_drops (s : State) (c : Nat) (x : CtlRegs) : (s.setCtl c x).drops = s.drops := rfl
@[simp] theorem State.setCtl_place (s : State) (c : Nat) (x : CtlRegs) : (s.setCtl c x).place = s.place := rfl
@[simp] theorem State.setCtl_lines (s : State) (c : Nat) (x : CtlRegs) : (s.setCtl c x).lines = s.lines := rfl
@[simp] theorem State.setCtl_l1 (s : State) (c : Nat) (x : CtlRegs) : (s.setCtl c x).l1 = s.l1 := rfl
@[simp] theorem State.setCtl_sliceBase (s : State) (c : Nat) (x : CtlRegs) : (s.setCtl c x).sliceBase = s.sliceBase := rfl
@[simp] theorem State.setCtl_trans (s : State) (c : Nat) (x : CtlRegs) : (s.setCtl c x).trans = s.trans := rfl
@[simp] theorem State.setCtl_bridgePts (s : State) (c : Nat) (x : CtlRegs) : (s.setCtl c x).bridgePts = s.bridgePts := rfl
@[simp] theorem State.setCtl_hostHalf (s : State) (c : Nat) (x : CtlRegs) : (s.setCtl c x).hostHalf = s.hostHalf := rfl
@[simp] theorem State.setCtl_hostAck (s : State) (c : Nat) (x : CtlRegs) : (s.setCtl c x).hostAck = s.hostAck := rfl
@[simp] theorem State.setCtl_nodes (s : State) (c : Nat) (x : CtlRegs) : (s.setCtl c x).nodes = s.nodes := rfl
@[simp] theorem State.setCtl_tasks (s : State) (c : Nat) (x : CtlRegs) : (s.setCtl c x).tasks = s.tasks := rfl
@[simp] theorem State.setCtl_batons (s : State) (c : Nat) (x : CtlRegs) : (s.setCtl c x).batons = s.batons := rfl
@[simp] theorem State.setCtl_rrNode (s : State) (c : Nat) (x : CtlRegs) : (s.setCtl c x).rrNode = s.rrNode := rfl
@[simp] theorem State.setCtl_pools (s : State) (c : Nat) (x : CtlRegs) : (s.setCtl c x).pools = s.pools := rfl
@[simp] theorem State.setCtl_queues (s : State) (c : Nat) (x : CtlRegs) : (s.setCtl c x).queues = s.queues := rfl
@[simp] theorem State.setCtl_comms (s : State) (c : Nat) (x : CtlRegs) : (s.setCtl c x).comms = s.comms := rfl
@[simp] theorem State.setCtl_eps (s : State) (c : Nat) (x : CtlRegs) : (s.setCtl c x).eps = s.eps := rfl
@[simp] theorem State.setCtl_frecs (s : State) (c : Nat) (x : CtlRegs) : (s.setCtl c x).frecs = s.frecs := rfl
@[simp] theorem State.setCtl_fqHeld (s : State) (c : Nat) (x : CtlRegs) : (s.setCtl c x).fqHeld = s.fqHeld := rfl
@[simp] theorem State.setCtl_irqs (s : State) (c : Nat) (x : CtlRegs) : (s.setCtl c x).irqs = s.irqs := rfl
@[simp] theorem State.setCtl_boot (s : State) (c : Nat) (x : CtlRegs) : (s.setCtl c x).boot = s.boot := rfl
@[simp] theorem State.setCtl_linkUp (s : State) (c : Nat) (x : CtlRegs) : (s.setCtl c x).linkUp = s.linkUp := rfl
@[simp] theorem State.setCtl_thermStop (s : State) (c : Nat) (x : CtlRegs) : (s.setCtl c x).thermStop = s.thermStop := rfl
@[simp] theorem State.setCtl_clamped (s : State) (c : Nat) (x : CtlRegs) : (s.setCtl c x).clamped = s.clamped := rfl
@[simp] theorem State.setCtl_doe (s : State) (c : Nat) (x : CtlRegs) : (s.setCtl c x).doe = s.doe := rfl
@[simp] theorem State.setCtl_pageOp (s : State) (c : Nat) (x : CtlRegs) : (s.setCtl c x).pageOp = s.pageOp := rfl
@[simp] theorem State.setCtl_vacates (s : State) (c : Nat) (x : CtlRegs) : (s.setCtl c x).vacates = s.vacates := rfl
@[simp] theorem State.setCtl_snaps (s : State) (c : Nat) (x : CtlRegs) : (s.setCtl c x).snaps = s.snaps := rfl
@[simp] theorem State.setCtl_snapNum (s : State) (c : Nat) (x : CtlRegs) : (s.setCtl c x).snapNum = s.snapNum := rfl
@[simp] theorem State.setCtl_frozen (s : State) (c : Nat) (x : CtlRegs) : (s.setCtl c x).frozen = s.frozen := rfl
@[simp] theorem State.setCtl_asyncs (s : State) (c : Nat) (x : CtlRegs) : (s.setCtl c x).asyncs = s.asyncs := rfl
@[simp] theorem State.setCtl_sampled (s : State) (c : Nat) (x : CtlRegs) : (s.setCtl c x).sampled = s.sampled := rfl
@[simp] theorem State.setCtl_groups (s : State) (c : Nat) (x : CtlRegs) : (s.setCtl c x).groups = s.groups := rfl
@[simp] theorem State.setCtl_hostData (s : State) (c : Nat) (x : CtlRegs) : (s.setCtl c x).hostData = s.hostData := rfl
@[simp] theorem State.setCtl_saveUse (s : State) (c : Nat) (x : CtlRegs) : (s.setCtl c x).saveUse = s.saveUse := rfl
@[simp] theorem State.setCtl_crept (s : State) (c : Nat) (x : CtlRegs) : (s.setCtl c x).crept = s.crept := rfl
@[simp] theorem State.setCtl_spares (s : State) (c : Nat) (x : CtlRegs) : (s.setCtl c x).spares = s.spares := rfl
@[simp] theorem State.setCtl_ports (s : State) (c : Nat) (x : CtlRegs) : (s.setCtl c x).ports = s.ports := rfl
@[simp] theorem State.setCtl_clampAt (s : State) (c : Nat) (x : CtlRegs) : (s.setCtl c x).clampAt = s.clampAt := rfl
@[simp] theorem State.setCtl_slotAt (s : State) (c : Nat) (x : CtlRegs) : (s.setCtl c x).slotAt = s.slotAt := rfl
@[simp] theorem State.setCtl_slotUse (s : State) (c : Nat) (x : CtlRegs) : (s.setCtl c x).slotUse = s.slotUse := rfl
@[simp] theorem State.setCtl_cursors (s : State) (c : Nat) (x : CtlRegs) : (s.setCtl c x).cursors = s.cursors := rfl
@[simp] theorem State.setCtl_asked (s : State) (c : Nat) (x : CtlRegs) : (s.setCtl c x).asked = s.asked := rfl
@[simp] theorem State.setCtl_errs (s : State) (c : Nat) (x : CtlRegs) : (s.setCtl c x).errs = s.errs := rfl
@[simp] theorem State.setCtl_flaws (s : State) (c : Nat) (x : CtlRegs) : (s.setCtl c x).flaws = s.flaws := rfl

/-! ### State.raiseIrq -/

@[simp] theorem State.raiseIrq_agenda (s : State) (v : Nat) : (s.raiseIrq v).agenda = s.agenda := rfl
@[simp] theorem State.raiseIrq_turn (s : State) (v : Nat) : (s.raiseIrq v).turn = s.turn := rfl
@[simp] theorem State.raiseIrq_free (s : State) (v : Nat) : (s.raiseIrq v).free = s.free := rfl
@[simp] theorem State.raiseIrq_uid (s : State) (v : Nat) : (s.raiseIrq v).uid = s.uid := rfl
@[simp] theorem State.raiseIrq_clk (s : State) (v : Nat) : (s.raiseIrq v).clk = s.clk := rfl
@[simp] theorem State.raiseIrq_mem (s : State) (v : Nat) : (s.raiseIrq v).mem = s.mem := rfl
@[simp] theorem State.raiseIrq_poison (s : State) (v : Nat) : (s.raiseIrq v).poison = s.poison := rfl
@[simp] theorem State.raiseIrq_ltime (s : State) (v : Nat) : (s.raiseIrq v).ltime = s.ltime := rfl
@[simp] theorem State.raiseIrq_sys (s : State) (v : Nat) : (s.raiseIrq v).sys = s.sys := rfl
@[simp] theorem State.raiseIrq_ctl (s : State) (v : Nat) : (s.raiseIrq v).ctl = s.ctl := rfl
@[simp] theorem State.raiseIrq_slotTab (s : State) (v : Nat) : (s.raiseIrq v).slotTab = s.slotTab := rfl
@[simp] theorem State.raiseIrq_slotNext (s : State) (v : Nat) : (s.raiseIrq v).slotNext = s.slotNext := rfl
@[simp] theorem State.raiseIrq_lap (s : State) (v : Nat) : (s.raiseIrq v).lap = s.lap := rfl
@[simp] theorem State.raiseIrq_waves (s : State) (v : Nat) : (s.raiseIrq v).waves = s.waves := rfl
@[simp] theorem State.raiseIrq_blocks (s : State) (v : Nat) : (s.raiseIrq v).blocks = s.blocks := rfl
@[simp] theorem State.raiseIrq_arrays (s : State) (v : Nat) : (s.raiseIrq v).arrays = s.arrays := rfl
@[simp] theorem State.raiseIrq_chwp (s : State) (v : Nat) : (s.raiseIrq v).chwp = s.chwp := rfl
@[simp] theorem State.raiseIrq_chStarted (s : State) (v : Nat) : (s.raiseIrq v).chStarted = s.chStarted := rfl
@[simp] theorem State.raiseIrq_chPts (s : State) (v : Nat) : (s.raiseIrq v).chPts = s.chPts := rfl
@[simp] theorem State.raiseIrq_cmds (s : State) (v : Nat) : (s.raiseIrq v).cmds = s.cmds := rfl
@[simp] theorem State.raiseIrq_coreReset (s : State) (v : Nat) : (s.raiseIrq v).coreReset = s.coreReset := rfl
@[simp] theorem State.raiseIrq_wins (s : State) (v : Nat) : (s.raiseIrq v).wins = s.wins := rfl
@[simp] theorem State.raiseIrq_leaves (s : State) (v : Nat) : (s.raiseIrq v).leaves = s.leaves := rfl
@[simp] theorem State.raiseIrq_freed (s : State) (v : Nat) : (s.raiseIrq v).freed = s.freed := rfl
@[simp] theorem State.raiseIrq_drops (s : State) (v : Nat) : (s.raiseIrq v).drops = s.drops := rfl
@[simp] theorem State.raiseIrq_place (s : State) (v : Nat) : (s.raiseIrq v).place = s.place := rfl
@[simp] theorem State.raiseIrq_lines (s : State) (v : Nat) : (s.raiseIrq v).lines = s.lines := rfl
@[simp] theorem State.raiseIrq_l1 (s : State) (v : Nat) : (s.raiseIrq v).l1 = s.l1 := rfl
@[simp] theorem State.raiseIrq_sliceBase (s : State) (v : Nat) : (s.raiseIrq v).sliceBase = s.sliceBase := rfl
@[simp] theorem State.raiseIrq_trans (s : State) (v : Nat) : (s.raiseIrq v).trans = s.trans := rfl
@[simp] theorem State.raiseIrq_bridgePts (s : State) (v : Nat) : (s.raiseIrq v).bridgePts = s.bridgePts := rfl
@[simp] theorem State.raiseIrq_hostHalf (s : State) (v : Nat) : (s.raiseIrq v).hostHalf = s.hostHalf := rfl
@[simp] theorem State.raiseIrq_hostAck (s : State) (v : Nat) : (s.raiseIrq v).hostAck = s.hostAck := rfl
@[simp] theorem State.raiseIrq_nodes (s : State) (v : Nat) : (s.raiseIrq v).nodes = s.nodes := rfl
@[simp] theorem State.raiseIrq_tasks (s : State) (v : Nat) : (s.raiseIrq v).tasks = s.tasks := rfl
@[simp] theorem State.raiseIrq_batons (s : State) (v : Nat) : (s.raiseIrq v).batons = s.batons := rfl
@[simp] theorem State.raiseIrq_rrNode (s : State) (v : Nat) : (s.raiseIrq v).rrNode = s.rrNode := rfl
@[simp] theorem State.raiseIrq_pools (s : State) (v : Nat) : (s.raiseIrq v).pools = s.pools := rfl
@[simp] theorem State.raiseIrq_queues (s : State) (v : Nat) : (s.raiseIrq v).queues = s.queues := rfl
@[simp] theorem State.raiseIrq_comms (s : State) (v : Nat) : (s.raiseIrq v).comms = s.comms := rfl
@[simp] theorem State.raiseIrq_eps (s : State) (v : Nat) : (s.raiseIrq v).eps = s.eps := rfl
@[simp] theorem State.raiseIrq_frecs (s : State) (v : Nat) : (s.raiseIrq v).frecs = s.frecs := rfl
@[simp] theorem State.raiseIrq_fqHeld (s : State) (v : Nat) : (s.raiseIrq v).fqHeld = s.fqHeld := rfl
@[simp] theorem State.raiseIrq_boot (s : State) (v : Nat) : (s.raiseIrq v).boot = s.boot := rfl
@[simp] theorem State.raiseIrq_linkUp (s : State) (v : Nat) : (s.raiseIrq v).linkUp = s.linkUp := rfl
@[simp] theorem State.raiseIrq_thermStop (s : State) (v : Nat) : (s.raiseIrq v).thermStop = s.thermStop := rfl
@[simp] theorem State.raiseIrq_clamped (s : State) (v : Nat) : (s.raiseIrq v).clamped = s.clamped := rfl
@[simp] theorem State.raiseIrq_doe (s : State) (v : Nat) : (s.raiseIrq v).doe = s.doe := rfl
@[simp] theorem State.raiseIrq_pageOp (s : State) (v : Nat) : (s.raiseIrq v).pageOp = s.pageOp := rfl
@[simp] theorem State.raiseIrq_vacates (s : State) (v : Nat) : (s.raiseIrq v).vacates = s.vacates := rfl
@[simp] theorem State.raiseIrq_snaps (s : State) (v : Nat) : (s.raiseIrq v).snaps = s.snaps := rfl
@[simp] theorem State.raiseIrq_snapNum (s : State) (v : Nat) : (s.raiseIrq v).snapNum = s.snapNum := rfl
@[simp] theorem State.raiseIrq_frozen (s : State) (v : Nat) : (s.raiseIrq v).frozen = s.frozen := rfl
@[simp] theorem State.raiseIrq_asyncs (s : State) (v : Nat) : (s.raiseIrq v).asyncs = s.asyncs := rfl
@[simp] theorem State.raiseIrq_sampled (s : State) (v : Nat) : (s.raiseIrq v).sampled = s.sampled := rfl
@[simp] theorem State.raiseIrq_groups (s : State) (v : Nat) : (s.raiseIrq v).groups = s.groups := rfl
@[simp] theorem State.raiseIrq_hostData (s : State) (v : Nat) : (s.raiseIrq v).hostData = s.hostData := rfl
@[simp] theorem State.raiseIrq_saveUse (s : State) (v : Nat) : (s.raiseIrq v).saveUse = s.saveUse := rfl
@[simp] theorem State.raiseIrq_crept (s : State) (v : Nat) : (s.raiseIrq v).crept = s.crept := rfl
@[simp] theorem State.raiseIrq_spares (s : State) (v : Nat) : (s.raiseIrq v).spares = s.spares := rfl
@[simp] theorem State.raiseIrq_ports (s : State) (v : Nat) : (s.raiseIrq v).ports = s.ports := rfl
@[simp] theorem State.raiseIrq_clampAt (s : State) (v : Nat) : (s.raiseIrq v).clampAt = s.clampAt := rfl
@[simp] theorem State.raiseIrq_slotAt (s : State) (v : Nat) : (s.raiseIrq v).slotAt = s.slotAt := rfl
@[simp] theorem State.raiseIrq_slotUse (s : State) (v : Nat) : (s.raiseIrq v).slotUse = s.slotUse := rfl
@[simp] theorem State.raiseIrq_cursors (s : State) (v : Nat) : (s.raiseIrq v).cursors = s.cursors := rfl
@[simp] theorem State.raiseIrq_asked (s : State) (v : Nat) : (s.raiseIrq v).asked = s.asked := rfl
@[simp] theorem State.raiseIrq_errs (s : State) (v : Nat) : (s.raiseIrq v).errs = s.errs := rfl
@[simp] theorem State.raiseIrq_flaws (s : State) (v : Nat) : (s.raiseIrq v).flaws = s.flaws := rfl

/-! ### State.setWave -/

@[simp] theorem State.setWave_agenda (s : State) (w : Nat) (x : Wave) : (s.setWave w x).agenda = s.agenda := rfl
@[simp] theorem State.setWave_turn (s : State) (w : Nat) (x : Wave) : (s.setWave w x).turn = s.turn := rfl
@[simp] theorem State.setWave_free (s : State) (w : Nat) (x : Wave) : (s.setWave w x).free = s.free := rfl
@[simp] theorem State.setWave_uid (s : State) (w : Nat) (x : Wave) : (s.setWave w x).uid = s.uid := rfl
@[simp] theorem State.setWave_clk (s : State) (w : Nat) (x : Wave) : (s.setWave w x).clk = s.clk := rfl
@[simp] theorem State.setWave_mem (s : State) (w : Nat) (x : Wave) : (s.setWave w x).mem = s.mem := rfl
@[simp] theorem State.setWave_poison (s : State) (w : Nat) (x : Wave) : (s.setWave w x).poison = s.poison := rfl
@[simp] theorem State.setWave_ltime (s : State) (w : Nat) (x : Wave) : (s.setWave w x).ltime = s.ltime := rfl
@[simp] theorem State.setWave_sys (s : State) (w : Nat) (x : Wave) : (s.setWave w x).sys = s.sys := rfl
@[simp] theorem State.setWave_ctl (s : State) (w : Nat) (x : Wave) : (s.setWave w x).ctl = s.ctl := rfl
@[simp] theorem State.setWave_slotTab (s : State) (w : Nat) (x : Wave) : (s.setWave w x).slotTab = s.slotTab := rfl
@[simp] theorem State.setWave_slotNext (s : State) (w : Nat) (x : Wave) : (s.setWave w x).slotNext = s.slotNext := rfl
@[simp] theorem State.setWave_lap (s : State) (w : Nat) (x : Wave) : (s.setWave w x).lap = s.lap := rfl
@[simp] theorem State.setWave_blocks (s : State) (w : Nat) (x : Wave) : (s.setWave w x).blocks = s.blocks := rfl
@[simp] theorem State.setWave_arrays (s : State) (w : Nat) (x : Wave) : (s.setWave w x).arrays = s.arrays := rfl
@[simp] theorem State.setWave_chwp (s : State) (w : Nat) (x : Wave) : (s.setWave w x).chwp = s.chwp := rfl
@[simp] theorem State.setWave_chStarted (s : State) (w : Nat) (x : Wave) : (s.setWave w x).chStarted = s.chStarted := rfl
@[simp] theorem State.setWave_chPts (s : State) (w : Nat) (x : Wave) : (s.setWave w x).chPts = s.chPts := rfl
@[simp] theorem State.setWave_cmds (s : State) (w : Nat) (x : Wave) : (s.setWave w x).cmds = s.cmds := rfl
@[simp] theorem State.setWave_coreReset (s : State) (w : Nat) (x : Wave) : (s.setWave w x).coreReset = s.coreReset := rfl
@[simp] theorem State.setWave_wins (s : State) (w : Nat) (x : Wave) : (s.setWave w x).wins = s.wins := rfl
@[simp] theorem State.setWave_leaves (s : State) (w : Nat) (x : Wave) : (s.setWave w x).leaves = s.leaves := rfl
@[simp] theorem State.setWave_freed (s : State) (w : Nat) (x : Wave) : (s.setWave w x).freed = s.freed := rfl
@[simp] theorem State.setWave_drops (s : State) (w : Nat) (x : Wave) : (s.setWave w x).drops = s.drops := rfl
@[simp] theorem State.setWave_place (s : State) (w : Nat) (x : Wave) : (s.setWave w x).place = s.place := rfl
@[simp] theorem State.setWave_lines (s : State) (w : Nat) (x : Wave) : (s.setWave w x).lines = s.lines := rfl
@[simp] theorem State.setWave_l1 (s : State) (w : Nat) (x : Wave) : (s.setWave w x).l1 = s.l1 := rfl
@[simp] theorem State.setWave_sliceBase (s : State) (w : Nat) (x : Wave) : (s.setWave w x).sliceBase = s.sliceBase := rfl
@[simp] theorem State.setWave_trans (s : State) (w : Nat) (x : Wave) : (s.setWave w x).trans = s.trans := rfl
@[simp] theorem State.setWave_bridgePts (s : State) (w : Nat) (x : Wave) : (s.setWave w x).bridgePts = s.bridgePts := rfl
@[simp] theorem State.setWave_hostHalf (s : State) (w : Nat) (x : Wave) : (s.setWave w x).hostHalf = s.hostHalf := rfl
@[simp] theorem State.setWave_hostAck (s : State) (w : Nat) (x : Wave) : (s.setWave w x).hostAck = s.hostAck := rfl
@[simp] theorem State.setWave_nodes (s : State) (w : Nat) (x : Wave) : (s.setWave w x).nodes = s.nodes := rfl
@[simp] theorem State.setWave_tasks (s : State) (w : Nat) (x : Wave) : (s.setWave w x).tasks = s.tasks := rfl
@[simp] theorem State.setWave_batons (s : State) (w : Nat) (x : Wave) : (s.setWave w x).batons = s.batons := rfl
@[simp] theorem State.setWave_rrNode (s : State) (w : Nat) (x : Wave) : (s.setWave w x).rrNode = s.rrNode := rfl
@[simp] theorem State.setWave_pools (s : State) (w : Nat) (x : Wave) : (s.setWave w x).pools = s.pools := rfl
@[simp] theorem State.setWave_queues (s : State) (w : Nat) (x : Wave) : (s.setWave w x).queues = s.queues := rfl
@[simp] theorem State.setWave_comms (s : State) (w : Nat) (x : Wave) : (s.setWave w x).comms = s.comms := rfl
@[simp] theorem State.setWave_eps (s : State) (w : Nat) (x : Wave) : (s.setWave w x).eps = s.eps := rfl
@[simp] theorem State.setWave_frecs (s : State) (w : Nat) (x : Wave) : (s.setWave w x).frecs = s.frecs := rfl
@[simp] theorem State.setWave_fqHeld (s : State) (w : Nat) (x : Wave) : (s.setWave w x).fqHeld = s.fqHeld := rfl
@[simp] theorem State.setWave_irqs (s : State) (w : Nat) (x : Wave) : (s.setWave w x).irqs = s.irqs := rfl
@[simp] theorem State.setWave_boot (s : State) (w : Nat) (x : Wave) : (s.setWave w x).boot = s.boot := rfl
@[simp] theorem State.setWave_linkUp (s : State) (w : Nat) (x : Wave) : (s.setWave w x).linkUp = s.linkUp := rfl
@[simp] theorem State.setWave_thermStop (s : State) (w : Nat) (x : Wave) : (s.setWave w x).thermStop = s.thermStop := rfl
@[simp] theorem State.setWave_clamped (s : State) (w : Nat) (x : Wave) : (s.setWave w x).clamped = s.clamped := rfl
@[simp] theorem State.setWave_doe (s : State) (w : Nat) (x : Wave) : (s.setWave w x).doe = s.doe := rfl
@[simp] theorem State.setWave_pageOp (s : State) (w : Nat) (x : Wave) : (s.setWave w x).pageOp = s.pageOp := rfl
@[simp] theorem State.setWave_vacates (s : State) (w : Nat) (x : Wave) : (s.setWave w x).vacates = s.vacates := rfl
@[simp] theorem State.setWave_snaps (s : State) (w : Nat) (x : Wave) : (s.setWave w x).snaps = s.snaps := rfl
@[simp] theorem State.setWave_snapNum (s : State) (w : Nat) (x : Wave) : (s.setWave w x).snapNum = s.snapNum := rfl
@[simp] theorem State.setWave_frozen (s : State) (w : Nat) (x : Wave) : (s.setWave w x).frozen = s.frozen := rfl
@[simp] theorem State.setWave_asyncs (s : State) (w : Nat) (x : Wave) : (s.setWave w x).asyncs = s.asyncs := rfl
@[simp] theorem State.setWave_sampled (s : State) (w : Nat) (x : Wave) : (s.setWave w x).sampled = s.sampled := rfl
@[simp] theorem State.setWave_groups (s : State) (w : Nat) (x : Wave) : (s.setWave w x).groups = s.groups := rfl
@[simp] theorem State.setWave_hostData (s : State) (w : Nat) (x : Wave) : (s.setWave w x).hostData = s.hostData := rfl
@[simp] theorem State.setWave_saveUse (s : State) (w : Nat) (x : Wave) : (s.setWave w x).saveUse = s.saveUse := rfl
@[simp] theorem State.setWave_crept (s : State) (w : Nat) (x : Wave) : (s.setWave w x).crept = s.crept := rfl
@[simp] theorem State.setWave_spares (s : State) (w : Nat) (x : Wave) : (s.setWave w x).spares = s.spares := rfl
@[simp] theorem State.setWave_ports (s : State) (w : Nat) (x : Wave) : (s.setWave w x).ports = s.ports := rfl
@[simp] theorem State.setWave_clampAt (s : State) (w : Nat) (x : Wave) : (s.setWave w x).clampAt = s.clampAt := rfl
@[simp] theorem State.setWave_slotAt (s : State) (w : Nat) (x : Wave) : (s.setWave w x).slotAt = s.slotAt := rfl
@[simp] theorem State.setWave_slotUse (s : State) (w : Nat) (x : Wave) : (s.setWave w x).slotUse = s.slotUse := rfl
@[simp] theorem State.setWave_cursors (s : State) (w : Nat) (x : Wave) : (s.setWave w x).cursors = s.cursors := rfl
@[simp] theorem State.setWave_asked (s : State) (w : Nat) (x : Wave) : (s.setWave w x).asked = s.asked := rfl
@[simp] theorem State.setWave_errs (s : State) (w : Nat) (x : Wave) : (s.setWave w x).errs = s.errs := rfl
@[simp] theorem State.setWave_flaws (s : State) (w : Nat) (x : Wave) : (s.setWave w x).flaws = s.flaws := rfl

/-! ### State.modWave -/

@[simp] theorem State.modWave_agenda (s : State) (w : Nat) (g : Wave → Wave) : (s.modWave w g).agenda = s.agenda := rfl
@[simp] theorem State.modWave_turn (s : State) (w : Nat) (g : Wave → Wave) : (s.modWave w g).turn = s.turn := rfl
@[simp] theorem State.modWave_free (s : State) (w : Nat) (g : Wave → Wave) : (s.modWave w g).free = s.free := rfl
@[simp] theorem State.modWave_uid (s : State) (w : Nat) (g : Wave → Wave) : (s.modWave w g).uid = s.uid := rfl
@[simp] theorem State.modWave_clk (s : State) (w : Nat) (g : Wave → Wave) : (s.modWave w g).clk = s.clk := rfl
@[simp] theorem State.modWave_mem (s : State) (w : Nat) (g : Wave → Wave) : (s.modWave w g).mem = s.mem := rfl
@[simp] theorem State.modWave_poison (s : State) (w : Nat) (g : Wave → Wave) : (s.modWave w g).poison = s.poison := rfl
@[simp] theorem State.modWave_ltime (s : State) (w : Nat) (g : Wave → Wave) : (s.modWave w g).ltime = s.ltime := rfl
@[simp] theorem State.modWave_sys (s : State) (w : Nat) (g : Wave → Wave) : (s.modWave w g).sys = s.sys := rfl
@[simp] theorem State.modWave_ctl (s : State) (w : Nat) (g : Wave → Wave) : (s.modWave w g).ctl = s.ctl := rfl
@[simp] theorem State.modWave_slotTab (s : State) (w : Nat) (g : Wave → Wave) : (s.modWave w g).slotTab = s.slotTab := rfl
@[simp] theorem State.modWave_slotNext (s : State) (w : Nat) (g : Wave → Wave) : (s.modWave w g).slotNext = s.slotNext := rfl
@[simp] theorem State.modWave_lap (s : State) (w : Nat) (g : Wave → Wave) : (s.modWave w g).lap = s.lap := rfl
@[simp] theorem State.modWave_blocks (s : State) (w : Nat) (g : Wave → Wave) : (s.modWave w g).blocks = s.blocks := rfl
@[simp] theorem State.modWave_arrays (s : State) (w : Nat) (g : Wave → Wave) : (s.modWave w g).arrays = s.arrays := rfl
@[simp] theorem State.modWave_chwp (s : State) (w : Nat) (g : Wave → Wave) : (s.modWave w g).chwp = s.chwp := rfl
@[simp] theorem State.modWave_chStarted (s : State) (w : Nat) (g : Wave → Wave) : (s.modWave w g).chStarted = s.chStarted := rfl
@[simp] theorem State.modWave_chPts (s : State) (w : Nat) (g : Wave → Wave) : (s.modWave w g).chPts = s.chPts := rfl
@[simp] theorem State.modWave_cmds (s : State) (w : Nat) (g : Wave → Wave) : (s.modWave w g).cmds = s.cmds := rfl
@[simp] theorem State.modWave_coreReset (s : State) (w : Nat) (g : Wave → Wave) : (s.modWave w g).coreReset = s.coreReset := rfl
@[simp] theorem State.modWave_wins (s : State) (w : Nat) (g : Wave → Wave) : (s.modWave w g).wins = s.wins := rfl
@[simp] theorem State.modWave_leaves (s : State) (w : Nat) (g : Wave → Wave) : (s.modWave w g).leaves = s.leaves := rfl
@[simp] theorem State.modWave_freed (s : State) (w : Nat) (g : Wave → Wave) : (s.modWave w g).freed = s.freed := rfl
@[simp] theorem State.modWave_drops (s : State) (w : Nat) (g : Wave → Wave) : (s.modWave w g).drops = s.drops := rfl
@[simp] theorem State.modWave_place (s : State) (w : Nat) (g : Wave → Wave) : (s.modWave w g).place = s.place := rfl
@[simp] theorem State.modWave_lines (s : State) (w : Nat) (g : Wave → Wave) : (s.modWave w g).lines = s.lines := rfl
@[simp] theorem State.modWave_l1 (s : State) (w : Nat) (g : Wave → Wave) : (s.modWave w g).l1 = s.l1 := rfl
@[simp] theorem State.modWave_sliceBase (s : State) (w : Nat) (g : Wave → Wave) : (s.modWave w g).sliceBase = s.sliceBase := rfl
@[simp] theorem State.modWave_trans (s : State) (w : Nat) (g : Wave → Wave) : (s.modWave w g).trans = s.trans := rfl
@[simp] theorem State.modWave_bridgePts (s : State) (w : Nat) (g : Wave → Wave) : (s.modWave w g).bridgePts = s.bridgePts := rfl
@[simp] theorem State.modWave_hostHalf (s : State) (w : Nat) (g : Wave → Wave) : (s.modWave w g).hostHalf = s.hostHalf := rfl
@[simp] theorem State.modWave_hostAck (s : State) (w : Nat) (g : Wave → Wave) : (s.modWave w g).hostAck = s.hostAck := rfl
@[simp] theorem State.modWave_nodes (s : State) (w : Nat) (g : Wave → Wave) : (s.modWave w g).nodes = s.nodes := rfl
@[simp] theorem State.modWave_tasks (s : State) (w : Nat) (g : Wave → Wave) : (s.modWave w g).tasks = s.tasks := rfl
@[simp] theorem State.modWave_batons (s : State) (w : Nat) (g : Wave → Wave) : (s.modWave w g).batons = s.batons := rfl
@[simp] theorem State.modWave_rrNode (s : State) (w : Nat) (g : Wave → Wave) : (s.modWave w g).rrNode = s.rrNode := rfl
@[simp] theorem State.modWave_pools (s : State) (w : Nat) (g : Wave → Wave) : (s.modWave w g).pools = s.pools := rfl
@[simp] theorem State.modWave_queues (s : State) (w : Nat) (g : Wave → Wave) : (s.modWave w g).queues = s.queues := rfl
@[simp] theorem State.modWave_comms (s : State) (w : Nat) (g : Wave → Wave) : (s.modWave w g).comms = s.comms := rfl
@[simp] theorem State.modWave_eps (s : State) (w : Nat) (g : Wave → Wave) : (s.modWave w g).eps = s.eps := rfl
@[simp] theorem State.modWave_frecs (s : State) (w : Nat) (g : Wave → Wave) : (s.modWave w g).frecs = s.frecs := rfl
@[simp] theorem State.modWave_fqHeld (s : State) (w : Nat) (g : Wave → Wave) : (s.modWave w g).fqHeld = s.fqHeld := rfl
@[simp] theorem State.modWave_irqs (s : State) (w : Nat) (g : Wave → Wave) : (s.modWave w g).irqs = s.irqs := rfl
@[simp] theorem State.modWave_boot (s : State) (w : Nat) (g : Wave → Wave) : (s.modWave w g).boot = s.boot := rfl
@[simp] theorem State.modWave_linkUp (s : State) (w : Nat) (g : Wave → Wave) : (s.modWave w g).linkUp = s.linkUp := rfl
@[simp] theorem State.modWave_thermStop (s : State) (w : Nat) (g : Wave → Wave) : (s.modWave w g).thermStop = s.thermStop := rfl
@[simp] theorem State.modWave_clamped (s : State) (w : Nat) (g : Wave → Wave) : (s.modWave w g).clamped = s.clamped := rfl
@[simp] theorem State.modWave_doe (s : State) (w : Nat) (g : Wave → Wave) : (s.modWave w g).doe = s.doe := rfl
@[simp] theorem State.modWave_pageOp (s : State) (w : Nat) (g : Wave → Wave) : (s.modWave w g).pageOp = s.pageOp := rfl
@[simp] theorem State.modWave_vacates (s : State) (w : Nat) (g : Wave → Wave) : (s.modWave w g).vacates = s.vacates := rfl
@[simp] theorem State.modWave_snaps (s : State) (w : Nat) (g : Wave → Wave) : (s.modWave w g).snaps = s.snaps := rfl
@[simp] theorem State.modWave_snapNum (s : State) (w : Nat) (g : Wave → Wave) : (s.modWave w g).snapNum = s.snapNum := rfl
@[simp] theorem State.modWave_frozen (s : State) (w : Nat) (g : Wave → Wave) : (s.modWave w g).frozen = s.frozen := rfl
@[simp] theorem State.modWave_asyncs (s : State) (w : Nat) (g : Wave → Wave) : (s.modWave w g).asyncs = s.asyncs := rfl
@[simp] theorem State.modWave_sampled (s : State) (w : Nat) (g : Wave → Wave) : (s.modWave w g).sampled = s.sampled := rfl
@[simp] theorem State.modWave_groups (s : State) (w : Nat) (g : Wave → Wave) : (s.modWave w g).groups = s.groups := rfl
@[simp] theorem State.modWave_hostData (s : State) (w : Nat) (g : Wave → Wave) : (s.modWave w g).hostData = s.hostData := rfl
@[simp] theorem State.modWave_saveUse (s : State) (w : Nat) (g : Wave → Wave) : (s.modWave w g).saveUse = s.saveUse := rfl
@[simp] theorem State.modWave_crept (s : State) (w : Nat) (g : Wave → Wave) : (s.modWave w g).crept = s.crept := rfl
@[simp] theorem State.modWave_spares (s : State) (w : Nat) (g : Wave → Wave) : (s.modWave w g).spares = s.spares := rfl
@[simp] theorem State.modWave_ports (s : State) (w : Nat) (g : Wave → Wave) : (s.modWave w g).ports = s.ports := rfl
@[simp] theorem State.modWave_clampAt (s : State) (w : Nat) (g : Wave → Wave) : (s.modWave w g).clampAt = s.clampAt := rfl
@[simp] theorem State.modWave_slotAt (s : State) (w : Nat) (g : Wave → Wave) : (s.modWave w g).slotAt = s.slotAt := rfl
@[simp] theorem State.modWave_slotUse (s : State) (w : Nat) (g : Wave → Wave) : (s.modWave w g).slotUse = s.slotUse := rfl
@[simp] theorem State.modWave_cursors (s : State) (w : Nat) (g : Wave → Wave) : (s.modWave w g).cursors = s.cursors := rfl
@[simp] theorem State.modWave_asked (s : State) (w : Nat) (g : Wave → Wave) : (s.modWave w g).asked = s.asked := rfl
@[simp] theorem State.modWave_errs (s : State) (w : Nat) (g : Wave → Wave) : (s.modWave w g).errs = s.errs := rfl
@[simp] theorem State.modWave_flaws (s : State) (w : Nat) (g : Wave → Wave) : (s.modWave w g).flaws = s.flaws := rfl

/-! ### State.modBlock -/

@[simp] theorem State.modBlock_agenda (s : State) (b : Nat) (g : Block → Block) : (s.modBlock b g).agenda = s.agenda := rfl
@[simp] theorem State.modBlock_turn (s : State) (b : Nat) (g : Block → Block) : (s.modBlock b g).turn = s.turn := rfl
@[simp] theorem State.modBlock_free (s : State) (b : Nat) (g : Block → Block) : (s.modBlock b g).free = s.free := rfl
@[simp] theorem State.modBlock_uid (s : State) (b : Nat) (g : Block → Block) : (s.modBlock b g).uid = s.uid := rfl
@[simp] theorem State.modBlock_clk (s : State) (b : Nat) (g : Block → Block) : (s.modBlock b g).clk = s.clk := rfl
@[simp] theorem State.modBlock_mem (s : State) (b : Nat) (g : Block → Block) : (s.modBlock b g).mem = s.mem := rfl
@[simp] theorem State.modBlock_poison (s : State) (b : Nat) (g : Block → Block) : (s.modBlock b g).poison = s.poison := rfl
@[simp] theorem State.modBlock_ltime (s : State) (b : Nat) (g : Block → Block) : (s.modBlock b g).ltime = s.ltime := rfl
@[simp] theorem State.modBlock_sys (s : State) (b : Nat) (g : Block → Block) : (s.modBlock b g).sys = s.sys := rfl
@[simp] theorem State.modBlock_ctl (s : State) (b : Nat) (g : Block → Block) : (s.modBlock b g).ctl = s.ctl := rfl
@[simp] theorem State.modBlock_slotTab (s : State) (b : Nat) (g : Block → Block) : (s.modBlock b g).slotTab = s.slotTab := rfl
@[simp] theorem State.modBlock_slotNext (s : State) (b : Nat) (g : Block → Block) : (s.modBlock b g).slotNext = s.slotNext := rfl
@[simp] theorem State.modBlock_lap (s : State) (b : Nat) (g : Block → Block) : (s.modBlock b g).lap = s.lap := rfl
@[simp] theorem State.modBlock_waves (s : State) (b : Nat) (g : Block → Block) : (s.modBlock b g).waves = s.waves := rfl
@[simp] theorem State.modBlock_arrays (s : State) (b : Nat) (g : Block → Block) : (s.modBlock b g).arrays = s.arrays := rfl
@[simp] theorem State.modBlock_chwp (s : State) (b : Nat) (g : Block → Block) : (s.modBlock b g).chwp = s.chwp := rfl
@[simp] theorem State.modBlock_chStarted (s : State) (b : Nat) (g : Block → Block) : (s.modBlock b g).chStarted = s.chStarted := rfl
@[simp] theorem State.modBlock_chPts (s : State) (b : Nat) (g : Block → Block) : (s.modBlock b g).chPts = s.chPts := rfl
@[simp] theorem State.modBlock_cmds (s : State) (b : Nat) (g : Block → Block) : (s.modBlock b g).cmds = s.cmds := rfl
@[simp] theorem State.modBlock_coreReset (s : State) (b : Nat) (g : Block → Block) : (s.modBlock b g).coreReset = s.coreReset := rfl
@[simp] theorem State.modBlock_wins (s : State) (b : Nat) (g : Block → Block) : (s.modBlock b g).wins = s.wins := rfl
@[simp] theorem State.modBlock_leaves (s : State) (b : Nat) (g : Block → Block) : (s.modBlock b g).leaves = s.leaves := rfl
@[simp] theorem State.modBlock_freed (s : State) (b : Nat) (g : Block → Block) : (s.modBlock b g).freed = s.freed := rfl
@[simp] theorem State.modBlock_drops (s : State) (b : Nat) (g : Block → Block) : (s.modBlock b g).drops = s.drops := rfl
@[simp] theorem State.modBlock_place (s : State) (b : Nat) (g : Block → Block) : (s.modBlock b g).place = s.place := rfl
@[simp] theorem State.modBlock_lines (s : State) (b : Nat) (g : Block → Block) : (s.modBlock b g).lines = s.lines := rfl
@[simp] theorem State.modBlock_l1 (s : State) (b : Nat) (g : Block → Block) : (s.modBlock b g).l1 = s.l1 := rfl
@[simp] theorem State.modBlock_sliceBase (s : State) (b : Nat) (g : Block → Block) : (s.modBlock b g).sliceBase = s.sliceBase := rfl
@[simp] theorem State.modBlock_trans (s : State) (b : Nat) (g : Block → Block) : (s.modBlock b g).trans = s.trans := rfl
@[simp] theorem State.modBlock_bridgePts (s : State) (b : Nat) (g : Block → Block) : (s.modBlock b g).bridgePts = s.bridgePts := rfl
@[simp] theorem State.modBlock_hostHalf (s : State) (b : Nat) (g : Block → Block) : (s.modBlock b g).hostHalf = s.hostHalf := rfl
@[simp] theorem State.modBlock_hostAck (s : State) (b : Nat) (g : Block → Block) : (s.modBlock b g).hostAck = s.hostAck := rfl
@[simp] theorem State.modBlock_nodes (s : State) (b : Nat) (g : Block → Block) : (s.modBlock b g).nodes = s.nodes := rfl
@[simp] theorem State.modBlock_tasks (s : State) (b : Nat) (g : Block → Block) : (s.modBlock b g).tasks = s.tasks := rfl
@[simp] theorem State.modBlock_batons (s : State) (b : Nat) (g : Block → Block) : (s.modBlock b g).batons = s.batons := rfl
@[simp] theorem State.modBlock_rrNode (s : State) (b : Nat) (g : Block → Block) : (s.modBlock b g).rrNode = s.rrNode := rfl
@[simp] theorem State.modBlock_pools (s : State) (b : Nat) (g : Block → Block) : (s.modBlock b g).pools = s.pools := rfl
@[simp] theorem State.modBlock_queues (s : State) (b : Nat) (g : Block → Block) : (s.modBlock b g).queues = s.queues := rfl
@[simp] theorem State.modBlock_comms (s : State) (b : Nat) (g : Block → Block) : (s.modBlock b g).comms = s.comms := rfl
@[simp] theorem State.modBlock_eps (s : State) (b : Nat) (g : Block → Block) : (s.modBlock b g).eps = s.eps := rfl
@[simp] theorem State.modBlock_frecs (s : State) (b : Nat) (g : Block → Block) : (s.modBlock b g).frecs = s.frecs := rfl
@[simp] theorem State.modBlock_fqHeld (s : State) (b : Nat) (g : Block → Block) : (s.modBlock b g).fqHeld = s.fqHeld := rfl
@[simp] theorem State.modBlock_irqs (s : State) (b : Nat) (g : Block → Block) : (s.modBlock b g).irqs = s.irqs := rfl
@[simp] theorem State.modBlock_boot (s : State) (b : Nat) (g : Block → Block) : (s.modBlock b g).boot = s.boot := rfl
@[simp] theorem State.modBlock_linkUp (s : State) (b : Nat) (g : Block → Block) : (s.modBlock b g).linkUp = s.linkUp := rfl
@[simp] theorem State.modBlock_thermStop (s : State) (b : Nat) (g : Block → Block) : (s.modBlock b g).thermStop = s.thermStop := rfl
@[simp] theorem State.modBlock_clamped (s : State) (b : Nat) (g : Block → Block) : (s.modBlock b g).clamped = s.clamped := rfl
@[simp] theorem State.modBlock_doe (s : State) (b : Nat) (g : Block → Block) : (s.modBlock b g).doe = s.doe := rfl
@[simp] theorem State.modBlock_pageOp (s : State) (b : Nat) (g : Block → Block) : (s.modBlock b g).pageOp = s.pageOp := rfl
@[simp] theorem State.modBlock_vacates (s : State) (b : Nat) (g : Block → Block) : (s.modBlock b g).vacates = s.vacates := rfl
@[simp] theorem State.modBlock_snaps (s : State) (b : Nat) (g : Block → Block) : (s.modBlock b g).snaps = s.snaps := rfl
@[simp] theorem State.modBlock_snapNum (s : State) (b : Nat) (g : Block → Block) : (s.modBlock b g).snapNum = s.snapNum := rfl
@[simp] theorem State.modBlock_frozen (s : State) (b : Nat) (g : Block → Block) : (s.modBlock b g).frozen = s.frozen := rfl
@[simp] theorem State.modBlock_asyncs (s : State) (b : Nat) (g : Block → Block) : (s.modBlock b g).asyncs = s.asyncs := rfl
@[simp] theorem State.modBlock_sampled (s : State) (b : Nat) (g : Block → Block) : (s.modBlock b g).sampled = s.sampled := rfl
@[simp] theorem State.modBlock_groups (s : State) (b : Nat) (g : Block → Block) : (s.modBlock b g).groups = s.groups := rfl
@[simp] theorem State.modBlock_hostData (s : State) (b : Nat) (g : Block → Block) : (s.modBlock b g).hostData = s.hostData := rfl
@[simp] theorem State.modBlock_saveUse (s : State) (b : Nat) (g : Block → Block) : (s.modBlock b g).saveUse = s.saveUse := rfl
@[simp] theorem State.modBlock_crept (s : State) (b : Nat) (g : Block → Block) : (s.modBlock b g).crept = s.crept := rfl
@[simp] theorem State.modBlock_spares (s : State) (b : Nat) (g : Block → Block) : (s.modBlock b g).spares = s.spares := rfl
@[simp] theorem State.modBlock_ports (s : State) (b : Nat) (g : Block → Block) : (s.modBlock b g).ports = s.ports := rfl
@[simp] theorem State.modBlock_clampAt (s : State) (b : Nat) (g : Block → Block) : (s.modBlock b g).clampAt = s.clampAt := rfl
@[simp] theorem State.modBlock_slotAt (s : State) (b : Nat) (g : Block → Block) : (s.modBlock b g).slotAt = s.slotAt := rfl
@[simp] theorem State.modBlock_slotUse (s : State) (b : Nat) (g : Block → Block) : (s.modBlock b g).slotUse = s.slotUse := rfl
@[simp] theorem State.modBlock_cursors (s : State) (b : Nat) (g : Block → Block) : (s.modBlock b g).cursors = s.cursors := rfl
@[simp] theorem State.modBlock_asked (s : State) (b : Nat) (g : Block → Block) : (s.modBlock b g).asked = s.asked := rfl
@[simp] theorem State.modBlock_errs (s : State) (b : Nat) (g : Block → Block) : (s.modBlock b g).errs = s.errs := rfl
@[simp] theorem State.modBlock_flaws (s : State) (b : Nat) (g : Block → Block) : (s.modBlock b g).flaws = s.flaws := rfl

/-! ### Wave.setPath -/

@[simp] theorem Wave.setPath_v (x : Wave) (pcb : Bool) (p : Path) : (x.setPath pcb p).v = x.v := by cases pcb <;> rfl
@[simp] theorem Wave.setPath_s (x : Wave) (pcb : Bool) (p : Path) : (x.setPath pcb p).s = x.s := by cases pcb <;> rfl
@[simp] theorem Wave.setPath_p (x : Wave) (pcb : Bool) (p : Path) : (x.setPath pcb p).p = x.p := by cases pcb <;> rfl
@[simp] theorem Wave.setPath_ctrs (x : Wave) (pcb : Bool) (p : Path) : (x.setPath pcb p).ctrs = x.ctrs := by cases pcb <;> rfl
@[simp] theorem Wave.setPath_stack (x : Wave) (pcb : Bool) (p : Path) : (x.setPath pcb p).stack = x.stack := by cases pcb <;> rfl
@[simp] theorem Wave.setPath_lfsr (x : Wave) (pcb : Bool) (p : Path) : (x.setPath pcb p).lfsr = x.lfsr := by cases pcb <;> rfl
@[simp] theorem Wave.setPath_pts (x : Wave) (pcb : Bool) (p : Path) : (x.setPath pcb p).pts = x.pts := by cases pcb <;> rfl
@[simp] theorem Wave.setPath_issued (x : Wave) (pcb : Bool) (p : Path) : (x.setPath pcb p).issued = x.issued := by cases pcb <;> rfl
@[simp] theorem Wave.setPath_undo (x : Wave) (pcb : Bool) (p : Path) : (x.setPath pcb p).undo = x.undo := by cases pcb <;> rfl
@[simp] theorem Wave.setPath_late (x : Wave) (pcb : Bool) (p : Path) : (x.setPath pcb p).late = x.late := by cases pcb <;> rfl
@[simp] theorem Wave.setPath_pend (x : Wave) (pcb : Bool) (p : Path) : (x.setPath pcb p).pend = x.pend := by cases pcb <;> rfl
@[simp] theorem Wave.setPath_park (x : Wave) (pcb : Bool) (p : Path) : (x.setPath pcb p).park = x.park := by cases pcb <;> rfl
@[simp] theorem Wave.setPath_watches (x : Wave) (pcb : Bool) (p : Path) : (x.setPath pcb p).watches = x.watches := by cases pcb <;> rfl
@[simp] theorem Wave.setPath_lastIssue (x : Wave) (pcb : Bool) (p : Path) : (x.setPath pcb p).lastIssue = x.lastIssue := by cases pcb <;> rfl
@[simp] theorem Wave.setPath_rested (x : Wave) (pcb : Bool) (p : Path) : (x.setPath pcb p).rested = x.rested := by cases pcb <;> rfl
@[simp] theorem Wave.setPath_age (x : Wave) (pcb : Bool) (p : Path) : (x.setPath pcb p).age = x.age := by cases pcb <;> rfl
@[simp] theorem Wave.setPath_eligible (x : Wave) (pcb : Bool) (p : Path) : (x.setPath pcb p).eligible = x.eligible := by cases pcb <;> rfl
@[simp] theorem Wave.setPath_lastPcb (x : Wave) (pcb : Bool) (p : Path) : (x.setPath pcb p).lastPcb = x.lastPcb := by cases pcb <;> rfl
@[simp] theorem Wave.setPath_ended (x : Wave) (pcb : Bool) (p : Path) : (x.setPath pcb p).ended = x.ended := by cases pcb <;> rfl
@[simp] theorem Wave.setPath_skid (x : Wave) (pcb : Bool) (p : Path) : (x.setPath pcb p).skid = x.skid := by cases pcb <;> rfl
@[simp] theorem Wave.setPath_stopped (x : Wave) (pcb : Bool) (p : Path) : (x.setPath pcb p).stopped = x.stopped := by cases pcb <;> rfl
@[simp] theorem Wave.setPath_trap (x : Wave) (pcb : Bool) (p : Path) : (x.setPath pcb p).trap = x.trap := by cases pcb <;> rfl
@[simp] theorem Wave.setPath_spill (x : Wave) (pcb : Bool) (p : Path) : (x.setPath pcb p).spill = x.spill := by cases pcb <;> rfl
@[simp] theorem Wave.setPath_super (x : Wave) (pcb : Bool) (p : Path) : (x.setPath pcb p).super = x.super := by cases pcb <;> rfl
@[simp] theorem Wave.setPath_role (x : Wave) (pcb : Bool) (p : Path) : (x.setPath pcb p).role = x.role := by cases pcb <;> rfl
@[simp] theorem Wave.setPath_array (x : Wave) (pcb : Bool) (p : Path) : (x.setPath pcb p).array = x.array := by cases pcb <;> rfl
@[simp] theorem Wave.setPath_core (x : Wave) (pcb : Bool) (p : Path) : (x.setPath pcb p).core = x.core := by cases pcb <;> rfl
@[simp] theorem Wave.setPath_slot (x : Wave) (pcb : Bool) (p : Path) : (x.setPath pcb p).slot = x.slot := by cases pcb <;> rfl
@[simp] theorem Wave.setPath_index (x : Wave) (pcb : Bool) (p : Path) : (x.setPath pcb p).index = x.index := by cases pcb <;> rfl
@[simp] theorem Wave.setPath_block (x : Wave) (pcb : Bool) (p : Path) : (x.setPath pcb p).block = x.block := by cases pcb <;> rfl
@[simp] theorem Wave.setPath_ctx (x : Wave) (pcb : Bool) (p : Path) : (x.setPath pcb p).ctx = x.ctx := by cases pcb <;> rfl
@[simp] theorem Wave.setPath_bad (x : Wave) (pcb : Bool) (p : Path) : (x.setPath pcb p).bad = x.bad := by cases pcb <;> rfl

/-! ### Wave.goto -/

@[simp] theorem Wave.goto_v (x : Wave) (pcb : Bool) (pc : Addr) : (x.goto pcb pc).v = x.v := by cases pcb <;> rfl
@[simp] theorem Wave.goto_s (x : Wave) (pcb : Bool) (pc : Addr) : (x.goto pcb pc).s = x.s := by cases pcb <;> rfl
@[simp] theorem Wave.goto_p (x : Wave) (pcb : Bool) (pc : Addr) : (x.goto pcb pc).p = x.p := by cases pcb <;> rfl
@[simp] theorem Wave.goto_ctrs (x : Wave) (pcb : Bool) (pc : Addr) : (x.goto pcb pc).ctrs = x.ctrs := by cases pcb <;> rfl
@[simp] theorem Wave.goto_stack (x : Wave) (pcb : Bool) (pc : Addr) : (x.goto pcb pc).stack = x.stack := by cases pcb <;> rfl
@[simp] theorem Wave.goto_lfsr (x : Wave) (pcb : Bool) (pc : Addr) : (x.goto pcb pc).lfsr = x.lfsr := by cases pcb <;> rfl
@[simp] theorem Wave.goto_pts (x : Wave) (pcb : Bool) (pc : Addr) : (x.goto pcb pc).pts = x.pts := by cases pcb <;> rfl
@[simp] theorem Wave.goto_issued (x : Wave) (pcb : Bool) (pc : Addr) : (x.goto pcb pc).issued = x.issued := by cases pcb <;> rfl
@[simp] theorem Wave.goto_undo (x : Wave) (pcb : Bool) (pc : Addr) : (x.goto pcb pc).undo = x.undo := by cases pcb <;> rfl
@[simp] theorem Wave.goto_late (x : Wave) (pcb : Bool) (pc : Addr) : (x.goto pcb pc).late = x.late := by cases pcb <;> rfl
@[simp] theorem Wave.goto_pend (x : Wave) (pcb : Bool) (pc : Addr) : (x.goto pcb pc).pend = x.pend := by cases pcb <;> rfl
@[simp] theorem Wave.goto_park (x : Wave) (pcb : Bool) (pc : Addr) : (x.goto pcb pc).park = x.park := by cases pcb <;> rfl
@[simp] theorem Wave.goto_watches (x : Wave) (pcb : Bool) (pc : Addr) : (x.goto pcb pc).watches = x.watches := by cases pcb <;> rfl
@[simp] theorem Wave.goto_lastIssue (x : Wave) (pcb : Bool) (pc : Addr) : (x.goto pcb pc).lastIssue = x.lastIssue := by cases pcb <;> rfl
@[simp] theorem Wave.goto_rested (x : Wave) (pcb : Bool) (pc : Addr) : (x.goto pcb pc).rested = x.rested := by cases pcb <;> rfl
@[simp] theorem Wave.goto_age (x : Wave) (pcb : Bool) (pc : Addr) : (x.goto pcb pc).age = x.age := by cases pcb <;> rfl
@[simp] theorem Wave.goto_eligible (x : Wave) (pcb : Bool) (pc : Addr) : (x.goto pcb pc).eligible = x.eligible := by cases pcb <;> rfl
@[simp] theorem Wave.goto_lastPcb (x : Wave) (pcb : Bool) (pc : Addr) : (x.goto pcb pc).lastPcb = x.lastPcb := by cases pcb <;> rfl
@[simp] theorem Wave.goto_ended (x : Wave) (pcb : Bool) (pc : Addr) : (x.goto pcb pc).ended = x.ended := by cases pcb <;> rfl
@[simp] theorem Wave.goto_skid (x : Wave) (pcb : Bool) (pc : Addr) : (x.goto pcb pc).skid = x.skid := by cases pcb <;> rfl
@[simp] theorem Wave.goto_stopped (x : Wave) (pcb : Bool) (pc : Addr) : (x.goto pcb pc).stopped = x.stopped := by cases pcb <;> rfl
@[simp] theorem Wave.goto_trap (x : Wave) (pcb : Bool) (pc : Addr) : (x.goto pcb pc).trap = x.trap := by cases pcb <;> rfl
@[simp] theorem Wave.goto_spill (x : Wave) (pcb : Bool) (pc : Addr) : (x.goto pcb pc).spill = x.spill := by cases pcb <;> rfl
@[simp] theorem Wave.goto_super (x : Wave) (pcb : Bool) (pc : Addr) : (x.goto pcb pc).super = x.super := by cases pcb <;> rfl
@[simp] theorem Wave.goto_role (x : Wave) (pcb : Bool) (pc : Addr) : (x.goto pcb pc).role = x.role := by cases pcb <;> rfl
@[simp] theorem Wave.goto_array (x : Wave) (pcb : Bool) (pc : Addr) : (x.goto pcb pc).array = x.array := by cases pcb <;> rfl
@[simp] theorem Wave.goto_core (x : Wave) (pcb : Bool) (pc : Addr) : (x.goto pcb pc).core = x.core := by cases pcb <;> rfl
@[simp] theorem Wave.goto_slot (x : Wave) (pcb : Bool) (pc : Addr) : (x.goto pcb pc).slot = x.slot := by cases pcb <;> rfl
@[simp] theorem Wave.goto_index (x : Wave) (pcb : Bool) (pc : Addr) : (x.goto pcb pc).index = x.index := by cases pcb <;> rfl
@[simp] theorem Wave.goto_block (x : Wave) (pcb : Bool) (pc : Addr) : (x.goto pcb pc).block = x.block := by cases pcb <;> rfl
@[simp] theorem Wave.goto_ctx (x : Wave) (pcb : Bool) (pc : Addr) : (x.goto pcb pc).ctx = x.ctx := by cases pcb <;> rfl
@[simp] theorem Wave.goto_bad (x : Wave) (pcb : Bool) (pc : Addr) : (x.goto pcb pc).bad = x.bad := by cases pcb <;> rfl

/-! ### Wave.holdPath -/

@[simp] theorem Wave.holdPath_v (x : Wave) (pcb : Bool) (h : Hold) : (x.holdPath pcb h).v = x.v := by cases pcb <;> rfl
@[simp] theorem Wave.holdPath_s (x : Wave) (pcb : Bool) (h : Hold) : (x.holdPath pcb h).s = x.s := by cases pcb <;> rfl
@[simp] theorem Wave.holdPath_p (x : Wave) (pcb : Bool) (h : Hold) : (x.holdPath pcb h).p = x.p := by cases pcb <;> rfl
@[simp] theorem Wave.holdPath_ctrs (x : Wave) (pcb : Bool) (h : Hold) : (x.holdPath pcb h).ctrs = x.ctrs := by cases pcb <;> rfl
@[simp] theorem Wave.holdPath_stack (x : Wave) (pcb : Bool) (h : Hold) : (x.holdPath pcb h).stack = x.stack := by cases pcb <;> rfl
@[simp] theorem Wave.holdPath_lfsr (x : Wave) (pcb : Bool) (h : Hold) : (x.holdPath pcb h).lfsr = x.lfsr := by cases pcb <;> rfl
@[simp] theorem Wave.holdPath_pts (x : Wave) (pcb : Bool) (h : Hold) : (x.holdPath pcb h).pts = x.pts := by cases pcb <;> rfl
@[simp] theorem Wave.holdPath_issued (x : Wave) (pcb : Bool) (h : Hold) : (x.holdPath pcb h).issued = x.issued := by cases pcb <;> rfl
@[simp] theorem Wave.holdPath_undo (x : Wave) (pcb : Bool) (h : Hold) : (x.holdPath pcb h).undo = x.undo := by cases pcb <;> rfl
@[simp] theorem Wave.holdPath_late (x : Wave) (pcb : Bool) (h : Hold) : (x.holdPath pcb h).late = x.late := by cases pcb <;> rfl
@[simp] theorem Wave.holdPath_pend (x : Wave) (pcb : Bool) (h : Hold) : (x.holdPath pcb h).pend = x.pend := by cases pcb <;> rfl
@[simp] theorem Wave.holdPath_park (x : Wave) (pcb : Bool) (h : Hold) : (x.holdPath pcb h).park = x.park := by cases pcb <;> rfl
@[simp] theorem Wave.holdPath_watches (x : Wave) (pcb : Bool) (h : Hold) : (x.holdPath pcb h).watches = x.watches := by cases pcb <;> rfl
@[simp] theorem Wave.holdPath_lastIssue (x : Wave) (pcb : Bool) (h : Hold) : (x.holdPath pcb h).lastIssue = x.lastIssue := by cases pcb <;> rfl
@[simp] theorem Wave.holdPath_rested (x : Wave) (pcb : Bool) (h : Hold) : (x.holdPath pcb h).rested = x.rested := by cases pcb <;> rfl
@[simp] theorem Wave.holdPath_age (x : Wave) (pcb : Bool) (h : Hold) : (x.holdPath pcb h).age = x.age := by cases pcb <;> rfl
@[simp] theorem Wave.holdPath_eligible (x : Wave) (pcb : Bool) (h : Hold) : (x.holdPath pcb h).eligible = x.eligible := by cases pcb <;> rfl
@[simp] theorem Wave.holdPath_lastPcb (x : Wave) (pcb : Bool) (h : Hold) : (x.holdPath pcb h).lastPcb = x.lastPcb := by cases pcb <;> rfl
@[simp] theorem Wave.holdPath_ended (x : Wave) (pcb : Bool) (h : Hold) : (x.holdPath pcb h).ended = x.ended := by cases pcb <;> rfl
@[simp] theorem Wave.holdPath_skid (x : Wave) (pcb : Bool) (h : Hold) : (x.holdPath pcb h).skid = x.skid := by cases pcb <;> rfl
@[simp] theorem Wave.holdPath_stopped (x : Wave) (pcb : Bool) (h : Hold) : (x.holdPath pcb h).stopped = x.stopped := by cases pcb <;> rfl
@[simp] theorem Wave.holdPath_trap (x : Wave) (pcb : Bool) (h : Hold) : (x.holdPath pcb h).trap = x.trap := by cases pcb <;> rfl
@[simp] theorem Wave.holdPath_spill (x : Wave) (pcb : Bool) (h : Hold) : (x.holdPath pcb h).spill = x.spill := by cases pcb <;> rfl
@[simp] theorem Wave.holdPath_super (x : Wave) (pcb : Bool) (h : Hold) : (x.holdPath pcb h).super = x.super := by cases pcb <;> rfl
@[simp] theorem Wave.holdPath_role (x : Wave) (pcb : Bool) (h : Hold) : (x.holdPath pcb h).role = x.role := by cases pcb <;> rfl
@[simp] theorem Wave.holdPath_array (x : Wave) (pcb : Bool) (h : Hold) : (x.holdPath pcb h).array = x.array := by cases pcb <;> rfl
@[simp] theorem Wave.holdPath_core (x : Wave) (pcb : Bool) (h : Hold) : (x.holdPath pcb h).core = x.core := by cases pcb <;> rfl
@[simp] theorem Wave.holdPath_slot (x : Wave) (pcb : Bool) (h : Hold) : (x.holdPath pcb h).slot = x.slot := by cases pcb <;> rfl
@[simp] theorem Wave.holdPath_index (x : Wave) (pcb : Bool) (h : Hold) : (x.holdPath pcb h).index = x.index := by cases pcb <;> rfl
@[simp] theorem Wave.holdPath_block (x : Wave) (pcb : Bool) (h : Hold) : (x.holdPath pcb h).block = x.block := by cases pcb <;> rfl
@[simp] theorem Wave.holdPath_ctx (x : Wave) (pcb : Bool) (h : Hold) : (x.holdPath pcb h).ctx = x.ctx := by cases pcb <;> rfl
@[simp] theorem Wave.holdPath_bad (x : Wave) (pcb : Bool) (h : Hold) : (x.holdPath pcb h).bad = x.bad := by cases pcb <;> rfl

/-! ### Wave.setPred -/

@[simp] theorem Wave.setPred_v (x : Wave) (n : Nat) (v : BitVec 32) : (x.setPred n v).v = x.v := by unfold Wave.setPred; split <;> rfl
@[simp] theorem Wave.setPred_s (x : Wave) (n : Nat) (v : BitVec 32) : (x.setPred n v).s = x.s := by unfold Wave.setPred; split <;> rfl
@[simp] theorem Wave.setPred_ctrs (x : Wave) (n : Nat) (v : BitVec 32) : (x.setPred n v).ctrs = x.ctrs := by unfold Wave.setPred; split <;> rfl
@[simp] theorem Wave.setPred_pca (x : Wave) (n : Nat) (v : BitVec 32) : (x.setPred n v).pca = x.pca := by unfold Wave.setPred; split <;> rfl
@[simp] theorem Wave.setPred_pcb (x : Wave) (n : Nat) (v : BitVec 32) : (x.setPred n v).pcb = x.pcb := by unfold Wave.setPred; split <;> rfl
@[simp] theorem Wave.setPred_stack (x : Wave) (n : Nat) (v : BitVec 32) : (x.setPred n v).stack = x.stack := by unfold Wave.setPred; split <;> rfl
@[simp] theorem Wave.setPred_lfsr (x : Wave) (n : Nat) (v : BitVec 32) : (x.setPred n v).lfsr = x.lfsr := by unfold Wave.setPred; split <;> rfl
@[simp] theorem Wave.setPred_pts (x : Wave) (n : Nat) (v : BitVec 32) : (x.setPred n v).pts = x.pts := by unfold Wave.setPred; split <;> rfl
@[simp] theorem Wave.setPred_issued (x : Wave) (n : Nat) (v : BitVec 32) : (x.setPred n v).issued = x.issued := by unfold Wave.setPred; split <;> rfl
@[simp] theorem Wave.setPred_undo (x : Wave) (n : Nat) (v : BitVec 32) : (x.setPred n v).undo = x.undo := by unfold Wave.setPred; split <;> rfl
@[simp] theorem Wave.setPred_late (x : Wave) (n : Nat) (v : BitVec 32) : (x.setPred n v).late = x.late := by unfold Wave.setPred; split <;> rfl
@[simp] theorem Wave.setPred_pend (x : Wave) (n : Nat) (v : BitVec 32) : (x.setPred n v).pend = x.pend := by unfold Wave.setPred; split <;> rfl
@[simp] theorem Wave.setPred_park (x : Wave) (n : Nat) (v : BitVec 32) : (x.setPred n v).park = x.park := by unfold Wave.setPred; split <;> rfl
@[simp] theorem Wave.setPred_watches (x : Wave) (n : Nat) (v : BitVec 32) : (x.setPred n v).watches = x.watches := by unfold Wave.setPred; split <;> rfl
@[simp] theorem Wave.setPred_lastIssue (x : Wave) (n : Nat) (v : BitVec 32) : (x.setPred n v).lastIssue = x.lastIssue := by unfold Wave.setPred; split <;> rfl
@[simp] theorem Wave.setPred_rested (x : Wave) (n : Nat) (v : BitVec 32) : (x.setPred n v).rested = x.rested := by unfold Wave.setPred; split <;> rfl
@[simp] theorem Wave.setPred_age (x : Wave) (n : Nat) (v : BitVec 32) : (x.setPred n v).age = x.age := by unfold Wave.setPred; split <;> rfl
@[simp] theorem Wave.setPred_eligible (x : Wave) (n : Nat) (v : BitVec 32) : (x.setPred n v).eligible = x.eligible := by unfold Wave.setPred; split <;> rfl
@[simp] theorem Wave.setPred_lastPcb (x : Wave) (n : Nat) (v : BitVec 32) : (x.setPred n v).lastPcb = x.lastPcb := by unfold Wave.setPred; split <;> rfl
@[simp] theorem Wave.setPred_ended (x : Wave) (n : Nat) (v : BitVec 32) : (x.setPred n v).ended = x.ended := by unfold Wave.setPred; split <;> rfl
@[simp] theorem Wave.setPred_skid (x : Wave) (n : Nat) (v : BitVec 32) : (x.setPred n v).skid = x.skid := by unfold Wave.setPred; split <;> rfl
@[simp] theorem Wave.setPred_stopped (x : Wave) (n : Nat) (v : BitVec 32) : (x.setPred n v).stopped = x.stopped := by unfold Wave.setPred; split <;> rfl
@[simp] theorem Wave.setPred_trap (x : Wave) (n : Nat) (v : BitVec 32) : (x.setPred n v).trap = x.trap := by unfold Wave.setPred; split <;> rfl
@[simp] theorem Wave.setPred_spill (x : Wave) (n : Nat) (v : BitVec 32) : (x.setPred n v).spill = x.spill := by unfold Wave.setPred; split <;> rfl
@[simp] theorem Wave.setPred_super (x : Wave) (n : Nat) (v : BitVec 32) : (x.setPred n v).super = x.super := by unfold Wave.setPred; split <;> rfl
@[simp] theorem Wave.setPred_role (x : Wave) (n : Nat) (v : BitVec 32) : (x.setPred n v).role = x.role := by unfold Wave.setPred; split <;> rfl
@[simp] theorem Wave.setPred_array (x : Wave) (n : Nat) (v : BitVec 32) : (x.setPred n v).array = x.array := by unfold Wave.setPred; split <;> rfl
@[simp] theorem Wave.setPred_core (x : Wave) (n : Nat) (v : BitVec 32) : (x.setPred n v).core = x.core := by unfold Wave.setPred; split <;> rfl
@[simp] theorem Wave.setPred_slot (x : Wave) (n : Nat) (v : BitVec 32) : (x.setPred n v).slot = x.slot := by unfold Wave.setPred; split <;> rfl
@[simp] theorem Wave.setPred_index (x : Wave) (n : Nat) (v : BitVec 32) : (x.setPred n v).index = x.index := by unfold Wave.setPred; split <;> rfl
@[simp] theorem Wave.setPred_block (x : Wave) (n : Nat) (v : BitVec 32) : (x.setPred n v).block = x.block := by unfold Wave.setPred; split <;> rfl
@[simp] theorem Wave.setPred_ctx (x : Wave) (n : Nat) (v : BitVec 32) : (x.setPred n v).ctx = x.ctx := by unfold Wave.setPred; split <;> rfl
@[simp] theorem Wave.setPred_bad (x : Wave) (n : Nat) (v : BitVec 32) : (x.setPred n v).bad = x.bad := by unfold Wave.setPred; split <;> rfl

/-! ### Wave.setCtr -/

@[simp] theorem Wave.setCtr_v (x : Wave) (n : Nat) (c : Ctr) : (x.setCtr n c).v = x.v := rfl
@[simp] theorem Wave.setCtr_s (x : Wave) (n : Nat) (c : Ctr) : (x.setCtr n c).s = x.s := rfl
@[simp] theorem Wave.setCtr_p (x : Wave) (n : Nat) (c : Ctr) : (x.setCtr n c).p = x.p := rfl
@[simp] theorem Wave.setCtr_pca (x : Wave) (n : Nat) (c : Ctr) : (x.setCtr n c).pca = x.pca := rfl
@[simp] theorem Wave.setCtr_pcb (x : Wave) (n : Nat) (c : Ctr) : (x.setCtr n c).pcb = x.pcb := rfl
@[simp] theorem Wave.setCtr_stack (x : Wave) (n : Nat) (c : Ctr) : (x.setCtr n c).stack = x.stack := rfl
@[simp] theorem Wave.setCtr_lfsr (x : Wave) (n : Nat) (c : Ctr) : (x.setCtr n c).lfsr = x.lfsr := rfl
@[simp] theorem Wave.setCtr_pts (x : Wave) (n : Nat) (c : Ctr) : (x.setCtr n c).pts = x.pts := rfl
@[simp] theorem Wave.setCtr_issued (x : Wave) (n : Nat) (c : Ctr) : (x.setCtr n c).issued = x.issued := rfl
@[simp] theorem Wave.setCtr_undo (x : Wave) (n : Nat) (c : Ctr) : (x.setCtr n c).undo = x.undo := rfl
@[simp] theorem Wave.setCtr_late (x : Wave) (n : Nat) (c : Ctr) : (x.setCtr n c).late = x.late := rfl
@[simp] theorem Wave.setCtr_pend (x : Wave) (n : Nat) (c : Ctr) : (x.setCtr n c).pend = x.pend := rfl
@[simp] theorem Wave.setCtr_park (x : Wave) (n : Nat) (c : Ctr) : (x.setCtr n c).park = x.park := rfl
@[simp] theorem Wave.setCtr_watches (x : Wave) (n : Nat) (c : Ctr) : (x.setCtr n c).watches = x.watches := rfl
@[simp] theorem Wave.setCtr_lastIssue (x : Wave) (n : Nat) (c : Ctr) : (x.setCtr n c).lastIssue = x.lastIssue := rfl
@[simp] theorem Wave.setCtr_rested (x : Wave) (n : Nat) (c : Ctr) : (x.setCtr n c).rested = x.rested := rfl
@[simp] theorem Wave.setCtr_age (x : Wave) (n : Nat) (c : Ctr) : (x.setCtr n c).age = x.age := rfl
@[simp] theorem Wave.setCtr_eligible (x : Wave) (n : Nat) (c : Ctr) : (x.setCtr n c).eligible = x.eligible := rfl
@[simp] theorem Wave.setCtr_lastPcb (x : Wave) (n : Nat) (c : Ctr) : (x.setCtr n c).lastPcb = x.lastPcb := rfl
@[simp] theorem Wave.setCtr_ended (x : Wave) (n : Nat) (c : Ctr) : (x.setCtr n c).ended = x.ended := rfl
@[simp] theorem Wave.setCtr_skid (x : Wave) (n : Nat) (c : Ctr) : (x.setCtr n c).skid = x.skid := rfl
@[simp] theorem Wave.setCtr_stopped (x : Wave) (n : Nat) (c : Ctr) : (x.setCtr n c).stopped = x.stopped := rfl
@[simp] theorem Wave.setCtr_trap (x : Wave) (n : Nat) (c : Ctr) : (x.setCtr n c).trap = x.trap := rfl
@[simp] theorem Wave.setCtr_spill (x : Wave) (n : Nat) (c : Ctr) : (x.setCtr n c).spill = x.spill := rfl
@[simp] theorem Wave.setCtr_super (x : Wave) (n : Nat) (c : Ctr) : (x.setCtr n c).super = x.super := rfl
@[simp] theorem Wave.setCtr_role (x : Wave) (n : Nat) (c : Ctr) : (x.setCtr n c).role = x.role := rfl
@[simp] theorem Wave.setCtr_array (x : Wave) (n : Nat) (c : Ctr) : (x.setCtr n c).array = x.array := rfl
@[simp] theorem Wave.setCtr_core (x : Wave) (n : Nat) (c : Ctr) : (x.setCtr n c).core = x.core := rfl
@[simp] theorem Wave.setCtr_slot (x : Wave) (n : Nat) (c : Ctr) : (x.setCtr n c).slot = x.slot := rfl
@[simp] theorem Wave.setCtr_index (x : Wave) (n : Nat) (c : Ctr) : (x.setCtr n c).index = x.index := rfl
@[simp] theorem Wave.setCtr_block (x : Wave) (n : Nat) (c : Ctr) : (x.setCtr n c).block = x.block := rfl
@[simp] theorem Wave.setCtr_ctx (x : Wave) (n : Nat) (c : Ctr) : (x.setCtr n c).ctx = x.ctx := rfl
@[simp] theorem Wave.setCtr_bad (x : Wave) (n : Nat) (c : Ctr) : (x.setCtr n c).bad = x.bad := rfl

/-! ### Wave.log -/

@[simp] theorem Wave.log_v (x : Wave) (uid : Nat) (u : Undo) : (x.log uid u).v = x.v := by unfold Wave.log; split <;> rfl
@[simp] theorem Wave.log_s (x : Wave) (uid : Nat) (u : Undo) : (x.log uid u).s = x.s := by unfold Wave.log; split <;> rfl
@[simp] theorem Wave.log_p (x : Wave) (uid : Nat) (u : Undo) : (x.log uid u).p = x.p := by unfold Wave.log; split <;> rfl
@[simp] theorem Wave.log_ctrs (x : Wave) (uid : Nat) (u : Undo) : (x.log uid u).ctrs = x.ctrs := by unfold Wave.log; split <;> rfl
@[simp] theorem Wave.log_pca (x : Wave) (uid : Nat) (u : Undo) : (x.log uid u).pca = x.pca := by unfold Wave.log; split <;> rfl
@[simp] theorem Wave.log_pcb (x : Wave) (uid : Nat) (u : Undo) : (x.log uid u).pcb = x.pcb := by unfold Wave.log; split <;> rfl
@[simp] theorem Wave.log_stack (x : Wave) (uid : Nat) (u : Undo) : (x.log uid u).stack = x.stack := by unfold Wave.log; split <;> rfl
@[simp] theorem Wave.log_lfsr (x : Wave) (uid : Nat) (u : Undo) : (x.log uid u).lfsr = x.lfsr := by unfold Wave.log; split <;> rfl
@[simp] theorem Wave.log_pts (x : Wave) (uid : Nat) (u : Undo) : (x.log uid u).pts = x.pts := by unfold Wave.log; split <;> rfl
@[simp] theorem Wave.log_issued (x : Wave) (uid : Nat) (u : Undo) : (x.log uid u).issued = x.issued := by unfold Wave.log; split <;> rfl
@[simp] theorem Wave.log_late (x : Wave) (uid : Nat) (u : Undo) : (x.log uid u).late = x.late := by unfold Wave.log; split <;> rfl
@[simp] theorem Wave.log_pend (x : Wave) (uid : Nat) (u : Undo) : (x.log uid u).pend = x.pend := by unfold Wave.log; split <;> rfl
@[simp] theorem Wave.log_park (x : Wave) (uid : Nat) (u : Undo) : (x.log uid u).park = x.park := by unfold Wave.log; split <;> rfl
@[simp] theorem Wave.log_watches (x : Wave) (uid : Nat) (u : Undo) : (x.log uid u).watches = x.watches := by unfold Wave.log; split <;> rfl
@[simp] theorem Wave.log_lastIssue (x : Wave) (uid : Nat) (u : Undo) : (x.log uid u).lastIssue = x.lastIssue := by unfold Wave.log; split <;> rfl
@[simp] theorem Wave.log_rested (x : Wave) (uid : Nat) (u : Undo) : (x.log uid u).rested = x.rested := by unfold Wave.log; split <;> rfl
@[simp] theorem Wave.log_age (x : Wave) (uid : Nat) (u : Undo) : (x.log uid u).age = x.age := by unfold Wave.log; split <;> rfl
@[simp] theorem Wave.log_eligible (x : Wave) (uid : Nat) (u : Undo) : (x.log uid u).eligible = x.eligible := by unfold Wave.log; split <;> rfl
@[simp] theorem Wave.log_lastPcb (x : Wave) (uid : Nat) (u : Undo) : (x.log uid u).lastPcb = x.lastPcb := by unfold Wave.log; split <;> rfl
@[simp] theorem Wave.log_ended (x : Wave) (uid : Nat) (u : Undo) : (x.log uid u).ended = x.ended := by unfold Wave.log; split <;> rfl
@[simp] theorem Wave.log_skid (x : Wave) (uid : Nat) (u : Undo) : (x.log uid u).skid = x.skid := by unfold Wave.log; split <;> rfl
@[simp] theorem Wave.log_stopped (x : Wave) (uid : Nat) (u : Undo) : (x.log uid u).stopped = x.stopped := by unfold Wave.log; split <;> rfl
@[simp] theorem Wave.log_trap (x : Wave) (uid : Nat) (u : Undo) : (x.log uid u).trap = x.trap := by unfold Wave.log; split <;> rfl
@[simp] theorem Wave.log_spill (x : Wave) (uid : Nat) (u : Undo) : (x.log uid u).spill = x.spill := by unfold Wave.log; split <;> rfl
@[simp] theorem Wave.log_super (x : Wave) (uid : Nat) (u : Undo) : (x.log uid u).super = x.super := by unfold Wave.log; split <;> rfl
@[simp] theorem Wave.log_role (x : Wave) (uid : Nat) (u : Undo) : (x.log uid u).role = x.role := by unfold Wave.log; split <;> rfl
@[simp] theorem Wave.log_array (x : Wave) (uid : Nat) (u : Undo) : (x.log uid u).array = x.array := by unfold Wave.log; split <;> rfl
@[simp] theorem Wave.log_core (x : Wave) (uid : Nat) (u : Undo) : (x.log uid u).core = x.core := by unfold Wave.log; split <;> rfl
@[simp] theorem Wave.log_slot (x : Wave) (uid : Nat) (u : Undo) : (x.log uid u).slot = x.slot := by unfold Wave.log; split <;> rfl
@[simp] theorem Wave.log_index (x : Wave) (uid : Nat) (u : Undo) : (x.log uid u).index = x.index := by unfold Wave.log; split <;> rfl
@[simp] theorem Wave.log_block (x : Wave) (uid : Nat) (u : Undo) : (x.log uid u).block = x.block := by unfold Wave.log; split <;> rfl
@[simp] theorem Wave.log_ctx (x : Wave) (uid : Nat) (u : Undo) : (x.log uid u).ctx = x.ctx := by unfold Wave.log; split <;> rfl
@[simp] theorem Wave.log_bad (x : Wave) (uid : Nat) (u : Undo) : (x.log uid u).bad = x.bad := by unfold Wave.log; split <;> rfl

/-! ### Wave.noteLate -/

@[simp] theorem Wave.noteLate_v (x : Wave) (uid reg : Nat) (old : List (BitVec 64)) (lat : Nat) : (x.noteLate uid reg old lat).v = x.v := by unfold Wave.noteLate; split <;> rfl
@[simp] theorem Wave.noteLate_s (x : Wave) (uid reg : Nat) (old : List (BitVec 64)) (lat : Nat) : (x.noteLate uid reg old lat).s = x.s := by unfold Wave.noteLate; split <;> rfl
@[simp] theorem Wave.noteLate_p (x : Wave) (uid reg : Nat) (old : List (BitVec 64)) (lat : Nat) : (x.noteLate uid reg old lat).p = x.p := by unfold Wave.noteLate; split <;> rfl
@[simp] theorem Wave.noteLate_ctrs (x : Wave) (uid reg : Nat) (old : List (BitVec 64)) (lat : Nat) : (x.noteLate uid reg old lat).ctrs = x.ctrs := by unfold Wave.noteLate; split <;> rfl
@[simp] theorem Wave.noteLate_pca (x : Wave) (uid reg : Nat) (old : List (BitVec 64)) (lat : Nat) : (x.noteLate uid reg old lat).pca = x.pca := by unfold Wave.noteLate; split <;> rfl
@[simp] theorem Wave.noteLate_pcb (x : Wave) (uid reg : Nat) (old : List (BitVec 64)) (lat : Nat) : (x.noteLate uid reg old lat).pcb = x.pcb := by unfold Wave.noteLate; split <;> rfl
@[simp] theorem Wave.noteLate_stack (x : Wave) (uid reg : Nat) (old : List (BitVec 64)) (lat : Nat) : (x.noteLate uid reg old lat).stack = x.stack := by unfold Wave.noteLate; split <;> rfl
@[simp] theorem Wave.noteLate_lfsr (x : Wave) (uid reg : Nat) (old : List (BitVec 64)) (lat : Nat) : (x.noteLate uid reg old lat).lfsr = x.lfsr := by unfold Wave.noteLate; split <;> rfl
@[simp] theorem Wave.noteLate_pts (x : Wave) (uid reg : Nat) (old : List (BitVec 64)) (lat : Nat) : (x.noteLate uid reg old lat).pts = x.pts := by unfold Wave.noteLate; split <;> rfl
@[simp] theorem Wave.noteLate_issued (x : Wave) (uid reg : Nat) (old : List (BitVec 64)) (lat : Nat) : (x.noteLate uid reg old lat).issued = x.issued := by unfold Wave.noteLate; split <;> rfl
@[simp] theorem Wave.noteLate_undo (x : Wave) (uid reg : Nat) (old : List (BitVec 64)) (lat : Nat) : (x.noteLate uid reg old lat).undo = x.undo := by unfold Wave.noteLate; split <;> rfl
@[simp] theorem Wave.noteLate_pend (x : Wave) (uid reg : Nat) (old : List (BitVec 64)) (lat : Nat) : (x.noteLate uid reg old lat).pend = x.pend := by unfold Wave.noteLate; split <;> rfl
@[simp] theorem Wave.noteLate_park (x : Wave) (uid reg : Nat) (old : List (BitVec 64)) (lat : Nat) : (x.noteLate uid reg old lat).park = x.park := by unfold Wave.noteLate; split <;> rfl
@[simp] theorem Wave.noteLate_watches (x : Wave) (uid reg : Nat) (old : List (BitVec 64)) (lat : Nat) : (x.noteLate uid reg old lat).watches = x.watches := by unfold Wave.noteLate; split <;> rfl
@[simp] theorem Wave.noteLate_lastIssue (x : Wave) (uid reg : Nat) (old : List (BitVec 64)) (lat : Nat) : (x.noteLate uid reg old lat).lastIssue = x.lastIssue := by unfold Wave.noteLate; split <;> rfl
@[simp] theorem Wave.noteLate_rested (x : Wave) (uid reg : Nat) (old : List (BitVec 64)) (lat : Nat) : (x.noteLate uid reg old lat).rested = x.rested := by unfold Wave.noteLate; split <;> rfl
@[simp] theorem Wave.noteLate_age (x : Wave) (uid reg : Nat) (old : List (BitVec 64)) (lat : Nat) : (x.noteLate uid reg old lat).age = x.age := by unfold Wave.noteLate; split <;> rfl
@[simp] theorem Wave.noteLate_eligible (x : Wave) (uid reg : Nat) (old : List (BitVec 64)) (lat : Nat) : (x.noteLate uid reg old lat).eligible = x.eligible := by unfold Wave.noteLate; split <;> rfl
@[simp] theorem Wave.noteLate_lastPcb (x : Wave) (uid reg : Nat) (old : List (BitVec 64)) (lat : Nat) : (x.noteLate uid reg old lat).lastPcb = x.lastPcb := by unfold Wave.noteLate; split <;> rfl
@[simp] theorem Wave.noteLate_ended (x : Wave) (uid reg : Nat) (old : List (BitVec 64)) (lat : Nat) : (x.noteLate uid reg old lat).ended = x.ended := by unfold Wave.noteLate; split <;> rfl
@[simp] theorem Wave.noteLate_skid (x : Wave) (uid reg : Nat) (old : List (BitVec 64)) (lat : Nat) : (x.noteLate uid reg old lat).skid = x.skid := by unfold Wave.noteLate; split <;> rfl
@[simp] theorem Wave.noteLate_stopped (x : Wave) (uid reg : Nat) (old : List (BitVec 64)) (lat : Nat) : (x.noteLate uid reg old lat).stopped = x.stopped := by unfold Wave.noteLate; split <;> rfl
@[simp] theorem Wave.noteLate_trap (x : Wave) (uid reg : Nat) (old : List (BitVec 64)) (lat : Nat) : (x.noteLate uid reg old lat).trap = x.trap := by unfold Wave.noteLate; split <;> rfl
@[simp] theorem Wave.noteLate_spill (x : Wave) (uid reg : Nat) (old : List (BitVec 64)) (lat : Nat) : (x.noteLate uid reg old lat).spill = x.spill := by unfold Wave.noteLate; split <;> rfl
@[simp] theorem Wave.noteLate_super (x : Wave) (uid reg : Nat) (old : List (BitVec 64)) (lat : Nat) : (x.noteLate uid reg old lat).super = x.super := by unfold Wave.noteLate; split <;> rfl
@[simp] theorem Wave.noteLate_role (x : Wave) (uid reg : Nat) (old : List (BitVec 64)) (lat : Nat) : (x.noteLate uid reg old lat).role = x.role := by unfold Wave.noteLate; split <;> rfl
@[simp] theorem Wave.noteLate_array (x : Wave) (uid reg : Nat) (old : List (BitVec 64)) (lat : Nat) : (x.noteLate uid reg old lat).array = x.array := by unfold Wave.noteLate; split <;> rfl
@[simp] theorem Wave.noteLate_core (x : Wave) (uid reg : Nat) (old : List (BitVec 64)) (lat : Nat) : (x.noteLate uid reg old lat).core = x.core := by unfold Wave.noteLate; split <;> rfl
@[simp] theorem Wave.noteLate_slot (x : Wave) (uid reg : Nat) (old : List (BitVec 64)) (lat : Nat) : (x.noteLate uid reg old lat).slot = x.slot := by unfold Wave.noteLate; split <;> rfl
@[simp] theorem Wave.noteLate_index (x : Wave) (uid reg : Nat) (old : List (BitVec 64)) (lat : Nat) : (x.noteLate uid reg old lat).index = x.index := by unfold Wave.noteLate; split <;> rfl
@[simp] theorem Wave.noteLate_block (x : Wave) (uid reg : Nat) (old : List (BitVec 64)) (lat : Nat) : (x.noteLate uid reg old lat).block = x.block := by unfold Wave.noteLate; split <;> rfl
@[simp] theorem Wave.noteLate_ctx (x : Wave) (uid reg : Nat) (old : List (BitVec 64)) (lat : Nat) : (x.noteLate uid reg old lat).ctx = x.ctx := by unfold Wave.noteLate; split <;> rfl
@[simp] theorem Wave.noteLate_bad (x : Wave) (uid reg : Nat) (old : List (BitVec 64)) (lat : Nat) : (x.noteLate uid reg old lat).bad = x.bad := by unfold Wave.noteLate; split <;> rfl

/-! ### Wave.signal -/

@[simp] theorem Wave.signal_v (x : Wave) (sig : BitVec 4) (uid : Nat) (due : Option Nat) : (x.signal sig uid due).v = x.v := by unfold Wave.signal; split <;> rfl
@[simp] theorem Wave.signal_s (x : Wave) (sig : BitVec 4) (uid : Nat) (due : Option Nat) : (x.signal sig uid due).s = x.s := by unfold Wave.signal; split <;> rfl
@[simp] theorem Wave.signal_p (x : Wave) (sig : BitVec 4) (uid : Nat) (due : Option Nat) : (x.signal sig uid due).p = x.p := by unfold Wave.signal; split <;> rfl
@[simp] theorem Wave.signal_pca (x : Wave) (sig : BitVec 4) (uid : Nat) (due : Option Nat) : (x.signal sig uid due).pca = x.pca := by unfold Wave.signal; split <;> rfl
@[simp] theorem Wave.signal_pcb (x : Wave) (sig : BitVec 4) (uid : Nat) (due : Option Nat) : (x.signal sig uid due).pcb = x.pcb := by unfold Wave.signal; split <;> rfl
@[simp] theorem Wave.signal_stack (x : Wave) (sig : BitVec 4) (uid : Nat) (due : Option Nat) : (x.signal sig uid due).stack = x.stack := by unfold Wave.signal; split <;> rfl
@[simp] theorem Wave.signal_lfsr (x : Wave) (sig : BitVec 4) (uid : Nat) (due : Option Nat) : (x.signal sig uid due).lfsr = x.lfsr := by unfold Wave.signal; split <;> rfl
@[simp] theorem Wave.signal_pts (x : Wave) (sig : BitVec 4) (uid : Nat) (due : Option Nat) : (x.signal sig uid due).pts = x.pts := by unfold Wave.signal; split <;> rfl
@[simp] theorem Wave.signal_issued (x : Wave) (sig : BitVec 4) (uid : Nat) (due : Option Nat) : (x.signal sig uid due).issued = x.issued := by unfold Wave.signal; split <;> rfl
@[simp] theorem Wave.signal_undo (x : Wave) (sig : BitVec 4) (uid : Nat) (due : Option Nat) : (x.signal sig uid due).undo = x.undo := by unfold Wave.signal; split <;> rfl
@[simp] theorem Wave.signal_late (x : Wave) (sig : BitVec 4) (uid : Nat) (due : Option Nat) : (x.signal sig uid due).late = x.late := by unfold Wave.signal; split <;> rfl
@[simp] theorem Wave.signal_pend (x : Wave) (sig : BitVec 4) (uid : Nat) (due : Option Nat) : (x.signal sig uid due).pend = x.pend := by unfold Wave.signal; split <;> rfl
@[simp] theorem Wave.signal_park (x : Wave) (sig : BitVec 4) (uid : Nat) (due : Option Nat) : (x.signal sig uid due).park = x.park := by unfold Wave.signal; split <;> rfl
@[simp] theorem Wave.signal_watches (x : Wave) (sig : BitVec 4) (uid : Nat) (due : Option Nat) : (x.signal sig uid due).watches = x.watches := by unfold Wave.signal; split <;> rfl
@[simp] theorem Wave.signal_lastIssue (x : Wave) (sig : BitVec 4) (uid : Nat) (due : Option Nat) : (x.signal sig uid due).lastIssue = x.lastIssue := by unfold Wave.signal; split <;> rfl
@[simp] theorem Wave.signal_rested (x : Wave) (sig : BitVec 4) (uid : Nat) (due : Option Nat) : (x.signal sig uid due).rested = x.rested := by unfold Wave.signal; split <;> rfl
@[simp] theorem Wave.signal_age (x : Wave) (sig : BitVec 4) (uid : Nat) (due : Option Nat) : (x.signal sig uid due).age = x.age := by unfold Wave.signal; split <;> rfl
@[simp] theorem Wave.signal_eligible (x : Wave) (sig : BitVec 4) (uid : Nat) (due : Option Nat) : (x.signal sig uid due).eligible = x.eligible := by unfold Wave.signal; split <;> rfl
@[simp] theorem Wave.signal_lastPcb (x : Wave) (sig : BitVec 4) (uid : Nat) (due : Option Nat) : (x.signal sig uid due).lastPcb = x.lastPcb := by unfold Wave.signal; split <;> rfl
@[simp] theorem Wave.signal_ended (x : Wave) (sig : BitVec 4) (uid : Nat) (due : Option Nat) : (x.signal sig uid due).ended = x.ended := by unfold Wave.signal; split <;> rfl
@[simp] theorem Wave.signal_skid (x : Wave) (sig : BitVec 4) (uid : Nat) (due : Option Nat) : (x.signal sig uid due).skid = x.skid := by unfold Wave.signal; split <;> rfl
@[simp] theorem Wave.signal_stopped (x : Wave) (sig : BitVec 4) (uid : Nat) (due : Option Nat) : (x.signal sig uid due).stopped = x.stopped := by unfold Wave.signal; split <;> rfl
@[simp] theorem Wave.signal_trap (x : Wave) (sig : BitVec 4) (uid : Nat) (due : Option Nat) : (x.signal sig uid due).trap = x.trap := by unfold Wave.signal; split <;> rfl
@[simp] theorem Wave.signal_spill (x : Wave) (sig : BitVec 4) (uid : Nat) (due : Option Nat) : (x.signal sig uid due).spill = x.spill := by unfold Wave.signal; split <;> rfl
@[simp] theorem Wave.signal_super (x : Wave) (sig : BitVec 4) (uid : Nat) (due : Option Nat) : (x.signal sig uid due).super = x.super := by unfold Wave.signal; split <;> rfl
@[simp] theorem Wave.signal_role (x : Wave) (sig : BitVec 4) (uid : Nat) (due : Option Nat) : (x.signal sig uid due).role = x.role := by unfold Wave.signal; split <;> rfl
@[simp] theorem Wave.signal_array (x : Wave) (sig : BitVec 4) (uid : Nat) (due : Option Nat) : (x.signal sig uid due).array = x.array := by unfold Wave.signal; split <;> rfl
@[simp] theorem Wave.signal_core (x : Wave) (sig : BitVec 4) (uid : Nat) (due : Option Nat) : (x.signal sig uid due).core = x.core := by unfold Wave.signal; split <;> rfl
@[simp] theorem Wave.signal_slot (x : Wave) (sig : BitVec 4) (uid : Nat) (due : Option Nat) : (x.signal sig uid due).slot = x.slot := by unfold Wave.signal; split <;> rfl
@[simp] theorem Wave.signal_index (x : Wave) (sig : BitVec 4) (uid : Nat) (due : Option Nat) : (x.signal sig uid due).index = x.index := by unfold Wave.signal; split <;> rfl
@[simp] theorem Wave.signal_block (x : Wave) (sig : BitVec 4) (uid : Nat) (due : Option Nat) : (x.signal sig uid due).block = x.block := by unfold Wave.signal; split <;> rfl
@[simp] theorem Wave.signal_ctx (x : Wave) (sig : BitVec 4) (uid : Nat) (due : Option Nat) : (x.signal sig uid due).ctx = x.ctx := by unfold Wave.signal; split <;> rfl
@[simp] theorem Wave.signal_bad (x : Wave) (sig : BitVec 4) (uid : Nat) (due : Option Nat) : (x.signal sig uid due).bad = x.bad := by unfold Wave.signal; split <;> rfl

/-! ### Wave.complete -/

@[simp] theorem Wave.complete_v (x : Wave) (uid err info pts : Nat) : (x.complete uid err info pts).v = x.v := rfl
@[simp] theorem Wave.complete_s (x : Wave) (uid err info pts : Nat) : (x.complete uid err info pts).s = x.s := rfl
@[simp] theorem Wave.complete_p (x : Wave) (uid err info pts : Nat) : (x.complete uid err info pts).p = x.p := rfl
@[simp] theorem Wave.complete_pca (x : Wave) (uid err info pts : Nat) : (x.complete uid err info pts).pca = x.pca := rfl
@[simp] theorem Wave.complete_pcb (x : Wave) (uid err info pts : Nat) : (x.complete uid err info pts).pcb = x.pcb := rfl
@[simp] theorem Wave.complete_stack (x : Wave) (uid err info pts : Nat) : (x.complete uid err info pts).stack = x.stack := rfl
@[simp] theorem Wave.complete_lfsr (x : Wave) (uid err info pts : Nat) : (x.complete uid err info pts).lfsr = x.lfsr := rfl
@[simp] theorem Wave.complete_pts (x : Wave) (uid err info pts : Nat) : (x.complete uid err info pts).pts = x.pts := rfl
@[simp] theorem Wave.complete_issued (x : Wave) (uid err info pts : Nat) : (x.complete uid err info pts).issued = x.issued := rfl
@[simp] theorem Wave.complete_undo (x : Wave) (uid err info pts : Nat) : (x.complete uid err info pts).undo = x.undo := rfl
@[simp] theorem Wave.complete_late (x : Wave) (uid err info pts : Nat) : (x.complete uid err info pts).late = x.late := rfl
@[simp] theorem Wave.complete_pend (x : Wave) (uid err info pts : Nat) : (x.complete uid err info pts).pend = x.pend := rfl
@[simp] theorem Wave.complete_park (x : Wave) (uid err info pts : Nat) : (x.complete uid err info pts).park = x.park := rfl
@[simp] theorem Wave.complete_watches (x : Wave) (uid err info pts : Nat) : (x.complete uid err info pts).watches = x.watches := rfl
@[simp] theorem Wave.complete_lastIssue (x : Wave) (uid err info pts : Nat) : (x.complete uid err info pts).lastIssue = x.lastIssue := rfl
@[simp] theorem Wave.complete_rested (x : Wave) (uid err info pts : Nat) : (x.complete uid err info pts).rested = x.rested := rfl
@[simp] theorem Wave.complete_age (x : Wave) (uid err info pts : Nat) : (x.complete uid err info pts).age = x.age := rfl
@[simp] theorem Wave.complete_eligible (x : Wave) (uid err info pts : Nat) : (x.complete uid err info pts).eligible = x.eligible := rfl
@[simp] theorem Wave.complete_lastPcb (x : Wave) (uid err info pts : Nat) : (x.complete uid err info pts).lastPcb = x.lastPcb := rfl
@[simp] theorem Wave.complete_ended (x : Wave) (uid err info pts : Nat) : (x.complete uid err info pts).ended = x.ended := rfl
@[simp] theorem Wave.complete_skid (x : Wave) (uid err info pts : Nat) : (x.complete uid err info pts).skid = x.skid := rfl
@[simp] theorem Wave.complete_stopped (x : Wave) (uid err info pts : Nat) : (x.complete uid err info pts).stopped = x.stopped := rfl
@[simp] theorem Wave.complete_trap (x : Wave) (uid err info pts : Nat) : (x.complete uid err info pts).trap = x.trap := rfl
@[simp] theorem Wave.complete_spill (x : Wave) (uid err info pts : Nat) : (x.complete uid err info pts).spill = x.spill := rfl
@[simp] theorem Wave.complete_super (x : Wave) (uid err info pts : Nat) : (x.complete uid err info pts).super = x.super := rfl
@[simp] theorem Wave.complete_role (x : Wave) (uid err info pts : Nat) : (x.complete uid err info pts).role = x.role := rfl
@[simp] theorem Wave.complete_array (x : Wave) (uid err info pts : Nat) : (x.complete uid err info pts).array = x.array := rfl
@[simp] theorem Wave.complete_core (x : Wave) (uid err info pts : Nat) : (x.complete uid err info pts).core = x.core := rfl
@[simp] theorem Wave.complete_slot (x : Wave) (uid err info pts : Nat) : (x.complete uid err info pts).slot = x.slot := rfl
@[simp] theorem Wave.complete_index (x : Wave) (uid err info pts : Nat) : (x.complete uid err info pts).index = x.index := rfl
@[simp] theorem Wave.complete_block (x : Wave) (uid err info pts : Nat) : (x.complete uid err info pts).block = x.block := rfl
@[simp] theorem Wave.complete_ctx (x : Wave) (uid err info pts : Nat) : (x.complete uid err info pts).ctx = x.ctx := rfl
@[simp] theorem Wave.complete_bad (x : Wave) (uid err info pts : Nat) : (x.complete uid err info pts).bad = x.bad := rfl

/-! ### Wave.retire -/

@[simp] theorem Wave.retire_v (x : Wave) (clk : Nat) : (x.retire clk).v = x.v := by unfold Wave.retire; dsimp only; split <;> rfl
@[simp] theorem Wave.retire_s (x : Wave) (clk : Nat) : (x.retire clk).s = x.s := by unfold Wave.retire; dsimp only; split <;> rfl
@[simp] theorem Wave.retire_p (x : Wave) (clk : Nat) : (x.retire clk).p = x.p := by unfold Wave.retire; dsimp only; split <;> rfl
@[simp] theorem Wave.retire_pca (x : Wave) (clk : Nat) : (x.retire clk).pca = x.pca := by unfold Wave.retire; dsimp only; split <;> rfl
@[simp] theorem Wave.retire_pcb (x : Wave) (clk : Nat) : (x.retire clk).pcb = x.pcb := by unfold Wave.retire; dsimp only; split <;> rfl
@[simp] theorem Wave.retire_stack (x : Wave) (clk : Nat) : (x.retire clk).stack = x.stack := by unfold Wave.retire; dsimp only; split <;> rfl
@[simp] theorem Wave.retire_lfsr (x : Wave) (clk : Nat) : (x.retire clk).lfsr = x.lfsr := by unfold Wave.retire; dsimp only; split <;> rfl
@[simp] theorem Wave.retire_pts (x : Wave) (clk : Nat) : (x.retire clk).pts = x.pts := by unfold Wave.retire; dsimp only; split <;> rfl
@[simp] theorem Wave.retire_issued (x : Wave) (clk : Nat) : (x.retire clk).issued = x.issued := by unfold Wave.retire; dsimp only; split <;> rfl
@[simp] theorem Wave.retire_undo (x : Wave) (clk : Nat) : (x.retire clk).undo = x.undo := by unfold Wave.retire; dsimp only; split <;> rfl
@[simp] theorem Wave.retire_pend (x : Wave) (clk : Nat) : (x.retire clk).pend = x.pend := by unfold Wave.retire; dsimp only; split <;> rfl
@[simp] theorem Wave.retire_park (x : Wave) (clk : Nat) : (x.retire clk).park = x.park := by unfold Wave.retire; dsimp only; split <;> rfl
@[simp] theorem Wave.retire_watches (x : Wave) (clk : Nat) : (x.retire clk).watches = x.watches := by unfold Wave.retire; dsimp only; split <;> rfl
@[simp] theorem Wave.retire_lastIssue (x : Wave) (clk : Nat) : (x.retire clk).lastIssue = x.lastIssue := by unfold Wave.retire; dsimp only; split <;> rfl
@[simp] theorem Wave.retire_rested (x : Wave) (clk : Nat) : (x.retire clk).rested = x.rested := by unfold Wave.retire; dsimp only; split <;> rfl
@[simp] theorem Wave.retire_age (x : Wave) (clk : Nat) : (x.retire clk).age = x.age := by unfold Wave.retire; dsimp only; split <;> rfl
@[simp] theorem Wave.retire_eligible (x : Wave) (clk : Nat) : (x.retire clk).eligible = x.eligible := by unfold Wave.retire; dsimp only; split <;> rfl
@[simp] theorem Wave.retire_lastPcb (x : Wave) (clk : Nat) : (x.retire clk).lastPcb = x.lastPcb := by unfold Wave.retire; dsimp only; split <;> rfl
@[simp] theorem Wave.retire_ended (x : Wave) (clk : Nat) : (x.retire clk).ended = x.ended := by unfold Wave.retire; dsimp only; split <;> rfl
@[simp] theorem Wave.retire_skid (x : Wave) (clk : Nat) : (x.retire clk).skid = x.skid := by unfold Wave.retire; dsimp only; split <;> rfl
@[simp] theorem Wave.retire_stopped (x : Wave) (clk : Nat) : (x.retire clk).stopped = x.stopped := by unfold Wave.retire; dsimp only; split <;> rfl
@[simp] theorem Wave.retire_trap (x : Wave) (clk : Nat) : (x.retire clk).trap = x.trap := by unfold Wave.retire; dsimp only; split <;> rfl
@[simp] theorem Wave.retire_spill (x : Wave) (clk : Nat) : (x.retire clk).spill = x.spill := by unfold Wave.retire; dsimp only; split <;> rfl
@[simp] theorem Wave.retire_super (x : Wave) (clk : Nat) : (x.retire clk).super = x.super := by unfold Wave.retire; dsimp only; split <;> rfl
@[simp] theorem Wave.retire_role (x : Wave) (clk : Nat) : (x.retire clk).role = x.role := by unfold Wave.retire; dsimp only; split <;> rfl
@[simp] theorem Wave.retire_array (x : Wave) (clk : Nat) : (x.retire clk).array = x.array := by unfold Wave.retire; dsimp only; split <;> rfl
@[simp] theorem Wave.retire_core (x : Wave) (clk : Nat) : (x.retire clk).core = x.core := by unfold Wave.retire; dsimp only; split <;> rfl
@[simp] theorem Wave.retire_slot (x : Wave) (clk : Nat) : (x.retire clk).slot = x.slot := by unfold Wave.retire; dsimp only; split <;> rfl
@[simp] theorem Wave.retire_index (x : Wave) (clk : Nat) : (x.retire clk).index = x.index := by unfold Wave.retire; dsimp only; split <;> rfl
@[simp] theorem Wave.retire_block (x : Wave) (clk : Nat) : (x.retire clk).block = x.block := by unfold Wave.retire; dsimp only; split <;> rfl
@[simp] theorem Wave.retire_ctx (x : Wave) (clk : Nat) : (x.retire clk).ctx = x.ctx := by unfold Wave.retire; dsimp only; split <;> rfl
@[simp] theorem Wave.retire_bad (x : Wave) (clk : Nat) : (x.retire clk).bad = x.bad := by unfold Wave.retire; dsimp only; split <;> rfl

/-! ### Wave.heal -/

@[simp] theorem Wave.heal_v (x : Wave) (p : Nat → Bool) : (x.heal p).v = x.v := rfl
@[simp] theorem Wave.heal_s (x : Wave) (p : Nat → Bool) : (x.heal p).s = x.s := rfl
@[simp] theorem Wave.heal_p (x : Wave) (p : Nat → Bool) : (x.heal p).p = x.p := rfl
@[simp] theorem Wave.heal_ctrs (x : Wave) (p : Nat → Bool) : (x.heal p).ctrs = x.ctrs := rfl
@[simp] theorem Wave.heal_pca (x : Wave) (p : Nat → Bool) : (x.heal p).pca = x.pca := rfl
@[simp] theorem Wave.heal_pcb (x : Wave) (p : Nat → Bool) : (x.heal p).pcb = x.pcb := rfl
@[simp] theorem Wave.heal_stack (x : Wave) (p : Nat → Bool) : (x.heal p).stack = x.stack := rfl
@[simp] theorem Wave.heal_lfsr (x : Wave) (p : Nat → Bool) : (x.heal p).lfsr = x.lfsr := rfl
@[simp] theorem Wave.heal_pts (x : Wave) (p : Nat → Bool) : (x.heal p).pts = x.pts := rfl
@[simp] theorem Wave.heal_issued (x : Wave) (p : Nat → Bool) : (x.heal p).issued = x.issued := rfl
@[simp] theorem Wave.heal_undo (x : Wave) (p : Nat → Bool) : (x.heal p).undo = x.undo := rfl
@[simp] theorem Wave.heal_late (x : Wave) (p : Nat → Bool) : (x.heal p).late = x.late := rfl
@[simp] theorem Wave.heal_pend (x : Wave) (p : Nat → Bool) : (x.heal p).pend = x.pend := rfl
@[simp] theorem Wave.heal_park (x : Wave) (p : Nat → Bool) : (x.heal p).park = x.park := rfl
@[simp] theorem Wave.heal_watches (x : Wave) (p : Nat → Bool) : (x.heal p).watches = x.watches := rfl
@[simp] theorem Wave.heal_lastIssue (x : Wave) (p : Nat → Bool) : (x.heal p).lastIssue = x.lastIssue := rfl
@[simp] theorem Wave.heal_rested (x : Wave) (p : Nat → Bool) : (x.heal p).rested = x.rested := rfl
@[simp] theorem Wave.heal_age (x : Wave) (p : Nat → Bool) : (x.heal p).age = x.age := rfl
@[simp] theorem Wave.heal_eligible (x : Wave) (p : Nat → Bool) : (x.heal p).eligible = x.eligible := rfl
@[simp] theorem Wave.heal_lastPcb (x : Wave) (p : Nat → Bool) : (x.heal p).lastPcb = x.lastPcb := rfl
@[simp] theorem Wave.heal_ended (x : Wave) (p : Nat → Bool) : (x.heal p).ended = x.ended := rfl
@[simp] theorem Wave.heal_skid (x : Wave) (p : Nat → Bool) : (x.heal p).skid = x.skid := rfl
@[simp] theorem Wave.heal_stopped (x : Wave) (p : Nat → Bool) : (x.heal p).stopped = x.stopped := rfl
@[simp] theorem Wave.heal_trap (x : Wave) (p : Nat → Bool) : (x.heal p).trap = x.trap := rfl
@[simp] theorem Wave.heal_spill (x : Wave) (p : Nat → Bool) : (x.heal p).spill = x.spill := rfl
@[simp] theorem Wave.heal_super (x : Wave) (p : Nat → Bool) : (x.heal p).super = x.super := rfl
@[simp] theorem Wave.heal_role (x : Wave) (p : Nat → Bool) : (x.heal p).role = x.role := rfl
@[simp] theorem Wave.heal_array (x : Wave) (p : Nat → Bool) : (x.heal p).array = x.array := rfl
@[simp] theorem Wave.heal_core (x : Wave) (p : Nat → Bool) : (x.heal p).core = x.core := rfl
@[simp] theorem Wave.heal_slot (x : Wave) (p : Nat → Bool) : (x.heal p).slot = x.slot := rfl
@[simp] theorem Wave.heal_index (x : Wave) (p : Nat → Bool) : (x.heal p).index = x.index := rfl
@[simp] theorem Wave.heal_block (x : Wave) (p : Nat → Bool) : (x.heal p).block = x.block := rfl
@[simp] theorem Wave.heal_ctx (x : Wave) (p : Nat → Bool) : (x.heal p).ctx = x.ctx := rfl

/-! ### Waves, paths and blocks after an update -/

@[simp] theorem Wave.heal_pred (x : Wave) (p : Nat → Bool) (n : Nat) : (x.heal p).pred n = x.pred n := rfl

@[simp] theorem Wave.heal_path (x : Wave) (p : Nat → Bool) (q : Bool) : (x.heal p).path q = x.path q := rfl

theorem State.wave_of_kget {s : State} {w : Nat} {x : Wave} (h : kget s.waves w = some x) : s.wave w = x := by
  simp [State.wave, h]

@[simp] theorem State.setWave_waves (s : State) (w : Nat) (x : Wave) : (s.setWave w x).waves = kset s.waves w x := rfl

theorem State.wave_setWave (s : State) (w v : Nat) (x : Wave) :
    (s.setWave w x).wave v = if v = w then x else s.wave v := by
  by_cases h : v = w <;> simp [State.wave, kget_kset, h]

@[simp] theorem State.wave_setWave_same (s : State) (w : Nat) (x : Wave) : (s.setWave w x).wave w = x := by
  simp [State.wave_setWave]

theorem State.kget_setWave (s : State) (w v : Nat) (x : Wave) :
    kget (s.setWave w x).waves v = if v = w then some x else kget s.waves v := by
  simp [kget_kset]

theorem State.kget_modWave (s : State) (w v : Nat) (g : Wave → Wave) :
    kget (s.modWave w g).waves v = if v = w then some (g (s.wave w)) else kget s.waves v := by
  simp [State.modWave, kget_kset]

theorem State.wave_modWave (s : State) (w v : Nat) (g : Wave → Wave) :
    (s.modWave w g).wave v = if v = w then g (s.wave w) else s.wave v := by
  simp [State.modWave, State.wave_setWave]

@[simp] theorem State.wave_modWave_same (s : State) (w : Nat) (g : Wave → Wave) : (s.modWave w g).wave w = g (s.wave w) := by
  simp [State.wave_modWave]

@[simp] theorem State.modBlock_wave (s : State) (b : Nat) (g : Block → Block) (w : Nat) : (s.modBlock b g).wave w = s.wave w := rfl

theorem State.kget_modBlock (s : State) (b c : Nat) (g : Block → Block) :
    kget (s.modBlock b g).blocks c = if c = b then (kget s.blocks b).map g else kget s.blocks c := by
  simp [State.modBlock, kget_kmod]

@[simp] theorem Wave.path_setPath (x : Wave) (q : Bool) (p : Path) : (x.setPath q p).path q = p := by cases q <;> rfl

@[simp] theorem Wave.path_setPath_other (x : Wave) (q : Bool) (p : Path) : (x.setPath q p).path (!q) = x.path (!q) := by
  cases q <;> rfl

@[simp] theorem Wave.path_goto (x : Wave) (q : Bool) (pc : Addr) : (x.goto q pc).path q = { x.path q with pc := pc } := by
  cases q <;> rfl

@[simp] theorem Wave.path_goto_other (x : Wave) (q : Bool) (pc : Addr) : (x.goto q pc).path (!q) = x.path (!q) := by
  cases q <;> rfl

@[simp] theorem Wave.path_holdPath (x : Wave) (q : Bool) (h : Hold) : (x.holdPath q h).path q = { x.path q with hold := h } := by
  cases q <;> rfl

@[simp] theorem Wave.path_holdPath_other (x : Wave) (q : Bool) (h : Hold) : (x.holdPath q h).path (!q) = x.path (!q) := by
  cases q <;> rfl

theorem Wave.pred_setPred (x : Wave) (n m : Nat) (v : BitVec 32) :
    (x.setPred n v).pred m = if n < 7 ∧ m = n then v else x.pred m := by
  unfold Wave.setPred Wave.pred
  by_cases h : 7 ≤ n
  · simp [h, Nat.not_lt.2 h]
  · by_cases h2 : m = n
    · subst h2
      have h7 : m ≠ 7 := by omega
      have h6 : m < 7 := by omega
      simp [h, h7, h6]
    · simp [h, h2, dget_dset_ne]

theorem Wave.ctr_setCtr (x : Wave) (n m : Nat) (c : Ctr) : (x.setCtr n c).ctr m = if m = n then c else x.ctr m := by
  simp [Wave.setCtr, Wave.ctr, dget_dset]

/-- Two waves with the same paths but for what `path` shows are told apart by neither. -/
theorem Wave.path_eq (x y : Wave) (ha : x.pca = y.pca) (hb : x.pcb = y.pcb) (q : Bool) : x.path q = y.path q := by
  cases q <;> simp [Wave.path, ha, hb]

end Sys2Proof.Machine
end

