-- ==== Sys2Proof/Laws/Issue.lean ====
section
/-! SUPPORT. What every issue does and leaves alone. -/
namespace Sys2Proof.Machine
open Sys2Proof

theorem Wave.retire_eq (x : Wave) (n : Nat) : x.retire n = { x with ctrs := (x.retire n).ctrs, late := (x.retire n).late } := by
  unfold Wave.retire; dsimp only; split <;> rfl

theorem Wave.ctr_signal (x : Wave) (g : BitVec 4) (u : Nat) (o : Option Nat) (n : Nat) :
    (x.signal g u o).ctr n = if n = g.toNat ∧ g.toNat < 12 then
      { x.ctr n with toks := (x.ctr n).toks ++ [{ uid := u, done := false, err := 0, info := 0, pts := 0, due := o }] } else x.ctr n := by
  unfold Wave.signal
  by_cases h : g.toNat < 12
  · by_cases h2 : n = g.toNat
    · subst h2; simp [h, Wave.ctr_setCtr]
    · simp [h, h2, Wave.ctr_setCtr]
  · simp [h]

@[simp] theorem Wave.signal_path (x : Wave) (g : BitVec 4) (u : Nat) (o : Option Nat) (q : Bool) : (x.signal g u o).path q = x.path q := by
  cases q <;> simp [Wave.path]

@[simp] theorem Wave.log_path (x : Wave) (u : Nat) (o : Undo) (q : Bool) : (x.log u o).path q = x.path q := by
  cases q <;> simp [Wave.path]

@[simp] theorem Wave.noteLate_path (x : Wave) (a b : Nat) (c : List (BitVec 64)) (d : Nat) (q : Bool) : (x.noteLate a b c d).path q = x.path q := by
  cases q <;> simp [Wave.path]

@[simp] theorem Wave.retire_path (x : Wave) (n : Nat) (q : Bool) : (x.retire n).path q = x.path q := by
  cases q <;> simp [Wave.path]

@[simp] theorem Wave.complete_path (x : Wave) (u e i p : Nat) (q : Bool) : (x.complete u e i p).path q = x.path q := by
  cases q <;> simp [Wave.path]

@[simp] theorem Wave.issueNotes_ctr (x : Wave) (q : Bool) (now age : Nat) (h : Bool) (n : Nat) :
    (x.issueNotes q now age h).ctr n = x.ctr n := by cases q <;> rfl

/-- The wave as an instruction reads it at its issue. -/
theorem State.wave_atIssue (s : State) (w : Nat) (f : Sched) :
    ∃ l, (s.atIssue w f).wave w = { (s.wave w).retire (s.issueTime w f) with late := l } := by
  refine ⟨((s.atIssue w f).wave w).late, ?_⟩
  have h : (s.atIssue w f).wave w = { (s.wave w).retire (s.issueTime w f) with
      late := dropLate (fun e => decide (e.rem = 0))
        (((s.wave w).retire (s.issueTime w f)).late.map fun e => { e with rem := e.rem - f.stall.toNat }) [] } := by
    show (State.setWave _ _ _).wave w = _
    rw [State.wave_setWave_same]
  rw [h]

/-- What every issue leaves alone, before the instruction's own effect. -/
structure Begun (s t : State) (w : Nat) (pcb : Bool) (x : Wave) (f : Sched) (lat : Option Nat) : Prop where
  rest : { t with waves := s.waves, blocks := s.blocks, clk := s.clk, uid := s.uid, free := s.free } = s
  others : ∀ v, v ≠ w → kget t.waves v = kget s.waves v
  blocks : ∀ b, kget t.blocks b = if b = x.block then (kget s.blocks b).map fun b => { b with wdog := 0, bark := false } else kget s.blocks b
  present : kget t.waves w = some (t.wave w)
  clk : t.clk = s.issueTime w f
  uid : t.uid = s.uid + 1
  wave : ∃ l a sk c, t.wave w = { x.setPath pcb { x.path pcb with last := t.clk, since := t.clk } with
    ctrs := c, late := l, issued := x.issued + 1, lastIssue := t.clk, rested := false, age := a, eligible := 0, lastPcb := pcb, skid := sk }
  counted : Counted s t w x f lat

theorem State.beginIssue_rest (s : State) (w : Nat) (pcb : Bool) (f : Sched) (lat : Option Nat) :
    { s.beginIssue w pcb f lat with waves := s.waves, blocks := s.blocks, clk := s.clk, uid := s.uid, free := s.free } = s := by
  unfold State.beginIssue State.setWave State.modBlock State.atIssue State.setWave
  rfl

theorem State.beginIssue_begun {s : State} {w : Nat} {x : Wave} (h : kget s.waves w = some x) (pcb : Bool) (f : Sched)
    (lat : Option Nat) : Begun s (s.beginIssue w pcb f lat) w pcb x f lat := by
  have hx : s.wave w = x := State.wave_of_kget h
  obtain ⟨l, hl⟩ := s.wave_atIssue w f
  rw [hx] at hl
  have hwave : (s.beginIssue w pcb f lat).wave w = (({ x.retire (s.issueTime w f) with late := l } : Wave).issueNotes pcb
      (s.issueTime w f) (if f.yld then (s.atIssue w f).nextAge else x.age) (s.halting x)).signal f.sig s.uid
      (lat.map (s.issueTime w f + ·)) := by
    unfold State.beginIssue
    dsimp only
    rw [hl]
    show ((State.setWave _ _ _).wave w) = _
    rw [State.wave_setWave_same]
    simp only [Wave.retire_age]
    rw [Wave.retire_eq]
    rfl
  have hclk : (s.beginIssue w pcb f lat).clk = s.issueTime w f := rfl
  refine ⟨s.beginIssue_rest w pcb f lat, ?_, ?_, ?_, hclk, rfl, ?_, ?_⟩
  · intro v hv
    show kget (kset (kset s.waves w _) w _) v = _
    rw [kget_kset_ne _ _ hv, kget_kset_ne _ _ hv]
  · intro b
    show kget (kmod s.blocks ((s.atIssue w f).wave w).block _) b = _
    rw [hl, kget_kmod]
    simp only [Wave.retire_block]
    by_cases hb : b = x.block
    · subst hb; rw [if_pos rfl]
    · rw [if_neg hb, if_neg hb]
  · show kget (kset _ _ _) w = some ((State.setWave _ _ _).wave w)
    rw [kget_kset_same, State.wave_setWave_same]
  · refine ⟨l, ((s.beginIssue w pcb f lat).wave w).age, ((s.beginIssue w pcb f lat).wave w).skid,
      ((s.beginIssue w pcb f lat).wave w).ctrs, ?_⟩
    rw [hclk, hwave]
    unfold Wave.issueNotes
    rw [Wave.retire_eq]
    generalize (x.retire _).ctrs = c
    generalize (x.retire _).late = l2
    unfold Wave.signal
    by_cases hs : f.sig.toNat < 12
    · rw [if_pos hs]; cases pcb <;> rfl
    · rw [if_neg hs]; cases pcb <;> rfl
  · constructor
    · intro n hn
      rw [hwave, hclk, Wave.ctr_signal, if_neg (fun h => hn h.1), Wave.issueNotes_ctr]
      rfl
    · intro hs
      rw [hwave, hclk, Wave.ctr_signal, if_pos ⟨rfl, hs⟩, Wave.issueNotes_ctr]
      rfl
end Sys2Proof.Machine
end

