-- ==== Sys2Proof/Laws/Results.lean ====
section
/-! SUPPORT. Results: what writing a register or a queue port changes, and what popping ports changes. -/
namespace Sys2Proof.Machine
open Sys2Proof

/-- What writing results and popping ports may change: registers, the undo log and latencies of one wave, and the
FIFOs of its block. -/
structure Effect (t u : State) (w : Nat) : Prop where
  rest : { u with waves := t.waves, blocks := t.blocks } = t
  others : ∀ v, v ≠ w → kget u.waves v = kget t.waves v
  wave : ∃ v s p lf un la ba, kget u.waves w = some
    { t.wave w with v := v, s := s, p := p, lfsr := lf, undo := un, late := la, bad := ba }
  blocks : ∀ b, ∃ q : Block → Tbl (List (List (BitVec 32))), kget u.blocks b =
    (kget t.blocks b).map fun k => if b = (t.wave w).block then { k with fifos := q k } else k

theorem Effect.wave_eq {t u : State} {w : Nat} (h : Effect t u w) : ∃ un la ba, u.wave w = { t.wave w with
    v := (u.wave w).v, s := (u.wave w).s, p := (u.wave w).p, lfsr := (u.wave w).lfsr, undo := un, late := la, bad := ba } := by
  obtain ⟨v, s, p, lf, un, la, ba, h⟩ := h.wave
  have := State.wave_of_kget h
  exact ⟨un, la, ba, by rw [this]⟩

theorem Effect.refl {t : State} {w : Nat} {x : Wave} (h : kget t.waves w = some x) : Effect t t w := by
  refine ⟨rfl, fun _ _ => rfl, ⟨x.v, x.s, x.p, x.lfsr, x.undo, x.late, x.bad, ?_⟩, fun b => ⟨fun k => k.fifos, ?_⟩⟩
  · rw [State.wave_of_kget h, h]
  · cases kget t.blocks b <;> simp

theorem Effect.block_eq {t u : State} {w : Nat} (h : Effect t u w) : (u.wave w).block = (t.wave w).block := by
  obtain ⟨_, _, _, h⟩ := h.wave_eq
  rw [h]

theorem Effect.trans {t u v : State} {w : Nat} (h : Effect t u w) (g : Effect u v w) : Effect t v w := by
  refine ⟨?_, fun k hk => (g.others k hk).trans (h.others k hk), ?_, ?_⟩
  · rw [← h.rest, ← g.rest]
  · obtain ⟨a, b, c, d, e, k, m, g'⟩ := g.wave
    obtain ⟨_, _, _, h'⟩ := h.wave_eq
    rw [h'] at g'
    exact ⟨a, b, c, d, e, k, m, g'⟩
  · intro b
    obtain ⟨q, hq⟩ := h.blocks b
    obtain ⟨q', hq'⟩ := g.blocks b
    refine ⟨fun k => q' { k with fifos := q k }, ?_⟩
    rw [hq', hq, h.block_eq]
    cases kget t.blocks b with
    | none => rfl
    | some k => by_cases hb : b = (t.wave w).block <;> simp [hb]

/-- A change of a wave's registers and notes alone. -/
theorem Effect.ofWave {t : State} {w : Nat} (g : Wave → Wave)
    (hg : ∀ y, g y = { y with
      v := (g y).v, s := (g y).s, p := (g y).p, lfsr := (g y).lfsr, undo := (g y).undo, late := (g y).late, bad := (g y).bad }) :
    Effect t (t.modWave w g) w := by
  refine ⟨rfl, fun v hv => ?_, ?_, fun b => ⟨fun k => k.fifos, ?_⟩⟩
  · rw [State.kget_modWave, if_neg hv]
  · exact ⟨_, _, _, _, _, _, _, by rw [State.kget_modWave, if_pos rfl]; exact congrArg some (hg (t.wave w))⟩
  · rw [State.modWave_blocks]
    cases kget t.blocks b <;> simp

/-- A change of the FIFOs of the wave's block alone. -/
theorem Effect.ofFifos {t : State} {w : Nat} {y : Wave} (h : kget t.waves w = some y) (q : Block → Tbl (List (List (BitVec 32)))) :
    Effect t (t.modBlock y.block fun b => { b with fifos := q b }) w := by
  refine ⟨rfl, fun _ _ => rfl, ⟨y.v, y.s, y.p, y.lfsr, y.undo, y.late, y.bad, ?_⟩, fun b => ⟨q, ?_⟩⟩
  · rw [State.wave_of_kget h, State.modBlock_waves, h]
  · rw [State.kget_modBlock, State.wave_of_kget h]
    by_cases hb : b = y.block
    · subst hb; simp
    · simp [hb]

theorem putLanes_get (v : Tbl (BitVec 32)) (r : Nat) (act : BitVec 32) (g : Nat → BitVec 32) (k : Nat) :
    dget 0 (putLanes v r act g) k = if k / 32 = r ∧ act.getLsbD (k % 32) = true then g (k % 32) else dget 0 v k := by
  have key : ∀ n, n ≤ 32 → dget 0 ((List.range n).foldl (fun t l => if act.getLsbD l then dset 0 t (32 * r + l) (g l) else t) v) k =
      if k / 32 = r ∧ k % 32 < n ∧ act.getLsbD (k % 32) = true then g (k % 32) else dget 0 v k := by
    intro n
    induction n with
    | zero => simp
    | succ n ih =>
      intro hn
      rw [List.range_succ, List.foldl_append]
      simp only [List.foldl_cons, List.foldl_nil]
      by_cases ha : act.getLsbD n = true
      · rw [if_pos ha, dget_dset]
        by_cases hk : k = 32 * r + n
        · have h1 : k / 32 = r := by omega
          have h2 : k % 32 = n := by omega
          simp [hk.symm, h1, h2, ha]
        · rw [if_neg hk, ih (by omega)]
          have : k / 32 = r → k % 32 ≠ n := by omega
          by_cases h1 : k / 32 = r
          · have h3 := this h1
            have h4 : k % 32 < n + 1 ↔ k % 32 < n := by omega
            simp [h1, h4]
          · simp [h1]
      · rw [if_neg ha, ih (by omega)]
        by_cases h2 : k % 32 = n
        · simp [h2, ha]
        · have h4 : k % 32 < n + 1 ↔ k % 32 < n := by omega
          simp [h4]
  rw [putLanes, key 32 (le_refl _)]
  simp [Nat.mod_lt]

/-! ### Results -/

theorem State.writeU_effect {t : State} {w : Nat} {y : Wave} (h : kget t.waves w = some y) (u lat : Nat) (d : Reg) (val : BitVec 64) :
    Effect t (t.writeU w u lat d val) w := by
  unfold State.writeU
  split
  · exact Effect.ofWave _ fun y => by
      unfold Wave.heal Wave.log Wave.noteLate; split <;> (split <;> rfl)
  · exact Effect.refl h

theorem State.writeU_wave {t : State} {w : Nat} (u lat : Nat) (d : Reg) (val : BitVec 64) :
    WritesS (t.wave w) ((t.writeU w u lat d val).wave w) d val ∧ ((t.writeU w u lat d val).wave w).v = (t.wave w).v ∧
    ((t.writeU w u lat d val).wave w).p = (t.wave w).p ∧ ((t.writeU w u lat d val).wave w).lfsr = (t.wave w).lfsr ∧
    (t.writeU w u lat d val).blocks = t.blocks := by
  unfold State.writeU WritesS
  split
  · next hs =>
    refine ⟨fun n => ?_, ?_, ?_, ?_, ?_⟩
    · rw [State.wave_modWave_same]
      simp only [hs, true_and, Wave.heal_s, dget_dset]
      simp
    all_goals simp
  · next hs => simp [hs]

theorem State.writeP_effect {t : State} {w : Nat} {y : Wave} (h : kget t.waves w = some y) (u lat n : Nat) (val : BitVec 32) :
    Effect t (t.writeP w u lat n val) w := by
  unfold State.writeP
  split
  · exact Effect.refl h
  · exact Effect.ofWave _ fun y => by
      unfold Wave.heal Wave.log Wave.noteLate Wave.setPred; repeat' (first | rfl | split)

theorem State.writeP_wave {t : State} {w : Nat} (u lat n : Nat) (val : BitVec 32) :
    WritesP (t.wave w) ((t.writeP w u lat n val).wave w) n val ∧ ((t.writeP w u lat n val).wave w).v = (t.wave w).v ∧
    ((t.writeP w u lat n val).wave w).s = (t.wave w).s ∧ ((t.writeP w u lat n val).wave w).lfsr = (t.wave w).lfsr ∧
    (t.writeP w u lat n val).blocks = t.blocks := by
  unfold State.writeP WritesP
  split
  · next h => simp [Nat.not_lt.2 h]
  · next h =>
    refine ⟨fun m => ?_, ?_, ?_, ?_, ?_⟩
    · rw [State.wave_modWave_same]
      dsimp only
      rw [Wave.heal_pred, Wave.pred_setPred]
      by_cases hm : n < 7 ∧ m = n
      · rw [if_pos hm, if_pos hm]
      · rw [if_neg hm, if_neg hm]; simp [Wave.pred]
    all_goals simp


/-! ### Queue ports -/

/-- A port's binding is read off the block alone. -/
theorem State.fifoOf_eq (s : State) (x : Wave) (r : Reg) :
    s.fifoOf x r = (kget s.blocks x.block).bind fun b => (kget b.binds (r.toNat - 240)).map fun f => (f, dget [] b.fifos f) := by
  unfold State.fifoOf State.block?
  cases kget s.blocks x.block with
  | none => rfl
  | some b => cases h : kget b.binds (r.toNat - 240) <;> simp [h]

/-- Popping a list of ports one by one. -/
def popList (s : State) (x : Wave) (rs : List Reg) : State :=
  rs.foldl (fun s r =>
    match s.fifoOf x r with
    | some (f, es) => s.modBlock x.block fun b => { b with fifos := dset [] b.fifos f (es.drop 1) }
    | none => s) s

theorem popList_spec (x : Wave) (w : Nat) (rs : List Reg) : ∀ (t : State) (y : Wave), kget t.waves w = some y → y.block = x.block →
    Effect t (popList t x rs) w ∧ (popList t x rs).waves = t.waves ∧
    (kget t.blocks x.block = none → kget (popList t x rs).blocks x.block = none) ∧
    ∀ b, kget t.blocks x.block = some b → ∃ b', kget (popList t x rs).blocks x.block = some b' ∧
      { b' with fifos := b.fifos } = b ∧
      ∀ q, dget [] b'.fifos q = (dget [] b.fifos q).drop (rs.filter fun r => kget b.binds (r.toNat - 240) == some q).length := by
  induction rs with
  | nil => exact fun t y h _ => ⟨Effect.refl h, rfl, id, fun b hb => ⟨b, hb, rfl, by simp⟩⟩
  | cons r rs ih =>
    intro t y h hy
    have step : popList t x (r :: rs) = popList (match t.fifoOf x r with
      | some (f, es) => t.modBlock x.block fun b => { b with fifos := dset [] b.fifos f (es.drop 1) }
      | none => t) x rs := rfl
    rw [step, State.fifoOf_eq]
    cases hb : kget t.blocks x.block with
    | none =>
      obtain ⟨e, ww, n, -⟩ := ih t y h hy
      refine ⟨e, ww, fun _ => n hb, fun b hb' => ?_⟩
      cases hb'
    | some b =>
      simp only [Option.bind_some]
      cases hq : kget b.binds (r.toNat - 240) with
      | none =>
        obtain ⟨e, ww, -, p⟩ := ih t y h hy
        refine ⟨e, ww, fun hn => ?_, fun b' hb' => ?_⟩
        · cases hn
        · cases hb'
          obtain ⟨b', h1, h2, h3⟩ := p b hb
          refine ⟨b', h1, h2, fun q => ?_⟩
          rw [h3, List.filter_cons]
          simp [hq]
      | some f =>
        simp only [Option.map_some]
        obtain ⟨e, ww, -, p⟩ := ih (t.modBlock x.block fun b' => { b' with fifos := dset [] b'.fifos f ((dget [] b.fifos f).drop 1) }) y h hy
        have e0 := Effect.ofFifos (t := t) (w := w) h fun b' => dset [] b'.fifos f ((dget [] b.fifos f).drop 1)
        rw [hy] at e0
        refine ⟨e0.trans e, ww, fun hn => ?_, fun b' hb' => ?_⟩
        · cases hn
        · cases hb'
          obtain ⟨b', h1, h2, h3⟩ := p { b with fifos := dset [] b.fifos f ((dget [] b.fifos f).drop 1) } (by
            rw [State.kget_modBlock]; simp [hb])
          refine ⟨b', h1, ?_, fun q => ?_⟩
          · exact congrArg (fun k => ({ k with fifos := b.fifos } : Block)) h2
          · rw [h3, List.filter_cons]
            simp only [hq]
            by_cases hqf : q = f
            · subst hqf; simp [Nat.add_comm]
            · have : (f == q) = false := by simpa using fun e => hqf e.symm
              simp [dget_dset, hqf, this]

theorem State.popPorts_eq (t : State) (x : Wave) (srcs : List Reg) : t.popPorts x srcs = popList t x (srcs.eraseDups.filter isQ) := rfl

/-- The ports among the sources pop (R21). -/
theorem State.popPorts_spec {t : State} {w : Nat} {y x : Wave} (h : kget t.waves w = some y) (hy : y.block = x.block) (srcs : List Reg) :
    Effect t (t.popPorts x srcs) w ∧ (t.popPorts x srcs).waves = t.waves ∧
    (kget t.blocks x.block = none → kget (t.popPorts x srcs).blocks x.block = none) ∧
    ∀ b, kget t.blocks x.block = some b → ∃ b', kget (t.popPorts x srcs).blocks x.block = some b' ∧
      { b' with fifos := b.fifos } = b ∧ ∀ q, dget [] b'.fifos q = (dget [] b.fifos q).drop (portsOn b q srcs) := by
  have := popList_spec x w (srcs.eraseDups.filter isQ) t y h hy
  rw [← State.popPorts_eq] at this
  refine ⟨this.1, this.2.1, this.2.2.1, fun b hb => ?_⟩
  obtain ⟨b', h1, h2, h3⟩ := this.2.2.2 b hb
  refine ⟨b', h1, h2, fun q => ?_⟩
  rw [h3, portsOn, List.filter_filter]
  congr 3
  funext r
  rw [Bool.and_comm]

/-! ### Per-lane results -/

theorem State.writeL_effect {t : State} {w : Nat} {y : Wave} (h : kget t.waves w = some y) (u lat : Nat) (d : Reg)
    (act : BitVec 32) (g : Nat → BitVec 32) : Effect t (t.writeL w u lat d act g) w := by
  unfold State.writeL
  split
  · exact Effect.ofWave _ fun y => by
      unfold Wave.heal Wave.log Wave.noteLate; split <;> (split <;> rfl)
  · split
    · split
      · rw [State.wave_of_kget h]
        exact Effect.ofFifos h _
      · exact Effect.refl h
    · exact Effect.refl h

theorem State.writeL_wave {t : State} {w : Nat} (u lat : Nat) (d : Reg) (act : BitVec 32) (g : Nat → BitVec 32) :
    WritesV (t.wave w) ((t.writeL w u lat d act g).wave w) d act g ∧ ((t.writeL w u lat d act g).wave w).s = (t.wave w).s ∧
    ((t.writeL w u lat d act g).wave w).p = (t.wave w).p ∧ ((t.writeL w u lat d act g).wave w).lfsr = (t.wave w).lfsr := by
  unfold State.writeL WritesV
  split
  · next hs =>
    refine ⟨fun k => ?_, ?_, ?_, ?_⟩
    · rw [State.wave_modWave_same]
      simp only [hs, true_and, Wave.heal_v]
      have hv := putLanes_get (t.wave w).v d.toNat act g k
      simpa using hv
    all_goals simp
  · next hs =>
    simp only [hs, Bool.false_eq_true, false_and, if_false]
    split
    · split <;> simp
    · simp

/-- A push to a port, seen in its FIFO. -/
theorem State.writeL_blocks {t : State} {w : Nat} (u lat : Nat) (d : Reg) (act : BitVec 32) (g : Nat → BitVec 32) :
    (kget t.blocks (t.wave w).block = none → kget (t.writeL w u lat d act g).blocks (t.wave w).block = none) ∧
    ∀ b, kget t.blocks (t.wave w).block = some b → ∃ b', kget (t.writeL w u lat d act g).blocks (t.wave w).block = some b' ∧
      { b' with fifos := b.fifos } = b ∧ ∀ q, dget [] b'.fifos q = dget [] b.fifos q ++
        (if isQ d = true ∧ kget b.binds (d.toNat - 240) = some q then [laneEntry act g] else []) := by
  have hVQ : isV d = true → isQ d = false := by
    unfold isV isQ; intro h; simp at *; omega
  unfold State.writeL
  split
  · next hv =>
    refine ⟨fun h => by simpa using h, fun b hb => ⟨b, by simpa using hb, rfl, fun q => ?_⟩⟩
    simp [hVQ hv]
  · split
    · next hq =>
      rw [State.fifoOf_eq]
      cases hb : kget t.blocks (t.wave w).block with
      | none => exact ⟨fun _ => by simpa using hb, fun b h => by cases h⟩
      | some b =>
        simp only [Option.bind_some]
        cases hf : kget b.binds (d.toNat - 240) with
        | none =>
          refine ⟨fun h => by simp at h, fun b' hb' => ?_⟩
          cases hb'
          exact ⟨b, by simpa using hb, rfl, fun q => by simp [hf]⟩
        | some f =>
          refine ⟨fun h => by simp at h, fun b' hb' => ?_⟩
          cases hb'
          refine ⟨{ b with fifos := dset [] b.fifos f (dget [] b.fifos f ++ [laneEntry act g]) }, ?_, rfl, fun q => ?_⟩
          · simp only [Option.map_some]
            rw [State.kget_modBlock]
            simp [hb, laneEntry]
          · simp only [hf, hq, true_and, dget_dset]
            by_cases hqf : q = f
            · subst hqf; simp
            · simp [hqf, Ne.symm hqf]
    · next hq =>
      refine ⟨id, fun b hb => ⟨b, hb, rfl, fun q => ?_⟩⟩
      simp [hq]

theorem State.writeL64_effect {t : State} {w : Nat} {y : Wave} (h : kget t.waves w = some y) (u lat : Nat) (d : Reg)
    (act : BitVec 32) (g : Nat → BitVec 64) : Effect t (t.writeL64 w u lat d act g) w := by
  unfold State.writeL64
  split
  · have e1 := State.writeL_effect h u lat d act fun l => (g l).setWidth 32
    obtain ⟨_, _, _, _, _, _, _, h2⟩ := e1.wave
    exact e1.trans (State.writeL_effect h2 u lat (d + 1) act _)
  · exact Effect.refl h

end Sys2Proof.Machine
end

