-- ==== Sys2Proof/Laws/Fixed.lean ====
section
/-! SUPPORT. The shapes of the fixed-latency instructions, each said once. -/
namespace Sys2Proof.Machine
open Sys2Proof

theorem State.wave_congr {s t : State} (h : s.waves = t.waves) (w : Nat) : s.wave w = t.wave w := by
  unfold State.wave; rw [h]

theorem onTurn_eq {s : State} {w : Nat} {pcb : Bool} {x : Wave} (h : Turn s w pcb x) (k : Nat → Bool → Wave → State) :
    onTurn s k = .next (k w pcb x) := by
  simp [onTurn, h.turn, h.wave, h.live]

theorem fixed_eq {s : State} {w : Nat} {pcb : Bool} {x : Wave} (h : Turn s w pcb x) (f : Sched) (lat : Nat)
    (k : Nat → Bool → State → Wave → BitVec 32 → State → State) :
    fixed s f lat k = .next ((if activeAt s w pcb f = 0 then s.beginIssue w pcb f (some lat)
      else k w pcb (s.atIssue w f) ((s.atIssue w f).wave w) (activeAt s w pcb f) (s.beginIssue w pcb f (some lat))).advance w pcb) := by
  rw [fixed, onTurn_eq h]; rfl

/-- The block of the wave read at issue is the wave's. -/
theorem State.atIssue_block {s : State} {w : Nat} {x : Wave} (h : kget s.waves w = some x) (f : Sched) :
    ((s.atIssue w f).wave w).block = x.block := by
  obtain ⟨l, hl⟩ := s.wave_atIssue w f
  rw [hl, State.wave_of_kget h]
  simp

theorem Begun.wave_block {s t : State} {w : Nat} {pcb : Bool} {x : Wave} {f : Sched} {lat : Option Nat}
    (h : Begun s t w pcb x f lat) : (t.wave w).block = x.block := by
  obtain ⟨_, _, _, _, h⟩ := h.wave
  rw [h]; simp

/-- An issue, effects on registers and queues, and the move to the next instruction. -/
theorem issued_advance {s : State} {w : Nat} {pcb : Bool} {x : Wave} {f : Sched} {lat : Option Nat} (hw : kget s.waves w = some x) {u : State}
    (e : Effect (s.beginIssue w pcb f lat) u w) : Issued s (u.advance w pcb) w x f ∧
    Went (u.advance w pcb) w pcb x ((x.path pcb).pc + 12) ∧ ((u.advance w pcb).wave w).pend = x.pend ∧ Counted s (u.advance w pcb) w x f lat := by
  have b := State.beginIssue_begun hw pcb f lat
  generalize s.beginIssue w pcb f lat = t at b e
  obtain ⟨l, a, sk, c, hb⟩ := b.wave
  obtain ⟨un, la, ba, he⟩ := e.wave_eq
  obtain ⟨_, _, _, _, _, _, _, he'⟩ := e.wave
  have hclk : u.clk = t.clk := by rw [← e.rest]
  have huid : u.uid = t.uid := by rw [← e.rest]
  have hadv : (u.advance w pcb).wave w = (u.wave w).goto pcb (((u.wave w).path pcb).pc + 12) := by
    rw [State.advance, State.wave_modWave_same]
  have hpath : (u.wave w).path pcb = { x.path pcb with last := t.clk, since := t.clk } := by
    have : (u.wave w).path pcb = (t.wave w).path pcb := by rw [he]; cases pcb <;> rfl
    rw [this, hb]; cases pcb <;> rfl
  refine ⟨⟨?_, ?_, ?_, ?_, ?_, ?_, ?_, ?_⟩, ⟨?_, ?_, ?_, ?_⟩, ?_, ⟨?_, ?_⟩⟩
  · have h1 := e.rest
    have h2 := b.rest
    rw [← h1] at h2
    exact h2
  · intro k
    show memByte u.mem k = memByte s.mem k
    rw [show u.mem = t.mem by rw [← e.rest], show t.mem = s.mem by rw [← b.rest]]
  · intro v hv
    show kget (kset u.waves w _) v = _
    rw [kget_kset_ne _ _ hv, e.others v hv, b.others v hv]
  · intro k hk
    obtain ⟨q, hq⟩ := e.blocks k
    show kget u.blocks k = _
    rw [hq, b.wave_block, b.blocks, if_neg hk]
    cases kget s.blocks k <;> simp [hk]
  · rw [State.advance, State.kget_modWave, if_pos rfl, State.wave_modWave_same]
  · show u.clk = _
    rw [hclk, b.clk]
  · show u.uid = _
    rw [huid, b.uid]
  · rw [hadv, he, hb]; cases pcb <;> rfl
  · rw [hadv, he, hb]; cases pcb <;> rfl
  · rw [hadv, Wave.path_goto, hpath]
    show _ = ({ x.path pcb with pc := (x.path pcb).pc + 12, last := u.clk, since := u.clk } : Path)
    rw [hclk]
  · rw [hadv, he, hb]; cases pcb <;> rfl
  · rw [hadv, he, hb]; cases pcb <;> rfl
  · rw [hadv, he, hb]; cases pcb <;> rfl
  · intro n hn
    have h1 : ((u.advance w pcb).wave w).ctr n = (t.wave w).ctr n := by rw [hadv, he]; cases pcb <;> rfl
    rw [h1, b.counted.others n hn]
    show _ = (x.retire u.clk).ctr n
    rw [hclk]
  · intro hs
    have h1 : ((u.advance w pcb).wave w).ctr f.sig.toNat = (t.wave w).ctr f.sig.toNat := by rw [hadv, he]; cases pcb <;> rfl
    rw [h1, b.counted.sig hs]
    show _ = ({ (x.retire u.clk).ctr f.sig.toNat with toks := ((x.retire u.clk).ctr f.sig.toNat).toks ++
      [{ uid := s.uid, done := false, err := 0, info := 0, pts := 0, due := lat.map (u.clk + ·) }] } : Ctr)
    rw [hclk]

/-- A fixed-latency instruction: an issue, effects, and the move to the next one. -/
theorem Fixed.of {s : State} {w : Nat} {pcb : Bool} {x : Wave} {f : Sched} {lat : Nat} (hw : kget s.waves w = some x) {u : State}
    (e : Effect (s.beginIssue w pcb f (some lat)) u w) : Fixed s (u.advance w pcb) w pcb x f lat := by
  obtain ⟨h1, h2, h3, h4⟩ := issued_advance hw e
  exact ⟨h1, h2, h3, h4⟩

/-- The registers that an issue leaves to the instruction's effect. -/
theorem Begun.regs {s t : State} {w : Nat} {pcb : Bool} {x : Wave} {f : Sched} {lat : Option Nat} (h : Begun s t w pcb x f lat) :
    (t.wave w).s = x.s ∧ (t.wave w).v = x.v ∧ (t.wave w).p = x.p ∧ (t.wave w).lfsr = x.lfsr := by
  obtain ⟨_, _, _, _, h⟩ := h.wave
  rw [h]; cases pcb <;> exact ⟨rfl, rfl, rfl, rfl⟩

theorem State.advance_regs (u : State) (w : Nat) (pcb : Bool) : ((u.advance w pcb).wave w).s = (u.wave w).s ∧
    ((u.advance w pcb).wave w).v = (u.wave w).v ∧ ((u.advance w pcb).wave w).p = (u.wave w).p ∧
    ((u.advance w pcb).wave w).lfsr = (u.wave w).lfsr := by
  rw [State.advance, State.wave_modWave_same]
  cases pcb <;> exact ⟨rfl, rfl, rfl, rfl⟩

/-- The queues after an issue that pops `srcs`, and then at most pushes. -/
theorem Queues.of {s t u : State} {w : Nat} {pcb : Bool} {x : Wave} {f : Sched} {lat : Option Nat} (b : Begun s t w pcb x f lat)
    {srcs : List Reg} {d : Option Reg} {entry : List (BitVec 32)}
    (h0 : kget t.blocks x.block = none → kget u.blocks x.block = none)
    (h1 : ∀ k, kget t.blocks x.block = some k → ∃ k', kget u.blocks x.block = some k' ∧ { k' with fifos := k.fifos } = k ∧
      ∀ q, dget [] k'.fifos q = (dget [] k.fifos q).drop (portsOn k q srcs) ++
        (match d with
          | some r => if isQ r = true ∧ kget k.binds (r.toNat - 240) = some q then [entry] else []
          | none => [])) : Queues s (u.advance w pcb) x srcs d entry := by
  have hb := b.blocks x.block
  rw [if_pos rfl] at hb
  constructor
  · intro h
    exact h0 (by rw [hb, h]; rfl)
  · intro k hk
    obtain ⟨k', h2, h3, h4⟩ := h1 { k with wdog := 0, bark := false } (by rw [hb, hk]; rfl)
    exact ⟨k', h2, h3, h4⟩

theorem fixed_off {s : State} {w : Nat} {pcb : Bool} {x : Wave} (h : Turn s w pcb x) {f : Sched} {lat : Nat}
    (k : Nat → Bool → State → Wave → BitVec 32 → State → State) (ha : activeAt s w pcb f = 0) :
    ∃ t, fixed s f lat k = .next t ∧ Fixed s t w pcb x f lat ∧ NoResult s t w x := by
  have b := State.beginIssue_begun h.wave pcb f (some lat)
  refine ⟨_, by rw [fixed_eq h, if_pos ha], Fixed.of h.wave (Effect.refl b.present), ?_⟩
  obtain ⟨r1, r2, r3, r4⟩ := State.advance_regs (s.beginIssue w pcb f (some lat)) w pcb
  obtain ⟨q1, q2, q3, q4⟩ := b.regs
  refine ⟨r1.trans q1, r2.trans q2, r3.trans q3, r4.trans q4, Queues.of b id fun k hk => ⟨k, hk, rfl, fun q => ?_⟩⟩
  simp [portsOn]

theorem fixedU_spec {s : State} {w : Nat} {pcb : Bool} {x : Wave} (h : Turn s w pcb x) {f : Sched} {lat : Nat} (d : Reg)
    (val : State → Wave → BitVec 32 → BitVec 64) (ha : activeAt s w pcb f ≠ 0) :
    ∃ t, fixedU s f lat d val = .next t ∧ Fixed s t w pcb x f lat ∧
      ResultU s t w x d (val (s.atIssue w f) ((s.atIssue w f).wave w) (activeAt s w pcb f)) [] := by
  have b := State.beginIssue_begun h.wave pcb f (some lat)
  refine ⟨_, by rw [fixedU, fixed_eq h, if_neg ha], Fixed.of h.wave (State.writeU_effect b.present _ _ _ _), ?_⟩
  generalize val _ _ _ = v
  obtain ⟨e1, e2, e3, e4, e5⟩ := State.writeU_wave (t := s.beginIssue w pcb f (some lat)) (w := w) s.uid lat d v
  obtain ⟨r1, r2, r3, r4⟩ := State.advance_regs ((s.beginIssue w pcb f (some lat)).writeU w s.uid lat d v) w pcb
  obtain ⟨q1, q2, q3, q4⟩ := b.regs
  refine ⟨fun n => ?_, r2.trans (e2.trans q2), r3.trans (e3.trans q3), r4.trans (e4.trans q4),
    Queues.of b (by rw [e5]; exact id) fun k hk => ⟨k, by rw [e5]; exact hk, rfl, fun q => by simp [portsOn]⟩⟩
  rw [r1, e1 n, q1]

theorem fixedP_spec {s : State} {w : Nat} {pcb : Bool} {x : Wave} (h : Turn s w pcb x) {f : Sched} {lat : Nat} (d : Reg) (all : Bool)
    (srcs : List Reg) (val : State → Wave → BitVec 32 → BitVec 32) (ha : activeAt s w pcb f ≠ 0) :
    ∃ t, fixedP s f lat d all srcs val = .next t ∧ Fixed s t w pcb x f lat ∧
      ResultP s t w x d.toNat (if all then val (s.atIssue w f) ((s.atIssue w f).wave w) (activeAt s w pcb f)
        else putBits (x.pred d.toNat) (activeAt s w pcb f) (val (s.atIssue w f) ((s.atIssue w f).wave w) (activeAt s w pcb f))) srcs := by
  have b := State.beginIssue_begun h.wave pcb f (some lat)
  have hp : ((s.atIssue w f).wave w).pred d.toNat = x.pred d.toNat := by
    obtain ⟨l, hl⟩ := s.wave_atIssue w f
    rw [hl, State.wave_of_kget h.wave]; simp [Wave.pred]
  obtain ⟨pe, pw, p0, p1⟩ := State.popPorts_spec (x := (s.atIssue w f).wave w) b.present
    (b.wave_block.trans (State.atIssue_block h.wave f).symm) srcs
  obtain ⟨_, _, _, _, _, _, _, pk⟩ := pe.wave
  refine ⟨_, by rw [fixedP, fixed_eq h, if_neg ha], Fixed.of h.wave (pe.trans (State.writeP_effect pk _ _ _ _)), ?_⟩
  rw [hp]
  generalize (if all = true then _ else _) = v
  have hpw : ((s.beginIssue w pcb f (some lat)).popPorts ((s.atIssue w f).wave w) srcs).wave w = (s.beginIssue w pcb f (some lat)).wave w := by
    exact State.wave_congr pw w
  rw [State.atIssue_block h.wave] at p0 p1
  generalize (s.beginIssue w pcb f (some lat)).popPorts ((s.atIssue w f).wave w) srcs = t at *
  obtain ⟨e1, e2, e3, e4, e5⟩ := State.writeP_wave (t := t) (w := w) s.uid lat d.toNat v
  obtain ⟨r1, r2, r3, r4⟩ := State.advance_regs (t.writeP w s.uid lat d.toNat v) w pcb
  obtain ⟨q1, q2, q3, q4⟩ := b.regs
  rw [hpw] at e1 e2 e3 e4
  refine ⟨fun n => ?_, r1.trans (e3.trans q1), r2.trans (e2.trans q2), r4.trans (e4.trans q4),
    Queues.of b (by rw [e5]; exact p0) fun k hk => ?_⟩
  · have : ((t.writeP w s.uid lat d.toNat v).advance w pcb |>.wave w).pred n = ((t.writeP w s.uid lat d.toNat v).wave w).pred n := by
      simp only [Wave.pred, r3]
    rw [this, e1 n]
    simp only [Wave.pred, q3]
  · obtain ⟨k', h2, h3, h4⟩ := p1 k hk
    exact ⟨k', by rw [e5]; exact h2, h3, fun q => by simp [h4 q]⟩

theorem fixedL_spec {s : State} {w : Nat} {pcb : Bool} {x : Wave} (h : Turn s w pcb x) {f : Sched} {lat : Nat} {ty : BitVec 2}
    (hty : vectorW ty = 32) (d : Reg) (srcs : List Reg) (val : State → Wave → Nat → Nat) (ha : activeAt s w pcb f ≠ 0) :
    ∃ t, fixedL s f lat ty d srcs val = .next t ∧ Fixed s t w pcb x f lat ∧
      ResultL s t w x d (activeAt s w pcb f) (fun l => BitVec.ofNat 32 (val (s.atIssue w f) ((s.atIssue w f).wave w) l)) srcs := by
  have b := State.beginIssue_begun h.wave pcb f (some lat)
  obtain ⟨pe, pw, p0, p1⟩ := State.popPorts_spec (x := (s.atIssue w f).wave w) b.present
    (b.wave_block.trans (State.atIssue_block h.wave f).symm) srcs
  obtain ⟨_, _, _, _, _, _, _, pk⟩ := pe.wave
  refine ⟨_, by rw [fixedL, fixed_eq h, if_neg ha], ?_⟩
  simp only [State.writeT, if_pos hty]
  refine ⟨Fixed.of h.wave (pe.trans (State.writeL_effect pk _ _ _ _ _)), ?_⟩
  generalize (fun l => BitVec.ofNat 32 (val (s.atIssue w f) ((s.atIssue w f).wave w) l)) = g
  generalize activeAt s w pcb f = act
  have hpw : ((s.beginIssue w pcb f (some lat)).popPorts ((s.atIssue w f).wave w) srcs).wave w = (s.beginIssue w pcb f (some lat)).wave w := by
    exact State.wave_congr pw w
  rw [State.atIssue_block h.wave] at p0 p1
  generalize (s.beginIssue w pcb f (some lat)).popPorts ((s.atIssue w f).wave w) srcs = t at *
  obtain ⟨e1, e2, e3, e4⟩ := State.writeL_wave (t := t) (w := w) s.uid lat d act g
  obtain ⟨e5, e6⟩ := State.writeL_blocks (t := t) (w := w) s.uid lat d act g
  obtain ⟨r1, r2, r3, r4⟩ := State.advance_regs (t.writeL w s.uid lat d act g) w pcb
  obtain ⟨q1, q2, q3, q4⟩ := b.regs
  rw [hpw] at e1 e2 e3 e4 e5 e6
  rw [b.wave_block] at e5 e6
  refine ⟨fun n => ?_, r1.trans (e2.trans q1), r3.trans (e3.trans q3), r4.trans (e4.trans q4),
    Queues.of b (fun hn => e5 (p0 hn)) fun k hk => ?_⟩
  · rw [r2, e1 n, q2]
  · obtain ⟨k', h2, h3, h4⟩ := p1 k hk
    obtain ⟨k'', h5, h6, h7⟩ := e6 k' h2
    have hbinds : k'.binds = k.binds := by have := congrArg Block.binds h3; exact this
    refine ⟨k'', h5, ?_, fun q => ?_⟩
    · exact (congrArg (fun j => ({ j with fifos := k.fifos } : Block)) h6).trans h3
    · rw [h7 q, h4 q, hbinds]

theorem State.writeL64_blocks {t : State} {w : Nat} (u lat : Nat) (d : Reg) (act : BitVec 32) (g : Nat → BitVec 64) :
    (t.writeL64 w u lat d act g).blocks = t.blocks := by
  unfold State.writeL64
  split
  · next h =>
    have hs : isQ (d + 1) = false := by
      unfold isV isQ at *; simp [BitVec.toNat_add] at *; omega
    have e (r : Reg) (hr : isQ r = false) (s : State) (k : Nat → BitVec 32) : (s.writeL w u lat r act k).blocks = s.blocks := by
      unfold State.writeL
      split
      · rfl
      · rw [hr]; rfl
    have hd : isQ d = false := by unfold isV isQ at *; simp at *; omega
    rw [e _ hs, e _ hd]
  · rfl

theorem State.writeL64_wave {t : State} {w : Nat} (u lat : Nat) (d : Reg) (act : BitVec 32) (g : Nat → BitVec 64) :
    WritesV64 (t.wave w) ((t.writeL64 w u lat d act g).wave w) d act g ∧ ((t.writeL64 w u lat d act g).wave w).s = (t.wave w).s ∧
    ((t.writeL64 w u lat d act g).wave w).p = (t.wave w).p ∧ ((t.writeL64 w u lat d act g).wave w).lfsr = (t.wave w).lfsr := by
  unfold State.writeL64
  split
  · next h =>
    obtain ⟨a1, a2, a3, a4⟩ := State.writeL_wave (t := t) (w := w) u lat d act fun l => (g l).setWidth 32
    obtain ⟨b1, b2, b3, b4⟩ := State.writeL_wave (t := t.writeL w u lat d act fun l => (g l).setWidth 32) (w := w) u lat (d + 1) act
      fun l => ((g l) >>> 32).setWidth 32
    refine ⟨fun k => ?_, b2.trans a2, b3.trans a3, b4.trans a4⟩
    rw [b1 k, a1 k]
    have hne : (d + 1).toNat ≠ d.toNat := by
      unfold isV at h; simp [BitVec.toNat_add] at *; omega
    by_cases h1 : k / 32 = d.toNat
    · simp only [h, h1, Ne.symm hne, true_and, false_and, and_false, if_false]
    · simp only [h, h1, true_and, false_and, if_false]
  · next h => simp [WritesV64, h]

theorem fixedL64_spec {s : State} {w : Nat} {pcb : Bool} {x : Wave} (h : Turn s w pcb x) {f : Sched} {lat : Nat} {ty : BitVec 2}
    (hty : vectorW ty ≠ 32) (d : Reg) (srcs : List Reg) (val : State → Wave → Nat → Nat) (ha : activeAt s w pcb f ≠ 0) :
    ∃ t, fixedL s f lat ty d srcs val = .next t ∧ Fixed s t w pcb x f lat ∧
      ResultL64 s t w x d (activeAt s w pcb f) (fun l => BitVec.ofNat 64 (val (s.atIssue w f) ((s.atIssue w f).wave w) l)) srcs := by
  have b := State.beginIssue_begun h.wave pcb f (some lat)
  obtain ⟨pe, pw, p0, p1⟩ := State.popPorts_spec (x := (s.atIssue w f).wave w) b.present
    (b.wave_block.trans (State.atIssue_block h.wave f).symm) srcs
  obtain ⟨_, _, _, _, _, _, _, pk⟩ := pe.wave
  refine ⟨_, by rw [fixedL, fixed_eq h, if_neg ha], ?_⟩
  simp only [State.writeT, if_neg hty]
  refine ⟨Fixed.of h.wave (pe.trans (State.writeL64_effect pk _ _ _ _ _)), ?_⟩
  generalize (fun l => BitVec.ofNat 64 (val (s.atIssue w f) ((s.atIssue w f).wave w) l)) = g
  generalize activeAt s w pcb f = act
  have hpw : ((s.beginIssue w pcb f (some lat)).popPorts ((s.atIssue w f).wave w) srcs).wave w = (s.beginIssue w pcb f (some lat)).wave w := by
    exact State.wave_congr pw w
  rw [State.atIssue_block h.wave] at p0 p1
  generalize (s.beginIssue w pcb f (some lat)).popPorts ((s.atIssue w f).wave w) srcs = t at *
  obtain ⟨e1, e2, e3, e4⟩ := State.writeL64_wave (t := t) (w := w) s.uid lat d act g
  obtain ⟨r1, r2, r3, r4⟩ := State.advance_regs (t.writeL64 w s.uid lat d act g) w pcb
  obtain ⟨q1, q2, q3, q4⟩ := b.regs
  rw [hpw] at e1 e2 e3 e4
  refine ⟨fun n => ?_, r1.trans (e2.trans q1), r3.trans (e3.trans q3), r4.trans (e4.trans q4),
    Queues.of b (by rw [State.writeL64_blocks]; exact p0) fun k hk => ?_⟩
  · rw [r2, e1 n, q2]
  · obtain ⟨k', h2, h3, h4⟩ := p1 k hk
    exact ⟨k', by rw [State.writeL64_blocks]; exact h2, h3, fun q => by simp [h4 q]⟩

/-- A uniform result of an instruction whose sources may be ports. -/
theorem fixedPopU_spec {s : State} {w : Nat} {pcb : Bool} {x : Wave} (h : Turn s w pcb x) {f : Sched} {lat : Nat} (d : Reg)
    (srcs : List Reg) (val : State → Wave → BitVec 32 → BitVec 64) (ha : activeAt s w pcb f ≠ 0) :
    ∃ t, (fixed s f lat fun w _ r y act u => (u.popPorts y srcs).writeU w s.uid lat d (val r y act)) = .next t ∧
      Fixed s t w pcb x f lat ∧
      ResultU s t w x d (val (s.atIssue w f) ((s.atIssue w f).wave w) (activeAt s w pcb f)) srcs := by
  have b := State.beginIssue_begun h.wave pcb f (some lat)
  obtain ⟨pe, pw, p0, p1⟩ := State.popPorts_spec (x := (s.atIssue w f).wave w) b.present
    (b.wave_block.trans (State.atIssue_block h.wave f).symm) srcs
  obtain ⟨_, _, _, _, _, _, _, pk⟩ := pe.wave
  refine ⟨_, by rw [fixed_eq h, if_neg ha], Fixed.of h.wave (pe.trans (State.writeU_effect pk _ _ _ _)), ?_⟩
  generalize val _ _ _ = v
  have hpw : ((s.beginIssue w pcb f (some lat)).popPorts ((s.atIssue w f).wave w) srcs).wave w = (s.beginIssue w pcb f (some lat)).wave w :=
    State.wave_congr pw w
  rw [State.atIssue_block h.wave] at p0 p1
  generalize (s.beginIssue w pcb f (some lat)).popPorts ((s.atIssue w f).wave w) srcs = t at *
  obtain ⟨e1, e2, e3, e4, e5⟩ := State.writeU_wave (t := t) (w := w) s.uid lat d v
  obtain ⟨r1, r2, r3, r4⟩ := State.advance_regs (t.writeU w s.uid lat d v) w pcb
  obtain ⟨q1, q2, q3, q4⟩ := b.regs
  rw [hpw] at e1 e2 e3 e4
  refine ⟨fun n => ?_, r2.trans (e2.trans q2), r3.trans (e3.trans q3), r4.trans (e4.trans q4),
    Queues.of b (by rw [e5]; exact p0) fun k hk => ?_⟩
  · rw [r1, e1 n, q1]
  · obtain ⟨k', h2, h3, h4⟩ := p1 k hk
    exact ⟨k', by rw [e5]; exact h2, h3, fun q => by simp [h4 q]⟩

end Sys2Proof.Machine
end

