-- ==== Sys2Proof/Laws/Flags.lean ====
section
/-! SUPPORT. The exact integer operations, narrowed, are the operations on bit strings. -/
namespace Sys2Proof.Machine

theorem intOf_signed {n : Nat} (hn : 0 < n) (x : BitVec n) : intOf n true x.toNat = x.toInt := by
  have h2 : 2 ^ n = 2 * 2 ^ (n - 1) := by
    obtain ⟨m, rfl⟩ : ∃ m, n = m + 1 := ⟨n - 1, by omega⟩
    simp [pow_succ, mul_comm]
  have hx := x.isLt
  simp only [intOf, Bool.true_and, decide_eq_true_eq, BitVec.toInt_eq_toNat_cond, Nat.mod_eq_of_lt hx]
  by_cases h : 2 ^ (n - 1) ≤ x.toNat
  · rw [if_pos h, if_neg (by omega)]
  · rw [if_neg h, if_pos (by omega)]

theorem intOf_unsigned {n : Nat} (x : BitVec n) : intOf n false x.toNat = x.toNat := by
  simp [intOf, Nat.mod_eq_of_lt x.isLt]

theorem ofNat_truncTo (n : Nat) (r : Int) : BitVec.ofNat n (truncTo n r) = BitVec.ofInt n r := by
  apply BitVec.eq_of_toNat_eq
  simp only [truncTo, BitVec.toNat_ofNat, BitVec.toNat_ofInt]
  have h0 : (0 : Int) < ((2 ^ n : Nat) : Int) := by positivity
  have h1 := Int.emod_nonneg r (ne_of_gt h0)
  have h2 := Int.emod_lt_of_pos r h0
  have : (r % ((2 ^ n : Nat) : Int)).toNat < 2 ^ n := by omega
  exact Nat.mod_eq_of_lt this

theorem opAdd_bv {n : Nat} (hn : 0 < n) (g : Bool) (x y : BitVec n) :
    BitVec.ofNat n (truncTo n (opAdd n g x.toNat y.toNat)) = x + y := by
  rw [ofNat_truncTo]
  cases g
  · simp only [opAdd, intOf_unsigned]; apply BitVec.eq_of_toNat_eq; simp [BitVec.toNat_ofInt]; norm_cast
  · simp only [opAdd, intOf_signed hn, BitVec.ofInt_add, BitVec.ofInt_toInt]

theorem opSub_bv {n : Nat} (hn : 0 < n) (g : Bool) (x y : BitVec n) :
    BitVec.ofNat n (truncTo n (opSub n g x.toNat y.toNat)) = x - y := by
  rw [ofNat_truncTo]
  have key : BitVec.ofInt n (x.toInt - y.toInt) = x - y := by
    apply BitVec.eq_of_toInt_eq
    rw [BitVec.toInt_ofInt, BitVec.toInt_sub]
  cases g
  · simp only [opSub, intOf_unsigned]
    rw [← key]
    apply BitVec.eq_of_toInt_eq
    rw [BitVec.toInt_ofInt, BitVec.toInt_ofInt, BitVec.toInt_eq_toNat_bmod x, BitVec.toInt_eq_toNat_bmod y]
    simp [Int.sub_bmod_bmod, Int.bmod_sub_bmod]
  · simp only [opSub, intOf_signed hn, key]

theorem opMul_bv {n : Nat} (hn : 0 < n) (g : Bool) (x y : BitVec n) :
    BitVec.ofNat n (truncTo n (opMul n g x.toNat y.toNat)) = x * y := by
  rw [ofNat_truncTo]
  cases g
  · simp only [opMul, intOf_unsigned]; apply BitVec.eq_of_toNat_eq; simp [BitVec.toNat_ofInt]; norm_cast
  · simp only [opMul, intOf_signed hn, BitVec.ofInt_mul, BitVec.ofInt_toInt]

theorem opAnd_bv {n : Nat} (g : Bool) (x y : BitVec n) :
    BitVec.ofNat n (truncTo n (opAnd n g x.toNat y.toNat)) = x &&& y := by
  rw [ofNat_truncTo]
  simp only [opAnd, Nat.mod_eq_of_lt x.isLt, Nat.mod_eq_of_lt y.isLt]
  rw [← BitVec.toNat_and]; simp

theorem opOr_bv {n : Nat} (g : Bool) (x y : BitVec n) :
    BitVec.ofNat n (truncTo n (opOr n g x.toNat y.toNat)) = x ||| y := by
  rw [ofNat_truncTo]
  simp only [opOr, Nat.mod_eq_of_lt x.isLt, Nat.mod_eq_of_lt y.isLt]
  rw [← BitVec.toNat_or]; simp

theorem opXor_bv {n : Nat} (g : Bool) (x y : BitVec n) :
    BitVec.ofNat n (truncTo n (opXor n g x.toNat y.toNat)) = x ^^^ y := by
  rw [ofNat_truncTo]
  simp only [opXor, Nat.mod_eq_of_lt x.isLt, Nat.mod_eq_of_lt y.isLt]
  rw [← BitVec.toNat_xor]; simp

theorem opShl_bv {n : Nat} (g : Bool) (x : BitVec n) (k : Nat) :
    BitVec.ofNat n (truncTo n (opShl n g x.toNat k)) = x <<< k := by
  rw [ofNat_truncTo]
  simp only [opShl, Nat.mod_eq_of_lt x.isLt]
  split
  · next h => simp [BitVec.shiftLeft_eq_zero h]
  · apply BitVec.eq_of_toNat_eq; simp [Nat.shiftLeft_eq]; norm_cast

theorem opShr_bv {n : Nat} (g : Bool) (x : BitVec n) (k : Nat) :
    BitVec.ofNat n (truncTo n (opShr n g x.toNat k)) = x >>> k := by
  rw [ofNat_truncTo]
  simp only [opShr, Nat.mod_eq_of_lt x.isLt]
  split
  · next h => simp [BitVec.ushiftRight_eq_zero h]
  · apply BitVec.eq_of_toNat_eq
    have := Nat.lt_of_le_of_lt (Nat.div_le_self x.toNat (2^k)) x.isLt
    rw [BitVec.toNat_ofInt, BitVec.toNat_ushiftRight, Nat.shiftRight_eq_div_pow]
    norm_cast
    exact Nat.mod_eq_of_lt this

theorem opSar_bv {n : Nat} (hn : 0 < n) (g : Bool) (x : BitVec n) (k : Nat) :
    BitVec.ofNat n (truncTo n (opSar n g x.toNat k)) = x.sshiftRight k := by
  rw [ofNat_truncTo]
  simp only [opSar, intOf_signed hn]
  have key : x.toInt.fdiv ((2 ^ min k (n - 1) : Nat) : Int) = (x.sshiftRight k).toInt := by
    rw [BitVec.toInt_sshiftRight, Int.shiftRight_eq_div_pow, Int.fdiv_eq_ediv_of_nonneg _ (by positivity)]
    rcases Nat.le_total k (n - 1) with h | h
    · rw [Nat.min_eq_left h]
    · rw [Nat.min_eq_right h]
      have lo := BitVec.le_toInt x
      have hi := BitVec.toInt_lt (x := x)
      have hp : ((2 ^ (n - 1) : Nat) : Int) ≤ ((2 ^ k : Nat) : Int) := by
        exact_mod_cast Nat.pow_le_pow_right (by norm_num) h
      have q : (2 : Int) ^ (n - 1) = ((2 ^ (n - 1) : Nat) : Int) := by norm_cast
      rw [q] at lo hi
      rcases Int.lt_or_le x.toInt 0 with hx | hx
      · have e (m : Int) (hm : 0 < m) (hl : -m ≤ x.toInt) : x.toInt / m = -1 := by
          rw [Int.ediv_eq_iff_of_pos hm]; constructor <;> nlinarith
        rw [e _ (by positivity) lo, e _ (by positivity) (by omega)]
      · rw [Int.ediv_eq_zero_of_lt hx hi, Int.ediv_eq_zero_of_lt hx (by omega)]
  rw [key, BitVec.ofInt_toInt]

theorem opMin_bv {n : Nat} (hn : 0 < n) (g : Bool) (x y : BitVec n) :
    BitVec.ofNat n (truncTo n (opMin n g x.toNat y.toNat)) = bvMin n g x y := by
  rw [ofNat_truncTo]
  cases g
  · simp only [opMin, intOf_unsigned, bvMin, BitVec.ule_eq_decide]
    by_cases h : x.toNat ≤ y.toNat
    · simp [h]
    · simp [h, min_eq_right (by omega : (y.toNat : Int) ≤ x.toNat)]
  · simp only [opMin, intOf_signed hn, bvMin, BitVec.sle_eq_decide]
    by_cases h : x.toInt ≤ y.toInt
    · simp [h]
    · simp [h, min_eq_right (by omega : y.toInt ≤ x.toInt)]

theorem opMax_bv {n : Nat} (hn : 0 < n) (g : Bool) (x y : BitVec n) :
    BitVec.ofNat n (truncTo n (opMax n g x.toNat y.toNat)) = bvMax n g x y := by
  rw [ofNat_truncTo]
  cases g
  · simp only [opMax, intOf_unsigned, bvMax, BitVec.ule_eq_decide]
    by_cases h : x.toNat ≤ y.toNat
    · simp [h]
    · simp [h, max_eq_left (by omega : (y.toNat : Int) ≤ x.toNat)]
  · simp only [opMax, intOf_signed hn, bvMax, BitVec.sle_eq_decide]
    by_cases h : x.toInt ≤ y.toInt
    · simp [h]
    · simp [h, max_eq_left (by omega : y.toInt ≤ x.toInt)]

theorem opDiv_bv {n : Nat} (hn : 0 < n) (g : Bool) (x y : BitVec n) :
    BitVec.ofNat n (truncTo n (opDiv n g x.toNat y.toNat)) = bvDiv n g x y := by
  rw [ofNat_truncTo]
  have ones : BitVec.ofInt n (((2 ^ n : Nat) : Int) - 1) = BitVec.allOnes n := by
    apply BitVec.eq_of_toNat_eq
    have h1 : 1 ≤ 2 ^ n := Nat.one_le_two_pow
    rw [BitVec.toNat_ofInt, BitVec.toNat_allOnes]
    generalize 2 ^ n = m at *
    rw [Int.emod_eq_of_lt (by omega) (by omega)]
    omega
  cases g
  · simp only [opDiv, intOf_unsigned, bvDiv]
    by_cases h : y = 0
    · rw [if_pos h, if_pos (by simp [h]), ones]
    · have h' : y.toNat ≠ 0 := fun e => h (BitVec.eq_of_toNat_eq (by simpa using e))
      simp only [Nat.cast_eq_zero, h', if_false, h, Bool.false_eq_true]
      apply BitVec.eq_of_toNat_eq
      have := Nat.lt_of_le_of_lt (Nat.div_le_self x.toNat y.toNat) x.isLt
      rw [BitVec.toNat_ofInt, ← Int.ofNat_tdiv]
      simp only [BitVec.udiv_eq, BitVec.toNat_udiv]
      norm_cast
      exact Nat.mod_eq_of_lt this
  · simp only [opDiv, intOf_signed hn, bvDiv]
    by_cases h : y = 0
    · rw [if_pos h, if_pos (by simp [h]), ones]
    · have h' : y.toInt ≠ 0 := fun e => h (BitVec.eq_of_toInt_eq (by simpa using e))
      simp only [h', if_false, h, if_true]
      apply BitVec.eq_of_toInt_eq
      rw [BitVec.toInt_ofInt, BitVec.toInt_sdiv]

theorem opMulh_bv {n : Nat} (hn : 0 < n) (g : Bool) (x y : BitVec n) :
    BitVec.ofNat n (truncTo n (opMulh n g x.toNat y.toNat)) = bvMulh n g x y := by
  rw [ofNat_truncTo]
  have key (p : Int) (P : BitVec (2 * n)) (h : P = BitVec.ofInt (2 * n) p) :
      BitVec.ofInt n (p.fdiv ((2 ^ n : Nat) : Int)) = (P >>> n).setWidth n := by
    subst h
    apply BitVec.eq_of_toNat_eq
    rw [BitVec.toNat_ofInt, BitVec.toNat_setWidth, BitVec.toNat_ushiftRight, Nat.shiftRight_eq_div_pow, BitVec.toNat_ofInt,
      Int.fdiv_eq_ediv_of_nonneg _ (by positivity)]
    have hp : (0 : Int) < ((2 ^ n : Nat) : Int) := by positivity
    have e2 : ((2 ^ (2 * n) : Nat) : Int) = ((2 ^ n : Nat) : Int) * ((2 ^ n : Nat) : Int) := by
      push_cast; rw [← pow_add]; congr 1; omega
    have nn : 0 ≤ p % ((2 ^ (2 * n) : Nat) : Int) := Int.emod_nonneg _ (by positivity)
    apply Int.ofNat.inj
    show (((p / ((2 ^ n : Nat) : Int) % ((2 ^ n : Nat) : Int)).toNat : Nat) : Int) = (((p % ((2 ^ (2 * n) : Nat) : Int)).toNat / 2 ^ n % 2 ^ n : Nat) : Int)
    rw [Int.toNat_of_nonneg (Int.emod_nonneg _ (ne_of_gt hp)), Int.natCast_mod, Int.natCast_div, Int.toNat_of_nonneg nn, e2]
    generalize ((2 ^ n : Nat) : Int) = m at *
    have hm : m ≠ 0 := ne_of_gt hp
    have e : p = p % (m * m) + m * (m * (p / (m * m))) := by
      have := Int.emod_add_mul_ediv p (m * m); rw [mul_assoc] at this; exact this.symm
    conv_lhs => rw [e, Int.add_mul_ediv_left _ _ hm, Int.add_mul_emod_self_left]
  cases g
  · simp only [opMulh, intOf_unsigned, bvMulh, Bool.false_eq_true, if_false]
    apply key
    apply BitVec.eq_of_toNat_eq
    simp [BitVec.toNat_ofInt]; norm_cast
  · simp only [opMulh, intOf_signed hn, bvMulh, if_true]
    apply key
    rw [BitVec.ofInt_mul]
    congr 1

end Sys2Proof.Machine
end

