-- ==== Sys2Proof/Laws/Memory.lean ====
section
/-! SUPPORT. Byte memory: the canonical form that every operation keeps, what a byte and a word read after a write, and that
writing changes nothing else of the state. -/
namespace Sys2Proof.Machine

/-! ### The canonical form -/

theorem memPut_wf {m : List Host.Cell} (h : memWf m = true) (k : Nat) (b : Byte) : memWf (memPut m k b) = true :=
  dset_canonical _ h k b

theorem memClear_wf {m : List Host.Cell} (h : memWf m = true) (k n : Nat) : memWf (memClear m k n) = true :=
  filter_canonical _ h _

theorem foldl_memPut_wf {α : Type} (key : α → Nat) (val : α → Byte) (l : List α) {m : List Host.Cell} (h : memWf m = true) :
    memWf (l.foldl (fun m c => memPut m (key c) (val c)) m) = true := by
  induction l generalizing m with
  | nil => exact h
  | cons c l ih => exact ih (memPut_wf h _ _)

theorem memCopy_wf {m : List Host.Cell} (h : memWf m = true) (a b n : Nat) : memWf (memCopy m a b n) = true :=
  foldl_memPut_wf _ _ _ (memClear_wf h b n)

theorem reset_memWf : memWf State.reset.mem = true := rfl

/-! ### Bytes -/

theorem memByte_memPut (m : List Host.Cell) (k q : Nat) (b : Byte) : memByte (memPut m k b) q = if q = k then b else memByte m q :=
  dget_dset _ m k q b

theorem byte_setByte (s : State) (k q : Nat) (b : Byte) : (s.setByte k b).byte q = if q = k then b else s.byte q :=
  memByte_memPut s.mem k q b

theorem kget_filter (t : Tbl α) (p : Nat → Bool) (k : Nat) : kget (t.filter fun e => p e.1) k = if p k then kget t k else none := by
  induction t with
  | nil => simp [kget]
  | cons e t ih =>
    obtain ⟨i, v⟩ := e
    by_cases hi : p i
    · rw [List.filter_cons_of_pos (by simpa using hi)]
      simp only [kget, ih]
      by_cases hk : k = i
      · subst hk; simp [hi]
      · simp [hk]
    · rw [List.filter_cons_of_neg (by simpa using hi)]
      simp only [kget, ih]
      by_cases hk : k = i
      · subst hk; simp [hi]
      · simp [hk]

theorem memByte_memClear (m : List Host.Cell) (k n q : Nat) :
    memByte (memClear m k n) q = if k ≤ q ∧ q < k + n then unlisted else memByte m q := by
  unfold memByte dget memClear
  rw [kget_filter m fun c => decide (c < k) || decide (k + n ≤ c)]
  by_cases h : k ≤ q ∧ q < k + n
  · have : (decide (q < k) || decide (k + n ≤ q)) = false := by simp; omega
    simp [this, h]
  · have : (decide (q < k) || decide (k + n ≤ q)) = true := by simp; omega
    simp [this, h]

/-- Bytes put into memory from a key upward. -/
theorem setBytes_eq (s : State) (k : Nat) (bs : List Byte) :
    s.setBytes k bs = { s with mem := (s.setBytes k bs).mem } := by
  induction bs generalizing s k with
  | nil => rfl
  | cons b bs ih =>
    show (s.setByte k b).setBytes (k + 1) bs = { s with mem := ((s.setByte k b).setBytes (k + 1) bs).mem }
    rw [ih]; rfl

theorem byte_setBytes (s : State) (k q : Nat) (bs : List Byte) :
    (s.setBytes k bs).byte q = if k ≤ q ∧ q < k + bs.length then bs.getD (q - k) 0 else s.byte q := by
  induction bs generalizing s k with
  | nil => rw [if_neg (by simp)]; rfl
  | cons b bs ih =>
    show ((s.setByte k b).setBytes (k + 1) bs).byte q = _
    rw [ih, byte_setByte]
    by_cases h : q = k
    · subst h; rw [if_neg (by omega), if_pos rfl, if_pos (by simp)]; simp
    · rw [if_neg h]
      by_cases h2 : k + 1 ≤ q ∧ q < k + 1 + bs.length
      · rw [if_pos h2, if_pos (by simp only [List.length_cons]; omega)]
        have : q - k = (q - (k + 1)) + 1 := by omega
        rw [this]; simp
      · rw [if_neg h2, if_neg (by simp only [List.length_cons]; omega)]

theorem setBytes_wf {s : State} (h : memWf s.mem = true) (k : Nat) (bs : List Byte) : memWf (s.setBytes k bs).mem = true := by
  induction bs generalizing s k with
  | nil => exact h
  | cons b bs ih => exact ih (s := s.setByte k b) (memPut_wf h k b) _

theorem length_toBytes (n x : Nat) : (toBytes n x).length = n := by
  induction n generalizing x with
  | zero => rfl
  | succ n ih => simp [toBytes, ih]

theorem ofBytes_toBytes (n x : Nat) : ofBytes (toBytes n x) = x % 256 ^ n := by
  induction n generalizing x with
  | zero => simp [toBytes, ofBytes, Nat.mod_one]
  | succ n ih =>
    show ofBytes (toBytes n (x / 256)) * 256 + (BitVec.ofNat 8 (x % 256)).toNat = _
    rw [ih, Nat.pow_succ', Nat.mod_mul, BitVec.toNat_ofNat]
    omega

theorem getD_toBytes (n x i : Nat) (h : i < n) : (toBytes n x).getD i 0 = BitVec.ofNat 8 (x / 256 ^ i) := by
  induction n generalizing x i with
  | zero => omega
  | succ n ih =>
    cases i with
    | zero =>
      simp only [toBytes, List.getD_cons_zero, Nat.pow_zero, Nat.div_one]
      apply BitVec.eq_of_toNat_eq; simp
    | succ i =>
      simp only [toBytes, List.getD_cons_succ]
      rw [ih _ _ (by omega), Nat.div_div_eq_div_mul, Nat.pow_succ']

/-! ### Words -/

theorem setWord_eq (s : State) (k : Nat) (x : BitVec 64) : s.setWord k x = { s with mem := (s.setWord k x).mem } := setBytes_eq s k _

theorem byte_setWord (s : State) (k q : Nat) (x : BitVec 64) :
    (s.setWord k x).byte q = if k ≤ q ∧ q < k + 8 then BitVec.ofNat 8 (x.toNat / 256 ^ (q - k)) else s.byte q := by
  unfold State.setWord
  rw [byte_setBytes, length_toBytes]
  split
  · rw [getD_toBytes _ _ _ (by omega)]
  · rfl

theorem setWord_wf {s : State} (h : memWf s.mem = true) (k : Nat) (x : BitVec 64) : memWf (s.setWord k x).mem = true :=
  setBytes_wf h k _

theorem bytes_congr {s t : State} {k n : Nat} (h : ∀ i < n, s.byte (k + i) = t.byte (k + i)) : s.bytes k n = t.bytes k n := by
  unfold State.bytes
  exact List.map_congr_left fun i hi => h i (List.mem_range.1 hi)

theorem word_congr {s t : State} {k : Nat} (h : ∀ i < 8, s.byte (k + i) = t.byte (k + i)) : s.word k = t.word k := by
  unfold State.word; rw [bytes_congr h]

theorem bytes_setBytes_same (s : State) (k : Nat) (bs : List Byte) : (s.setBytes k bs).bytes k bs.length = bs := by
  unfold State.bytes
  apply List.ext_getElem (by simp)
  intro i h1 h2
  simp only [List.getElem_map, List.getElem_range, byte_setBytes]
  rw [if_pos (by omega)]
  simp [List.getD_eq_getElem?_getD, List.getElem?_eq_getElem h2]

theorem word_setWord_same (s : State) (k : Nat) (x : BitVec 64) : (s.setWord k x).word k = x := by
  unfold State.word State.setWord
  have := bytes_setBytes_same s k (toBytes 8 x.toNat)
  rw [length_toBytes] at this
  rw [this, ofBytes_toBytes]
  apply BitVec.eq_of_toNat_eq
  simp only [BitVec.toNat_ofNat]
  have := x.isLt
  omega

theorem word_setWord_apart (s : State) {k q : Nat} (x : BitVec 64) (h : q + 8 ≤ k ∨ k + 8 ≤ q) : (s.setWord k x).word q = s.word q := by
  apply word_congr
  intro i hi
  rw [byte_setWord, if_neg (by omega)]

theorem setWords_eq (s : State) (k : Nat) (xs : List (BitVec 64)) : s.setWords k xs = { s with mem := (s.setWords k xs).mem } :=
  setBytes_eq s k _

theorem setWords_wf {s : State} (h : memWf s.mem = true) (k : Nat) (xs : List (BitVec 64)) : memWf (s.setWords k xs).mem = true :=
  setBytes_wf h k _

theorem length_wordBytes (xs : List (BitVec 64)) : (xs.flatMap fun x => toBytes 8 x.toNat).length = 8 * xs.length := by
  induction xs with
  | nil => rfl
  | cons x xs ih => rw [List.flatMap_cons, List.length_append, ih, length_toBytes, List.length_cons]; omega

theorem byte_setWords_apart (s : State) (k q : Nat) (xs : List (BitVec 64)) (h : q < k ∨ k + 8 * xs.length ≤ q) :
    (s.setWords k xs).byte q = s.byte q := by
  unfold State.setWords
  rw [byte_setBytes, length_wordBytes, if_neg (by omega)]

end Sys2Proof.Machine
end

