-- ==== Sys2Proof/Laws/Lines.lean ====
section
/-! SUPPORT. What the operations on L2 lines leave alone: frames of rebasing, dropping and killing lines. -/
namespace Sys2Proof.Machine
open Sys2Proof
variable {α β : Type}

theorem kget_map (t : Tbl α) (g : Nat → α → β) (k : Nat) : kget (t.map fun e => (e.1, g e.1 e.2)) k = (kget t k).map (g k) := by
  induction t with
  | nil => rfl
  | cons e t ih =>
    simp only [List.map_cons, kget]
    by_cases h : k = e.1
    · subst h; simp
    · simp [h, ih]

theorem mem_of_kget {t : Tbl α} {k : Nat} {x : α} (h : kget t k = some x) : (k, x) ∈ t := by
  induction t with
  | nil => simp [kget] at h
  | cons e t ih =>
    simp only [kget] at h
    split at h
    · rename_i hk; cases h; subst hk; simp
    · exact List.mem_cons_of_mem _ (ih h)

theorem kget_none_of {t : Tbl α} {k : Nat} (h : ∀ e ∈ t, e.1 ≠ k) : kget t k = none := by
  induction t with
  | nil => rfl
  | cons e t ih =>
    simp only [kget]
    rw [if_neg fun hk => h e (by simp) hk.symm]
    exact ih fun e he => h e (List.mem_cons_of_mem _ he)

/-- A rebase changes only the slice's base and the times of its lines (R228). -/
theorem rebase_eq (s : State) (sl b : Nat) : s.rebase sl b = { s with lines := (s.rebase sl b).lines, sliceBase := (s.rebase sl b).sliceBase } := by
  unfold State.rebase; split <;> rfl

/-- The lines after a rebase: each with its times, bounded from below in the slice. -/
theorem kget_rebase (s : State) (sl b k : Nat) : ∃ g : Line → Line, kget (s.rebase sl b).lines k = (kget s.lines k).map g ∧
    ∀ x, ∃ wts rts, g x = { x with wts := wts, rts := rts } ∧ x.wts ≤ wts ∧ x.rts ≤ rts := by
  unfold State.rebase
  split
  · exact ⟨id, by simp, fun x => ⟨x.wts, x.rts, rfl, le_refl _, le_refl _⟩⟩
  · refine ⟨_, kget_map s.lines (fun _ x => if x.slice = sl then { x with wts := max b x.wts, rts := max b x.rts } else x) k, fun x => ?_⟩
    by_cases h : x.slice = sl
    · exact ⟨max b x.wts, max b x.rts, by simp [h], le_max_right _ _, le_max_right _ _⟩
    · exact ⟨x.wts, x.rts, by simp [h], le_refl _, le_refl _⟩

/-- A line dropped from its slice changes only lines and bases. -/
theorem dropLine_eq (s : State) (k : Nat) : s.dropLine k = { s with lines := (s.dropLine k).lines, sliceBase := (s.dropLine k).sliceBase } := by
  unfold State.dropLine
  split
  · rfl
  · rw [rebase_eq]

/-- The lines after one has been dropped. -/
theorem kget_dropLine (s : State) (k q : Nat) : ∃ g : Line → Line,
    kget (s.dropLine k).lines q = (if q = k then none else kget s.lines q).map g ∧
    ∀ x, ∃ wts rts, g x = { x with wts := wts, rts := rts } ∧ x.wts ≤ wts ∧ x.rts ≤ rts := by
  unfold State.dropLine
  split
  · rename_i h
    refine ⟨id, ?_, fun x => ⟨x.wts, x.rts, rfl, le_refl _, le_refl _⟩⟩
    by_cases e : q = k
    · subst e; simp [h]
    · simp [e]
  · rename_i x h
    obtain ⟨g, h1, h2⟩ := kget_rebase ({ s with lines := kdel s.lines k } : State) x.slice x.lastTime q
    exact ⟨g, by rw [h1, kget_kdel], h2⟩

/-- Several lines dropped. -/
theorem dropLines_eq (l : List (Nat × Line)) : ∀ s : State, (l.foldl (fun s e => s.dropLine e.1) s) =
    { s with lines := (l.foldl (fun s e => s.dropLine e.1) s).lines, sliceBase := (l.foldl (fun s e => s.dropLine e.1) s).sliceBase } := by
  induction l with
  | nil => intro s; rfl
  | cons e l ih =>
    intro s
    rw [List.foldl_cons, ih, dropLine_eq]

theorem kget_dropLines (l : List (Nat × Line)) : ∀ (s : State) (q : Nat), ∃ g : Line → Line,
    kget (l.foldl (fun s e => s.dropLine e.1) s).lines q = (if q ∈ l.map (·.1) then none else kget s.lines q).map g ∧
    ∀ x, ∃ wts rts, g x = { x with wts := wts, rts := rts } ∧ x.wts ≤ wts ∧ x.rts ≤ rts := by
  induction l with
  | nil => intro s q; exact ⟨id, by simp, fun x => ⟨x.wts, x.rts, rfl, le_refl _, le_refl _⟩⟩
  | cons e l ih =>
    intro s q
    obtain ⟨g, h1, h2⟩ := ih (s.dropLine e.1) q
    obtain ⟨g', h3, h4⟩ := kget_dropLine s e.1 q
    refine ⟨g ∘ g', ?_, fun x => ?_⟩
    · rw [List.foldl_cons, h1, h3]
      by_cases a : q = e.1 <;> by_cases b : q ∈ l.map (·.1) <;> simp [a, b]
    · obtain ⟨w1, r1, e1, l1, m1⟩ := h4 x
      obtain ⟨w2, r2, e2, l2, m2⟩ := h2 (g' x)
      exact ⟨w2, r2, by rw [Function.comp, e2, e1], by rw [e1] at l2; exact le_trans l1 l2, by rw [e1] at m2; exact le_trans m1 m2⟩

/-- Lines killed: only lines, L1 copies and bases change (R118, R119, R216). -/
theorem killLines_eq (s : State) (p : Nat → Bool) : s.killLines p =
    { s with lines := (s.killLines p).lines, l1 := (s.killLines p).l1, sliceBase := (s.killLines p).sliceBase } := by
  unfold State.killLines
  dsimp only
  rw [dropLines_eq]

/-- The lines after some are killed. -/
theorem kget_killLines (s : State) (p : Nat → Bool) (q : Nat) : ∃ g : Line → Line,
    kget (s.killLines p).lines q = (if p q then none else kget s.lines q).map g ∧
    ∀ x, ∃ wts rts, g x = { x with wts := wts, rts := rts } ∧ x.wts ≤ wts ∧ x.rts ≤ rts := by
  obtain ⟨g, h1, h2⟩ := kget_dropLines (s.lines.filter fun e => p e.1) s q
  refine ⟨g, ?_, h2⟩
  show kget ((s.lines.filter fun e => p e.1).foldl (fun s e => s.dropLine e.1) s).lines q = _
  rw [h1]
  by_cases hp : p q = true
  · simp only [hp, if_true, Option.map_none]
    by_cases hm : q ∈ (s.lines.filter fun e => p e.1).map (·.1)
    · rw [if_pos hm]; rfl
    · rw [if_neg hm]
      have : kget s.lines q = none := kget_none_of fun e he hq => hm (List.mem_map.2 ⟨e, List.mem_filter.2 ⟨he, by rw [hq]; exact hp⟩, hq⟩)
      rw [this]; rfl
  · have hm : q ∉ (s.lines.filter fun e => p e.1).map (·.1) := by
      intro hm
      obtain ⟨e, he, rfl⟩ := List.mem_map.1 hm
      exact hp (List.mem_filter.1 he).2
    rw [if_neg hm, if_neg hp]

theorem killLines_data (s : State) (p : Nat → Bool) (q : Nat) :
    (kget (s.killLines p).lines q).map (·.data) = if p q then none else (kget s.lines q).map (·.data) := by
  obtain ⟨g, h1, h2⟩ := kget_killLines s p q
  rw [h1, Option.map_map]
  have : (fun x : Line => x.data) ∘ g = fun x => x.data := by
    funext x
    obtain ⟨_, _, e, _⟩ := h2 x
    simp [e]
  rw [this]
  split <;> rfl

/-! ### Translation, sampling and write-back (R107, R298, R300) -/

/-- The permission check of a translation gives back the state it was given. -/
theorem permitted_eq {u t : State} {x e : Trans} {r w : Bool}
    (h : (if (r ∧ x.rd = false) ∨ (w ∧ x.wr = false) then (.error (9, 3 + (if w then 4 else 0)) : Except (Nat × Nat) (State × Trans))
      else .ok (u, x)) = .ok (t, e)) : u = t := by
  split at h
  · cases h
  · injection h with h; injection h

/-- An entry that is installed changes only the cached translations, and the draw for the one given up. -/
theorem installTrans_eq (s : State) (e : Trans) : s.installTrans e = { s with trans := (s.installTrans e).trans, free := (s.installTrans e).free } := by
  unfold State.installTrans
  dsimp only
  split
  · rfl
  · split <;> rfl

/-- A translation that succeeds changes only the cached translations, and the draw for the one given up. -/
theorem translate_eq {s t : State} {die ctx m va : Nat} {r w : Bool} {e : Trans} (h : s.translate die ctx m va r w = .ok (t, e)) :
    t = { s with trans := t.trans, free := t.free } := by
  unfold State.translate at h
  extract_lets c perm at h
  cases hf : s.trans.find? fun e => e.stack == die && e.ctx == c && decide (e.base ≤ va) && decide (va < e.base + e.size)
  · rw [hf] at h
    cases hk : s.leafKey ctx va
    · rw [hk] at h; cases h
    · rw [hk] at h
      dsimp only at h
      split at h
      · cases h
      · have := permitted_eq h; rw [← this]; exact installTrans_eq _ _
  · rw [hf] at h
    have := permitted_eq h; rw [← this]

/-- A sample changes only the die's count, its ring in memory and its registers. -/
theorem sample_eq (s : State) (die ctx : Nat) (glb : Bool) (va ty core : Nat) : s.sample die ctx glb va ty core =
    { s with sampled := (s.sample die ctx glb va ty core).sampled, sys := (s.sample die ctx glb va ty core).sys,
             mem := (s.sample die ctx glb va ty core).mem } := by
  unfold State.sample
  dsimp only
  split
  · rfl
  · split
    · rfl
    · split
      · rfl
      · unfold State.setSys
        rw [setWords_eq]

/-- With sampling off, nothing. -/
theorem sample_off {s : State} {die : Nat} (h : (s.sysReg 0x0120 die).toNat % 2 ^ 32 = 0) (ctx : Nat) (glb : Bool) (va ty core : Nat) :
    s.sample die ctx glb va ty core = s := by
  unfold State.sample
  dsimp only
  rw [if_pos h]

/-- A sample leaves every system register below the ring's own alone. -/
theorem sysReg_sample (s : State) (die ctx : Nat) (glb : Bool) (va ty core r i : Nat) (hr : r < 0x0123) (hi : i < 65536) :
    (s.sample die ctx glb va ty core).sysReg r i = s.sysReg r i := by
  have hset : ∀ (t : State) (q : Nat) (v : BitVec 64), 0x0123 ≤ q → (t.setSys q die v).sysReg r i = t.sysReg r i := by
    intro t q v hq
    unfold State.setSys State.sysReg
    dsimp only
    have : sysKey r i ≠ sysKey q die := by unfold sysKey; omega
    split
    · rw [kget_kdel, if_neg this]
    · rw [kget_kset, if_neg this]
  unfold State.sample
  dsimp only
  split
  · rfl
  · split
    · rfl
    · split
      · rw [hset _ _ _ (by decide)]; rfl
      · rw [hset _ _ _ (by decide), State.sysReg, setWords_eq]; rfl

/-- What work behind the lines leaves alone: all but lines, copies and bases, memory with its poison and its symbols to
correct, cached translations, samples and the draws; and every system register below the sample ring's. -/
structure Behind (s t : State) : Prop where
  rest : { t with
    lines := s.lines, l1 := s.l1, sliceBase := s.sliceBase, mem := s.mem, poison := s.poison, flaws := s.flaws, trans := s.trans
    free := s.free, sampled := s.sampled, sys := s.sys } = s
  regs : ∀ r i, r < 0x0123 → i < 65536 → t.sysReg r i = s.sysReg r i

theorem Behind.refl (s : State) : Behind s s := ⟨rfl, fun _ _ _ _ => rfl⟩

theorem Behind.trans {s t u : State} (h : Behind s t) (g : Behind t u) : Behind s u :=
  ⟨by rw [← h.rest, ← g.rest], fun r i hr hi => (g.regs r i hr hi).trans (h.regs r i hr hi)⟩

/-- A list of changes, each behind the lines. -/
theorem Behind.foldl {α : Type} {F : State → α → State} (hF : ∀ s e, Behind s (F s e)) :
    ∀ (l : List α) (s : State), Behind s (l.foldl F s)
  | [], s => Behind.refl s
  | e :: l, s => (hF s e).trans (Behind.foldl hF l (F s e))

theorem Behind.ofTranslate {s t : State} {die ctx m va : Nat} {r w : Bool} {e : Trans} (h : s.translate die ctx m va r w = .ok (t, e)) :
    Behind s t := by
  have h := translate_eq h
  exact ⟨by rw [h], fun _ _ _ _ => by rw [h]; rfl⟩

theorem Behind.sample (s : State) (die ctx : Nat) (glb : Bool) (va ty core : Nat) : Behind s (s.sample die ctx glb va ty core) :=
  ⟨by rw [sample_eq], fun r i hr hi => sysReg_sample s die ctx glb va ty core r i hr hi⟩

theorem Behind.putLine (s : State) (k : Nat) (x : Line) : Behind s (s.putLine k x) := by
  unfold State.putLine
  exact ⟨by rw [setBytes_eq], fun r i _ _ => by rw [State.sysReg, setBytes_eq]; rfl⟩

theorem Behind.rebase (s : State) (slice b : Nat) : Behind s (s.rebase slice b) := by
  rw [rebase_eq]; exact ⟨rfl, fun _ _ _ _ => rfl⟩

theorem Behind.dropLine (s : State) (k : Nat) : Behind s (s.dropLine k) := by
  rw [dropLine_eq]; exact ⟨rfl, fun _ _ _ _ => rfl⟩

/-- A write-back that succeeds changes only what stands behind the lines, and no line's data. -/
theorem writeOut_behind {s t : State} {k : Nat} {ask : Bool} (h : s.writeOut k ask = .ok t) :
    Behind s t ∧ ∀ q, (kget t.lines q).map (·.data) = (kget s.lines q).map (·.data) := by
  unfold State.writeOut at h
  split at h
  · injection h with h; subst h; exact ⟨Behind.refl _, fun _ => rfl⟩
  · rename_i x hx
    split at h
    · injection h with h; subst h; exact ⟨Behind.refl _, fun _ => rfl⟩
    · split at h
      · injection h with h; subst h; exact ⟨Behind.refl _, fun _ => rfl⟩
      · rename_i wk w _
        extract_lets m va die at h
        split at h
        · cases h
        · rename_i u e hu
          extract_lets k' v v' at h
          injection h with h
          have hv : Behind u v ∧ v.lines = u.lines := by
            by_cases hb : e.tgt = 0 ∧ u.backedOther k' wk w (tagGen k)
            · exact ⟨by rw [show v = u from if_pos hb]; exact Behind.refl u, by rw [show v = u from if_pos hb]⟩
            · refine ⟨by rw [show v = u.putLine k' x from if_neg hb]; exact Behind.putLine u k' x, ?_⟩
              rw [show v = u.putLine k' x from if_neg hb]
              unfold State.putLine
              dsimp only
              rw [setBytes_eq]
          have hl : v'.lines = kset s.lines k { x with dirty := false, halves := if x.halves = (0, 0) then (0, 0) else (2, 2) } := by
            show kset v.lines k _ = _
            rw [hv.2, translate_eq hu]
          have hv' : Behind v v' := ⟨rfl, fun _ _ _ _ => rfl⟩
          subst h
          refine ⟨(((Behind.ofTranslate hu).trans hv.1).trans hv').trans (Behind.sample v' _ _ _ _ _ _), fun q => ?_⟩
          rw [sample_eq]
          show (kget v'.lines q).map _ = _
          rw [hl, kget_kset]
          by_cases hq : q = k
          · subst hq; rw [if_pos rfl, hx]; rfl
          · rw [if_neg hq]

theorem writeBack_behind {s t : State} {k : Nat} (h : s.writeBack k = .ok t) : Behind s t := (writeOut_behind h).1

/-- A line leaves its slice: the frame. -/
theorem leaveSlice_behind {s t : State} {k : Nat} (h : s.leaveSlice k = .ok t) : Behind s t := by
  unfold State.leaveSlice at h
  split at h
  · cases h
  · rename_i u hu
    injection h with h
    subst h
    refine (writeBack_behind hu).trans ?_
    split
    · exact (Behind.dropLine u k).trans ⟨rfl, fun _ _ _ _ => rfl⟩
    · exact Behind.dropLine u k

/-- Lines that move to other slices (R305, R329): the frame. -/
theorem moveLines_behind (s : State) (p : Nat → Bool) (old new : List Nat) : Behind s (s.moveLines p old new).1 := by
  unfold State.moveLines
  refine (Behind.foldl (fun s e => ?_) _ s).trans (Behind.foldl (fun s i => Behind.rebase s i _) new _)
  dsimp only
  split
  · rename_i t h; exact leaveSlice_behind h
  · exact ⟨rfl, fun _ _ _ _ => rfl⟩

end Sys2Proof.Machine
end

