-- ==== Sys2Proof/Laws/Points.lean ====
section
/-! SUPPORT. What the shared operations on waves, system registers and the table of unperformed accesses do. -/
namespace Sys2Proof.Machine

/-! ### System registers -/

theorem kget_setSys (s : State) (r i : Nat) (x : BitVec 64) {k : Nat} (h : k ≠ sysKey r i) : kget (s.setSys r i x).sys k = kget s.sys k := by
  unfold State.setSys
  dsimp only
  split
  · rw [kget_kdel, if_neg h]
  · rw [kget_kset, if_neg h]

theorem sysReg_setSys (s : State) (r i : Nat) (x : BitVec 64) : (s.setSys r i x).sysReg r i = x := by
  unfold State.setSys State.sysReg
  dsimp only
  split
  · rename_i h; rw [kget_kdel, if_pos rfl]; simp [h]
  · rw [kget_kset, if_pos rfl]; rfl

theorem ctlRegs_setCtl (s : State) (c k : Nat) (r : CtlRegs) : (s.setCtl c r).ctlRegs k = if k = c then r else s.ctlRegs k :=
  dget_dset CtlRegs.zero s.ctl c k r

/-! ### Waves -/

theorem wave_of {s : State} {w : Nat} {x : Wave} (h : kget s.waves w = some x) : s.wave w = x := by rw [State.wave, h]; rfl

theorem kget_modWave (s : State) (w v : Nat) (g : Wave → Wave) :
    kget (s.modWave w g).waves v = if v = w then some (g (s.wave w)) else kget s.waves v := kget_kset s.waves w v _

theorem wave_modWave (s : State) (w : Nat) (g : Wave → Wave) : (s.modWave w g).wave w = g (s.wave w) := by
  unfold State.wave; rw [kget_modWave, if_pos rfl]; rfl

theorem waves_modWave (s : State) {w v : Nat} (g : Wave → Wave) (h : v ≠ w) : kget (s.modWave w g).waves v = kget s.waves v := by
  rw [kget_modWave, if_neg h]

theorem wave_modWave_ne (s : State) {w v : Nat} (g : Wave → Wave) (h : v ≠ w) : (s.modWave w g).wave v = s.wave v := by
  unfold State.wave; rw [waves_modWave s g h]

theorem modWave_modWave (s : State) (w : Nat) (g h : Wave → Wave) : (s.modWave w g).modWave w h = s.modWave w (h ∘ g) := by
  have : ∀ (t : Tbl Wave) (x y : Wave), kset (kset t w x) w y = kset t w y := by
    intro t x y
    induction t with
    | nil => simp [kset]
    | cons e t ih =>
      obtain ⟨k, v⟩ := e
      simp only [kset]
      by_cases h1 : w = k
      · simp [h1, kset]
      · by_cases h2 : w < k
        · simp [h1, h2, kset]
        · simp [h1, h2, kset, ih]
  have hw := wave_modWave s w g
  unfold State.modWave at hw ⊢
  rw [hw]
  unfold State.setWave
  simp only [this, Function.comp]

theorem path_holdPath (x : Wave) (p q : Bool) (h : Hold) : (x.holdPath p h).path q = if q = p then { x.path q with hold := h } else x.path q := by
  cases p <;> cases q <;> rfl

theorem complete_ctr (x : Wave) (uid err info pts n : Nat) : (x.complete uid err info pts).ctr n = (x.ctr n).mapToks fun k =>
    if k.uid = uid then { k with done := true, err := err, info := info, pts := pts } else k := by
  unfold Wave.complete Wave.ctr dget
  dsimp only
  rw [kget_map x.ctrs (fun _ c => c.mapToks fun t => if t.uid = uid then { t with done := true, err := err, info := info, pts := pts } else t)]
  cases kget x.ctrs n <;> rfl

theorem complete_eq (x : Wave) (uid err info pts : Nat) : x.complete uid err info pts = { x with ctrs := (x.complete uid err info pts).ctrs } := rfl

theorem log_eq (x : Wave) (u : Nat) (o : Undo) : x.log u o = { x with undo := (x.log u o).undo } := by
  unfold Wave.log
  split <;> rfl

theorem landU_s (x : Wave) (d : Reg) (v : BitVec 64) : WritesS x (x.landU d v) d v := by
  intro n
  unfold Wave.landU
  by_cases h : isS d = true
  · rw [if_pos h]
    refine (dget_dset (0 : BitVec 64) x.s d.toNat n v).trans ?_
    by_cases hn : n = d.toNat <;> simp [hn, h]
  · rw [if_neg h]; simp [h]

theorem landU_eq (x : Wave) (d : Reg) (v : BitVec 64) : x.landU d v =
    { x with s := (x.landU d v).s, late := (x.landU d v).late, bad := (x.landU d v).bad } := by
  unfold Wave.landU; split <;> rfl

/-- A uniform result at a completion changes the register, the undo pool and what readers may still see of older contents. -/
theorem putU_spec (s : State) (w uid : Nat) (d : Reg) (v : BitVec 64) :
    (s.putU w uid d v).wave w = { s.wave w with s := ((s.putU w uid d v).wave w).s, undo := ((s.putU w uid d v).wave w).undo, late := ((s.putU w uid d v).wave w).late, bad := ((s.putU w uid d v).wave w).bad } ∧
    WritesS (s.wave w) ((s.putU w uid d v).wave w) d v := by
  unfold State.putU
  rw [wave_modWave]
  by_cases h : isS d = true
  · rw [if_pos h, log_eq]
    refine ⟨?_, fun n => (landU_s _ d v n).trans rfl⟩
    rw [landU_eq]
  · rw [if_neg h]
    exact ⟨rfl, fun n => by simp [h]⟩

theorem release_wave (s : State) (w : Nat) (p : Bool) (uid ts : Nat) : (s.release w p uid ts).wave w =
    ({ ((s.wave w).holdPath p .none) with pts := max (s.wave w).pts ts } : Wave).complete uid 0 0 0 := wave_modWave _ _ _

/-! ### The oldest access -/

/-- A wave's oldest access that is ready is the one of `AtHead`. -/
theorem readyHead_of {s : State} {w : Nat} {x : Wave} {a : Acc} {rest : List Acc} (h : AtHead s w x a rest) : s.readyHead w = some a := by
  unfold State.readyHead
  rw [h.wave]
  have : x.head = some a := by unfold Wave.head; rw [h.pend]; rfl
  simp only [this]
  rw [if_pos]
  have hu : a.unacked = false := by unfold Acc.unacked; rw [h.acks]
  simp [h.reply, h.park, h.here, h.posts, hu]

theorem regHead_of {s : State} {w : Nat} {x : Wave} {a : Acc} {rest : List Acc} (h : AtHead s w x a rest) {q : Bool} {reg inst : Nat} {v : BitVec 64}
    (hr : a.regOp = some (q, reg, inst, v)) : s.regHead w q reg = some (a, inst, v) := by
  unfold State.regHead
  rw [readyHead_of h]
  simp [hr]

/-- The oldest access performs: what `finishHead` does to a state whose wave has kept all but its result registers. -/
theorem finishHead_performed {s u : State} {w : Nat} {x : Wave} {a : Acc} {rest : List Acc} (h : AtHead s w x a rest) (ts : Nat)
    (hclk : u.clk = s.clk) (hp : (u.wave w).pend = x.pend) (hu : (u.wave w).undo = x.undo) (ht : (u.wave w).pts = x.pts)
    (hc : (u.wave w).ctrs = x.ctrs) (ha : (u.wave w).pca = x.pca) (hb : (u.wave w).pcb = x.pcb) (hs : (u.wave w).stack = x.stack)
    (hk : (u.wave w).park = x.park) :
    Performed s (u.finishHead w ts) w x a rest ts := by
  have hw : (u.finishHead w ts).wave w = (({ u.wave w with
        pend := rest
        undo := undoAfter x rest
        pts := max x.pts ts } : Wave).complete a.uid 0 0 0) := by
    unfold State.finishHead
    rw [wave_modWave, hp, h.pend]
    dsimp only
    rw [ht]
    cases rest <;> simp only [undoAfter, hu]
  constructor
  · unfold State.finishHead
    rw [kget_modWave, if_pos rfl, wave_modWave]
  · rw [hw]; rfl
  · rw [hw]; rfl
  · rw [hw]; rfl
  · intro n
    rw [hw, complete_ctr]
    congr 1
    unfold Wave.ctr
    exact congrArg (fun t => dget Ctr.zero t n) hc
  · rw [hw]; exact ⟨ha, hb, hs, hk.trans h.park⟩
  · exact hclk

theorem finishHead_regs (u : State) (w ts : Nat) : ((u.finishHead w ts).wave w).s = (u.wave w).s ∧ ((u.finishHead w ts).wave w).v = (u.wave w).v ∧
    ((u.finishHead w ts).wave w).p = (u.wave w).p ∧ ((u.finishHead w ts).wave w).lfsr = (u.wave w).lfsr ∧
    ((u.finishHead w ts).wave w).watches = (u.wave w).watches := by
  unfold State.finishHead
  rw [wave_modWave]
  split <;> exact ⟨rfl, rfl, rfl, rfl, rfl⟩

/-- The oldest access has had its effect and completes later. -/
theorem deferHead_deferred {s u : State} {w : Nat} {x : Wave} {a : Acc} {rest : List Acc} (h : AtHead s w x a rest) (kind arg : Nat)
    (hw : u.waves = s.waves) (ha : u.asyncs = s.asyncs) : Deferred s (u.deferHead w kind arg) w x a rest kind arg := by
  have hx : u.wave w = x := by rw [State.wave, hw, h.wave]; rfl
  have key : ∃ g : Wave → Wave, (∀ y, (g y).pend = rest ∧ (g y).ctrs = y.ctrs) ∧ (u.deferHead w kind arg).waves = (u.modWave w g).waves ∧
      (u.deferHead w kind arg).asyncs = u.asyncs ++ [{ uid := a.uid, wave := w, kind := kind, arg := arg }] := by
    unfold State.deferHead
    rw [hx, h.pend]
    cases rest with
    | nil => exact ⟨fun y => { y with pend := [], undo := [] }, fun y => ⟨rfl, rfl⟩, rfl, rfl⟩
    | cons b r => exact ⟨fun y => { y with pend := b :: r, undo := y.undo.filter fun e => decide (b.uid < e.1) }, fun y => ⟨rfl, rfl⟩, rfl, rfl⟩
  obtain ⟨g, hg, hws, has⟩ := key
  have hwv : (u.deferHead w kind arg).wave w = g x := by
    rw [State.wave, hws, kget_modWave, if_pos rfl, hx]; rfl
  refine ⟨?_, ?_, ?_, ?_⟩
  · rw [hwv, hws, kget_modWave, if_pos rfl, hx]
  · rw [hwv]; exact (hg x).1
  · intro n; rw [hwv, Wave.ctr, (hg x).2]; rfl
  · rw [has, ha]

theorem deferHead_eq (u : State) (w kind arg : Nat) : u.deferHead w kind arg = { u with waves := (u.deferHead w kind arg).waves, asyncs := (u.deferHead w kind arg).asyncs } := by
  unfold State.deferHead; split <;> rfl

end Sys2Proof.Machine
end

