-- ==== Sys2Proof/Laws/Values.lean ====
section
/-! SUPPORT. From the numbers of a meaning to the bit strings of a claim: scalar, lane, field and reduction results. -/
namespace Sys2Proof.Machine
open Sys2Proof

theorem fixedU_row {s : State} {w : Nat} {pcb : Bool} {x : Wave} (h : Turn s w pcb x) {f : Sched} {lat : Nat} {d : Reg}
    {val : State → Wave → BitVec 32 → BitVec 64} (ha : activeAt s w pcb f ≠ 0) {r : BitVec 64}
    (hv : val (s.atIssue w f) ((s.atIssue w f).wave w) (activeAt s w pcb f) = r) :
    ∃ u, fixedU s f lat d val = .next u ∧ Fixed s u w pcb x f lat ∧ ResultU s u w x d r [] := by
  subst hv; exact fixedU_spec h d val ha

theorem widen_ofNat (n : Nat) (hn : 0 < n) (g : Bool) (v : Nat) :
    widen n g v = if g then (BitVec.ofNat n v).signExtend 64 else (BitVec.ofNat n v).setWidth 64 := by
  unfold widen
  have h : intOf n g v = intOf n g (BitVec.ofNat n v).toNat := by simp [intOf]
  rw [h]
  cases g
  · rw [intOf_unsigned]; simp only [Bool.false_eq_true, if_false]
    rw [BitVec.ofInt_natCast]; apply BitVec.eq_of_toNat_eq; simp
  · rw [intOf_signed hn]; rfl

theorem scalar_bridge (t : BitVec 2) (op : IntOp) (bv : BvOp)
    (hop : ∀ n g (x y : BitVec n), 0 < n → BitVec.ofNat n (truncTo n (op n g x.toNat y.toNat)) = bv n g x y) (x y : BitVec 64) :
    scalarOut t false (op (scalarW t) (typeSigned t) (x.toNat % 2 ^ scalarW t) (y.toNat % 2 ^ scalarW t)) = scalarResult t bv x y := by
  have e (n : Nat) (v : BitVec 64) : v.toNat % 2 ^ n = (v.setWidth n).toNat := by simp
  unfold scalarOut
  rw [e, e, widen_ofNat _ (by unfold scalarW; split <;> omega), Bool.not_false, Bool.and_true]
  rw [hop _ _ _ _ (by unfold scalarW; split <;> omega)]
  have ht : t = 0 ∨ t = 1 ∨ t = 2 ∨ t = 3 := by revert t; decide
  rcases ht with rfl | rfl | rfl | rfl <;> simp [scalarW, typeSigned, scalarResult]

theorem shift_bridge (t : BitVec 2) (sgn : Bool) (op : IntOp) (bv : (n : Nat) → BitVec n → Nat → BitVec n)
    (hop : ∀ n g (x : BitVec n) k, 0 < n → BitVec.ofNat n (truncTo n (op n g x.toNat k)) = bv n x k) (x : BitVec 64) (k : Nat) :
    scalarOut t (!sgn) (op (scalarW t) (typeSigned t) (x.toNat % 2 ^ scalarW t) k) = scalarShift t sgn bv x k := by
  have e (n : Nat) (v : BitVec 64) : v.toNat % 2 ^ n = (v.setWidth n).toNat := by simp
  unfold scalarOut
  rw [e, widen_ofNat _ (by unfold scalarW; split <;> omega), Bool.not_not]
  rw [hop _ _ _ _ (by unfold scalarW; split <;> omega)]
  have ht : t = 0 ∨ t = 1 ∨ t = 2 ∨ t = 3 := by revert t; decide
  rcases ht with rfl | rfl | rfl | rfl <;> cases sgn <;> simp [scalarW, typeSigned, scalarShift]

theorem imm_bridge (t : BitVec 2) (imm : BitVec 32) :
    immBits (scalarW t) (typeSigned t) imm = (scalarImm t imm).toNat % 2 ^ scalarW t := by
  have ht : t = 0 ∨ t = 1 ∨ t = 2 ∨ t = 3 := by revert t; decide
  have key (n : Nat) : truncTo n imm.toInt = (imm.signExtend n).toNat := by
    unfold truncTo BitVec.signExtend; rw [BitVec.toNat_ofInt]
  have k32 : (imm.signExtend 64).toNat % 2 ^ 32 = imm.toNat := by
    have : (imm.signExtend 64).setWidth 32 = imm := by apply BitVec.eq_of_getLsbD_eq; intro i hi; simp [BitVec.getLsbD_signExtend, hi]; omega
    have := congrArg BitVec.toNat this
    rwa [BitVec.toNat_setWidth] at this
  rcases ht with rfl | rfl | rfl | rfl
  · simp only [immBits, scalarW, typeSigned, scalarImm]; simp [key]; omega
  · simp only [immBits, scalarW, typeSigned, scalarImm]; simp
  · simp only [immBits, scalarW, typeSigned, scalarImm]; simp [key]; omega
  · simp only [immBits, scalarW, typeSigned, scalarImm]; simp

theorem laneValue (s : State) (w : Nat) (f : Sched) (before : List Reg) (t : BitVec 2) (r : Reg) (l : Nat) :
    (s.atIssue w f).lBits ((s.atIssue w f).wave w) before t r l = (laneBitsAt s w f (vectorW t) before r l).toNat := by
  unfold State.lBits laneBitsAt laneAt lane64At
  have h : vectorW t = 32 ∨ vectorW t = 64 := by unfold vectorW; split <;> simp
  rcases h with h | h <;> (simp [h]; exact (Nat.mod_eq_of_lt (BitVec.isLt _)).symm)

theorem vectorW_pos (t : BitVec 2) : 0 < vectorW t := by unfold vectorW; split <;> decide

theorem ofNat_extract (n : Nat) (hn : 0 < n) (g : Bool) (x : BitVec n) (spec : Nat) :
    BitVec.ofNat n (fieldExtract n g x.toNat spec) = bvExtract n g x (spec % 256) (spec / 256 % 256) := by
  unfold fieldExtract bvExtract
  generalize spec % 256 = off
  generalize spec / 256 % 256 = wid
  dsimp only
  split
  · rfl
  · next h =>
    have h1 : off < n := by omega
    have h2 : wid ≠ 0 := by omega
    clear h
    have he : 0 < min wid (n - off) := by omega
    have hle : min wid (n - off) ≤ n - off := min_le_right _ _
    generalize min wid (n - off) = e at *
    rw [ofNat_truncTo, Nat.mod_eq_of_lt x.isLt]
    have hE : intOf e g (x.toNat / 2 ^ off) = intOf e g (x.extractLsb' off e).toNat := by
      rw [BitVec.extractLsb'_toNat, Nat.shiftRight_eq_div_pow]; simp [intOf]
    rw [hE]
    apply BitVec.eq_of_getLsbD_eq
    intro i hi
    cases g
    · rw [intOf_unsigned, BitVec.ofInt_natCast]
      simp only [BitVec.getLsbD_ofNat, BitVec.getLsbD_ushiftRight, BitVec.getLsbD_shiftLeft, Bool.false_eq_true, if_false, hi, decide_true, Bool.true_and]
      rw [BitVec.testBit_toNat, BitVec.getLsbD_extractLsb']
      by_cases hie : i < e
      · have a1 : n - e + i < n := by omega
        have a2 : ¬ n - e + i < n - off - e := by omega
        have a3 : n - e + i - (n - off - e) = off + i := by omega
        simp [hie, a1, a2, a3]
      · have a1 : ¬ n - e + i < n := by omega
        simp [hie, a1]
    · rw [intOf_signed he]
      change (BitVec.signExtend n (x.extractLsb' off e)).getLsbD i = _
      simp only [BitVec.getLsbD_signExtend, BitVec.getLsbD_sshiftRight, BitVec.getLsbD_shiftLeft, if_true, hi, decide_true, Bool.true_and,
        BitVec.getLsbD_extractLsb', BitVec.msb_eq_getLsbD_last]
      have b1 : n - 1 < n := by omega
      have b2 : ¬ n - 1 < n - off - e := by omega
      have b3 : n - 1 - (n - off - e) = off + (e - 1) := by omega
      have b4 : e - 1 < e := by omega
      by_cases hie : i < e
      · have a1 : n - e + i < n := by omega
        have a2 : ¬ n - e + i < n - off - e := by omega
        have a3 : n - e + i - (n - off - e) = off + i := by omega
        simp [hie, a1, a2, a3, hi]
      · have a1 : ¬ n - e + i < n := by omega
        simp [hie, a1, b1, b2, b3, b4, hi]

theorem ofNat_insert (n : Nat) (x c : BitVec n) (spec : Nat) :
    BitVec.ofNat n (fieldInsert n x.toNat spec c.toNat) = bvInsert n x c (spec % 256) (spec / 256 % 256) := by
  unfold fieldInsert bvInsert
  generalize spec % 256 = off
  generalize spec / 256 % 256 = wid
  simp only [Nat.mod_eq_of_lt c.isLt]
  split
  · simp
  · next h =>
    have h1 : off < n := by omega
    have hle : min wid (n - off) ≤ n - off := min_le_right _ _
    generalize min wid (n - off) = e at *
    have e1 : c.toNat - c.toNat / 2 ^ off % 2 ^ e * 2 ^ off + x.toNat % 2 ^ e * 2 ^ off =
        2 ^ off * (2 ^ e * (c.toNat / 2 ^ off / 2 ^ e) + x.toNat % 2 ^ e) + c.toNat % 2 ^ off := by
      have d1 := Nat.div_add_mod c.toNat (2 ^ off)
      have d2 := Nat.div_add_mod (c.toNat / 2 ^ off) (2 ^ e)
      generalize c.toNat / 2 ^ off / 2 ^ e = q at *
      generalize c.toNat / 2 ^ off % 2 ^ e = m at *
      generalize x.toNat % 2 ^ e = a at *
      generalize c.toNat % 2 ^ off = lo at *
      rw [← d2] at d1
      rw [← d1]
      have : 2 ^ off * (2 ^ e * q + m) + lo - m * 2 ^ off = 2 ^ off * (2 ^ e * q) + lo := by
        rw [mul_add, mul_comm m]; omega
      rw [this]; ring
    apply BitVec.eq_of_getLsbD_eq
    intro i hi
    rw [BitVec.getLsbD_ofNat, e1, Nat.testBit_two_pow_mul_add _ (Nat.mod_lt _ (by positivity)),
      Nat.testBit_two_pow_mul_add _ (Nat.mod_lt _ (by positivity))]
    simp only [hi, decide_true, Bool.true_and, Nat.testBit_mod_two_pow, BitVec.testBit_toNat, Nat.testBit_div_two_pow,
      BitVec.getLsbD_or, BitVec.getLsbD_and, BitVec.getLsbD_not, BitVec.getLsbD_shiftLeft, BitVec.getLsbD_ushiftRight, BitVec.getLsbD_allOnes]
    by_cases g1 : i < off
    · simp [g1]
    · by_cases g2 : i - off < e
      · have : n - e + (i - off) < n := by omega
        simp [g1, g2, this]
      · have a1 : ¬ n - e + (i - off) < n := by omega
        have a2 : i - off - e + e + off = i := by omega
        simp [g1, g2, a1, a2]

theorem vabs_bv {n : Nat} (hn : 0 < n) (x : BitVec n) : BitVec.ofNat n (truncTo n ((intOf n true x.toNat).natAbs : Nat)) = x.abs := by
  rw [ofNat_truncTo, intOf_signed hn]
  unfold BitVec.abs
  rw [BitVec.msb_eq_toInt]
  by_cases h : x.toInt < 0
  · rw [if_pos (by simpa using h), Int.ofNat_natAbs_of_nonpos (by omega), BitVec.ofInt_neg, BitVec.ofInt_toInt]
    rfl
  · rw [if_neg (by simpa using h), Int.natAbs_of_nonneg (by omega), BitVec.ofInt_toInt]

theorem fixedV_row {s : State} {w : Nat} {pcb : Bool} {x : Wave} (h : Turn s w pcb x) {f : Sched} {lat : Nat} {ty : BitVec 2}
    {d : Reg} {srcs : List Reg} {val : State → Wave → Nat → Nat} (ha : activeAt s w pcb f ≠ 0) {g : Nat → BitVec (vectorW ty)}
    (hg : ∀ l, BitVec.ofNat (vectorW ty) (val (s.atIssue w f) ((s.atIssue w f).wave w) l) = g l) :
    ∃ t, fixedL s f lat ty d srcs val = .next t ∧ Fixed s t w pcb x f lat ∧ ResultV s t w x ty d (activeAt s w pcb f) g srcs := by
  obtain rfl := funext hg
  by_cases hw : vectorW ty = 32
  · obtain ⟨t, h1, h2, h3⟩ := fixedL_spec (f := f) (lat := lat) h hw d srcs val ha
    refine ⟨t, h1, h2, ?_⟩
    rw [ResultV, if_pos hw]
    convert h3 using 2 with l
    apply BitVec.eq_of_toNat_eq
    simp [hw]
  · have hw2 : vectorW ty = 64 := by unfold vectorW at *; split <;> simp_all
    obtain ⟨t, h1, h2, h3⟩ := fixedL64_spec (f := f) (lat := lat) h hw d srcs val ha
    refine ⟨t, h1, h2, ?_⟩
    rw [ResultV, if_neg hw]
    convert h3 using 2 with l
    apply BitVec.eq_of_toNat_eq
    simp [hw2]

theorem immBits_bv (n : Nat) (g : Bool) (imm : BitVec 32) : immBits n g imm = (if g then imm.signExtend n else imm.setWidth n : BitVec n).toNat := by
  unfold immBits
  cases g
  · simp
  · simp only [if_true]; unfold truncTo BitVec.signExtend; rw [BitVec.toNat_ofInt]

theorem bvCond_eq {n : Nat} (hn : 0 < n) (g : Bool) (cnd : BitVec 3) (x y : BitVec n) :
    cond cnd (intOf n g x.toNat) (intOf n g y.toNat) = bvCond n g cnd x y := by
  have hc : cnd = 0 ∨ cnd = 1 ∨ cnd = 2 ∨ cnd = 3 ∨ cnd = 4 ∨ cnd = 5 ∨ cnd = 6 ∨ cnd = 7 := by revert cnd; decide
  have e1 : decide (x.toNat = y.toNat) = (x == y) := by
    rw [Bool.eq_iff_iff]; simp [BitVec.toNat_inj]
  have e2 : decide (x.toInt = y.toInt) = (x == y) := by
    rw [Bool.eq_iff_iff]; simp [BitVec.toInt_inj]
  have e3 : decide (x.toNat ≠ y.toNat) = (x != y) := by rw [decide_not, e1]; rfl
  have e4 : decide (x.toInt ≠ y.toInt) = (x != y) := by rw [decide_not, e2]; rfl
  cases g
  · rw [intOf_unsigned, intOf_unsigned]
    rcases hc with rfl | rfl | rfl | rfl | rfl | rfl | rfl | rfl <;>
      simp only [cond, bvCond, Bool.false_eq_true, if_false, BitVec.ult_eq_decide, BitVec.ule_eq_decide, Nat.cast_inj, Nat.cast_lt, Nat.cast_le] <;>
      first | exact e1 | (simp only [ne_eq, Nat.cast_inj]; exact e3) | rfl
  · rw [intOf_signed hn, intOf_signed hn]
    rcases hc with rfl | rfl | rfl | rfl | rfl | rfl | rfl | rfl <;>
      simp only [cond, bvCond, if_true, BitVec.slt_eq_decide, BitVec.sle_eq_decide] <;>
      first | exact e2 | exact e4 | rfl

theorem scalarCond_eq (t : BitVec 2) (cnd : BitVec 3) (x y : BitVec 64) :
    cond cnd (intOf (scalarW t) (typeSigned t) (x.toNat % 2 ^ scalarW t)) (intOf (scalarW t) (typeSigned t) (y.toNat % 2 ^ scalarW t)) =
      scalarCond t cnd x y := by
  have e (n : Nat) (v : BitVec 64) : v.toNat % 2 ^ n = (v.setWidth n).toNat := by simp
  rw [e, e, bvCond_eq (by unfold scalarW; split <;> omega)]
  have ht : t = 0 ∨ t = 1 ∨ t = 2 ∨ t = 3 := by revert t; decide
  rcases ht with rfl | rfl | rfl | rfl <;> simp [scalarW, typeSigned, scalarCond]

theorem onesOf_eq (n : Nat) : ∀ v : Nat, onesOf n v = ((List.range n).filter fun i => v.testBit i).length := by
  induction n with
  | zero => intro v; rfl
  | succ n ih =>
    intro v
    rw [onesOf, ih, List.range_succ_eq_map, List.filter_cons]
    have e : ((List.map Nat.succ (List.range n)).filter fun i => v.testBit i).length = ((List.range n).filter fun i => (v / 2).testBit i).length := by
      rw [List.filter_map, List.length_map]
      congr 2
      funext i
      simp [Nat.testBit_succ]
    by_cases h : v.testBit 0 = true
    · have h' := h
      rw [Nat.testBit_zero, decide_eq_true_eq] at h'
      rw [if_pos h, List.length_cons, e]; omega
    · have h' := h
      rw [Nat.testBit_zero, decide_eq_true_eq] at h'
      rw [if_neg h, e]; omega

theorem zeros_range (v : Nat) : ∀ m, v < 2 ^ m →
    ((List.range m).reverse.takeWhile fun i => !v.testBit i).length = if v = 0 then m else m - 1 - Nat.log2 v := by
  intro m
  induction m with
  | zero => intro h; simp at h; simp [h]
  | succ m ih =>
    intro h
    rw [List.range_succ, List.reverse_append, List.reverse_singleton, List.singleton_append, List.takeWhile_cons]
    by_cases hb : v.testBit m = true
    · have hv : v ≠ 0 := by rintro rfl; simp at hb
      have h2 : 2 ^ m ≤ v := Nat.ge_two_pow_of_testBit hb
      have : Nat.log2 v = m := by
        rw [Nat.log2_eq_iff hv]; exact ⟨h2, h⟩
      simp [hb, hv, this]
    · have h2 : v < 2 ^ m := by
        by_contra hc
        apply hb
        have hd : v = 2 ^ m + (v - 2 ^ m) := by omega
        rw [hd, Nat.testBit_two_pow_add_eq]
        have : (v - 2 ^ m).testBit m = false := Nat.testBit_lt_two_pow (by rw [pow_succ] at h; omega)
        simp [this]
      simp only [Bool.not_eq_true] at hb
      rw [hb, Bool.not_false, if_pos rfl, List.length_cons, ih h2]
      by_cases hv : v = 0
      · simp [hv]
      · have h3 : Nat.log2 v < m := (Nat.log2_lt hv).2 h2
        simp only [hv, if_false]
        omega

theorem leadZeros_eq {n : Nat} (x : BitVec n) : leadZeros n x.toNat = bvZeros n x := by
  unfold leadZeros bvZeros
  rw [Nat.mod_eq_of_lt x.isLt]
  have := zeros_range x.toNat n x.isLt
  simp only [BitVec.testBit_toNat] at this
  rw [this]

theorem ofNat_toNat_32 (v : Nat) : BitVec.ofNat 32 (truncTo (vectorW 0) (v : Int)) = BitVec.ofNat 32 v := by
  show BitVec.ofNat 32 (truncTo 32 (v : Int)) = _
  rw [ofNat_truncTo, BitVec.ofInt_natCast]

theorem redLanes_eq {n : Nat} (hn : 0 < n) (g : Bool) (op : Nat) (hop : op < 4) (xs : List (BitVec n)) :
    BitVec.ofNat n (redLanes op n g (xs.map (·.toNat))) = bvReduce n g op xs := by
  have hop' : op = 0 ∨ op = 1 ∨ op = 2 ∨ op = 3 := by omega
  rcases hop' with rfl | rfl | rfl | rfl
  · simp only [redLanes, bvReduce, ofNat_truncTo]
    have : ∀ (xs : List (BitVec n)) (a : Int) (b : BitVec n), BitVec.ofInt n a = b →
        BitVec.ofInt n (((xs.map (·.toNat)).map (intOf n g)).foldl (· + ·) a) = xs.foldl (· + ·) b := by
      intro xs
      induction xs with
      | nil => intro a b h; exact h
      | cons x xs ih =>
        intro a b h
        simp only [List.map_cons, List.foldl_cons]
        apply ih
        rw [BitVec.ofInt_add, h]
        congr 1
        cases g
        · rw [intOf_unsigned]; simp
        · rw [intOf_signed hn]; simp
    exact this xs 0 0 (by simp)
  · cases xs with
    | nil => rfl
    | cons x xs =>
      simp only [redLanes, bvReduce, List.map_cons, if_true]
      have : ∀ (xs : List (BitVec n)) (a : BitVec n),
        (xs.map (·.toNat)).foldl (fun a y => if decide (intOf n g a < intOf n g y) = true then y % 2 ^ n else a) a.toNat =
          (xs.foldl (bvMax n g) a).toNat := by
        intro xs
        induction xs with
        | nil => intro a; rfl
        | cons y xs ih =>
          intro a
          simp only [List.map_cons, List.foldl_cons]
          rw [← ih]
          congr 1
          rw [Nat.mod_eq_of_lt y.isLt]
          unfold bvMax
          cases g
          · rw [intOf_unsigned, intOf_unsigned]
            simp only [BitVec.ule_eq_decide, Bool.false_eq_true, if_false, decide_eq_true_eq, Nat.cast_lt]
            by_cases h1 : a.toNat < y.toNat
            · rw [if_pos h1, if_pos (by omega)]
            · rw [if_neg h1]; split
              · have : a.toNat = y.toNat := by omega
                exact this
              · rfl
          · rw [intOf_signed hn, intOf_signed hn]
            simp only [BitVec.sle_eq_decide, if_true, decide_eq_true_eq]
            by_cases h1 : a.toInt < y.toInt
            · rw [if_pos h1, if_pos (by omega)]
            · rw [if_neg h1]; split
              · have : a.toInt = y.toInt := by omega
                rw [BitVec.toInt_inj.1 this]
              · rfl
      rw [Nat.mod_eq_of_lt x.isLt, this]
      simp
  · cases xs with
    | nil => rfl
    | cons x xs =>
      simp only [redLanes, bvReduce, List.map_cons]
      have : ∀ (xs : List (BitVec n)) (a : BitVec n),
        (xs.map (·.toNat)).foldl (fun a y => if (if 2 = 1 then decide (intOf n g a < intOf n g y) else decide (intOf n g y < intOf n g a)) = true then y % 2 ^ n else a) a.toNat =
          (xs.foldl (if 2 = 1 then bvMax n g else bvMin n g) a).toNat := by
        intro xs
        induction xs with
        | nil => intro a; rfl
        | cons y xs ih =>
          intro a
          simp only [List.map_cons, List.foldl_cons]
          rw [← ih]
          congr 1
          rw [Nat.mod_eq_of_lt y.isLt]
          simp only [show (2 : Nat) ≠ 1 by decide, if_false]
          unfold bvMin
          cases g
          · rw [intOf_unsigned, intOf_unsigned]
            simp only [BitVec.ule_eq_decide, Bool.false_eq_true, if_false, decide_eq_true_eq, Nat.cast_lt]
            by_cases h1 : y.toNat < a.toNat
            · rw [if_pos h1, if_neg (by omega)]
            · rw [if_neg h1, if_pos (by omega)]
          · rw [intOf_signed hn, intOf_signed hn]
            simp only [BitVec.sle_eq_decide, if_true, decide_eq_true_eq]
            by_cases h1 : y.toInt < a.toInt
            · rw [if_pos h1, if_neg (by omega)]
            · rw [if_neg h1, if_pos (by omega)]
      rw [Nat.mod_eq_of_lt x.isLt, this]
      simp
  · simp only [redLanes, bvReduce]
    have : ∀ (xs : List (BitVec n)) (a : BitVec n), (xs.map (·.toNat)).foldl (fun a x => a ||| (x % 2 ^ n)) a.toNat = (xs.foldl (· ||| ·) a).toNat := by
      intro xs
      induction xs with
      | nil => intro a; rfl
      | cons y xs ih =>
        intro a
        simp only [List.map_cons, List.foldl_cons]
        rw [← ih]
        congr 1
        rw [Nat.mod_eq_of_lt y.isLt, BitVec.toNat_or]
    have h0 := this xs 0
    rw [show (0 : BitVec n).toNat = 0 by simp] at h0
    rw [h0]; simp

theorem widen_lane (t : BitVec 2) (v : Nat) (y : BitVec (vectorW t)) (h : BitVec.ofNat _ v = y) :
    widen (vectorW t) (typeSigned t) v = if typeSigned t = true then y.signExtend 64 else y.setWidth 64 := by
  rw [widen_ofNat _ (vectorW_pos t), h]

end Sys2Proof.Machine
end

