-- ==== Sys2Proof/Laws/Words.lean ====
section
/-! SUPPORT. The fields of a word put together by the encoder, and of an append, for the decoder of it. -/
namespace Sys2Proof
open Sys2Proof.Machine

theorem extract_hi {m n k : Nat} (x : BitVec m) (y : BitVec n) (i : Nat) (h : n ≤ i) : (x ++ y).extractLsb' i k = x.extractLsb' (i - n) k := by
  apply BitVec.eq_of_getLsbD_eq
  intro j hj
  simp only [BitVec.getLsbD_extractLsb', BitVec.getLsbD_append, hj, decide_true, Bool.true_and]
  rw [if_neg (by omega)]
  congr 1; omega

theorem extract_lo {m n k : Nat} (x : BitVec m) (y : BitVec n) (i : Nat) (h : i + k ≤ n) : (x ++ y).extractLsb' i k = y.extractLsb' i k := by
  apply BitVec.eq_of_getLsbD_eq
  intro j hj
  simp only [BitVec.getLsbD_extractLsb', BitVec.getLsbD_append, hj, decide_true, Bool.true_and]
  rw [if_pos (by omega)]

theorem extract_all {n : Nat} (y : BitVec n) : y.extractLsb' 0 n = y := by
  apply BitVec.eq_of_getLsbD_eq
  intro j hj
  simp [hj]

theorem lsb_hi {m n : Nat} (x : BitVec m) (y : BitVec n) (i : Nat) (h : n ≤ i) : (x ++ y).getLsbD i = x.getLsbD (i - n) := by
  rw [BitVec.getLsbD_append, if_neg (by omega)]

theorem lsb_lo {m n : Nat} (x : BitVec m) (y : BitVec n) (i : Nat) (h : i < n) : (x ++ y).getLsbD i = y.getLsbD i := by
  rw [BitVec.getLsbD_append, if_pos h]

theorem rawOf_join (fmt : BitVec 3) (f : Sched) (mid : BitVec 32) (b a d opc : BitVec 8) :
    rawOf (join fmt f mid b a d opc) = { fmt := fmt, sched := f, mid := mid, b := b, a := a, d := d, opc := opc } := by
  unfold rawOf join
  congr 1
  · repeat (first | exact extract_all _ | refine (extract_hi _ _ _ (by decide)).trans ?_ | refine (extract_lo _ _ _ (by decide)).trans ?_)
  · cases f
    congr 1
    iterate 3 · repeat (first | exact extract_all _ | refine (extract_hi _ _ _ (by decide)).trans ?_ | refine (extract_lo _ _ _ (by decide)).trans ?_)
    · repeat (first | (refine (lsb_hi _ _ _ (by decide)).trans ?_) | (refine (lsb_lo _ _ _ (by decide)).trans ?_))
      rename_i y _ _
      exact (show ∀ y : Bool, (BitVec.ofBool y).getLsbD 0 = y by decide) y
    iterate 2 · repeat (first | exact extract_all _ | refine (extract_hi _ _ _ (by decide)).trans ?_ | refine (extract_lo _ _ _ (by decide)).trans ?_)
  iterate 5 · repeat (first | exact extract_all _ | refine (extract_hi _ _ _ (by decide)).trans ?_ | refine (extract_lo _ _ _ (by decide)).trans ?_)

theorem decode_join (fmt : BitVec 3) (f : Sched) (mid : BitVec 32) (b a d opc : BitVec 8) :
    decode (join fmt f mid b a d opc) = decodeRaw { fmt := fmt, sched := f, mid := mid, b := b, a := a, d := d, opc := opc } := by
  rw [decode, rawOf_join]

end Sys2Proof
end

