-- ==== Sys2Proof/Tests/Slice0.lean ====
section
/-! SUPPORT. Tests: ill-formed terms that WellFormed refuses, words and what they decode to, small effects, and for every
statement of Obligations.lean with hypotheses a state and operands that meet them. -/
set_option Elab.async false

namespace Sys2Proof.Tests
open Sys2Proof Sys2Proof.Machine

/-- Scheduling fields: STALL 1, no wait, SIG 15, guard P7. -/
def fT : Sched := { stall := 1, wait := 0, sig := 15, yld := false, reuse := 0, guard := 7 }
/-- The same guarded by P0. -/
def fOff : Sched := { fT with guard := 0 }

/-! ### WellFormed -/

theorem test_wf_nop : WellFormed (.nop fT) := (wellFormed_iff _).1 (by decide)
theorem test_wf_sig : wellFormed (.nop { fT with sig := 12 }) = false := by decide
theorem test_wf_guard : wellFormed (.nop { fT with guard := 15 }) = false := by decide
theorem test_wf_unguarded : wellFormed (.join fOff) = false := by decide
theorem test_wf_event : wellFormed (.accessPerform 16) = false := by decide
theorem test_wf_release : wellFormed (.hdlInitRelease fT 0 192 193) = false := by decide
theorem test_wf_type : wellFormed (.sshlRR fT 1 192 193 194) = false := by decide
theorem test_wf_shift : wellFormed (.sshlRI fT 2 192 193 32) = false := by decide
theorem test_wf_cond : wellFormed (.scmpRR fT 0 6 1 193 194) = false := by decide
theorem test_wf_spec : wellFormed (.vbfeRI fT 0 1 2 0x10000) = false := by decide
theorem test_wf_lane : wellFormed (.vbcastRI fT 0 1 2 32) = false := by decide
theorem test_wf_idx : wellFormed (.vshflRI fT 0 0 1 2 3) = false := by decide
theorem test_wf_scale : wellFormed (.vaddrRR fT 5 false 2 192 3) = false := by decide
theorem test_wf_mode : wellFormed (.brc fT 1 false 3 12) = false := by decide
theorem test_wf_join : wellFormed (.brd fT 1 false 0 0 12) = false := by decide
theorem test_wf_ft : wellFormed (.vfadd fT 3 0 1 2 3) = false := by decide
theorem test_wf_rm : wellFormed (.vfadd fT 0 4 1 2 3) = false := by decide
theorem test_wf_cvt : wellFormed (.cvt fT 0 31 0 false 0 1 2) = false := by decide
theorem test_wf_vpack : wellFormed (.vpack fT 0 0 false 1 4) = false := by decide
theorem test_wf_vunpack : wellFormed (.vunpack fT 8 0 0 4 1 0) = false := by decide
theorem test_wf_ty : wellFormed (.ldS fT 0 8 192 193) = false := by decide
theorem test_wf_red : wellFormed (.red fT 0 7 0 0 1 2) = false := by decide
theorem test_wf_scope : wellFormed (.atom fT 0 0 6 0 192 193 194) = false := by decide
theorem test_wf_cas : wellFormed (.cas fT 0 0 0 192 193 194) = false := by decide
theorem test_wf_sel : wellFormed (.arenaInfo fT 0 0 8 192 193) = false := by decide
theorem test_wf_counter : wellFormed (.waitc fT 12 0) = false := by decide
theorem test_wf_bar : wellFormed (.bar fT 0 17) = false := by decide
theorem test_wf_yield : wellFormed (.yield fT 0 1 0 0 0) = false := by decide
theorem test_wf_qbind : wellFormed (.qbind fT 1 false 240) = false := by decide
theorem test_wf_reduce : wellFormed (.viewDecl fT 0 31 0 0 192 193 194) = false := by decide
theorem test_wf_depth : wellFormed (.mw fT 257 192 194) = false := by decide
theorem test_wf_mq : wellFormed (.mq fT 3 false 192) = false := by decide
theorem test_wf_sysreg : wellFormed (.sysrd fT 0x0FFF 0 192) = false := by decide
theorem test_wf_halt : wellFormed (.halt fT 0 0 192) = false := by decide
theorem test_wf_uniform_destination : wellFormed (.saddRR fT 0 1 193 194) = false := by decide
theorem test_wf_uniform_source : wellFormed (.saddRR fT 0 192 240 194) = false := by decide
theorem test_wf_lane_destination : wellFormed (.vaddRR fT 0 192 1 2) = false := by decide
theorem test_wf_pair : wellFormed (.vaddRR fT 2 3 4 6) = false := by decide
theorem test_wf_predicate : wellFormed (.pand fT 8 0 1) = false := by decide
theorem test_wf_group : wellFormed (.ldVb fT 0 3 190 192) = false := by decide
theorem test_wf_port : wellFormed (.qbind fT 1 true 239) = false := by decide
theorem test_wf_address : wellFormed (.ldV fT 0 0 1 3) = false := by decide

/-! ### Words written out from the encoding tables -/

/-- A word from its three 32-bit words, the first the least significant. -/
def word3 (w0 w1 w2 : BitVec 32) : BitVec 96 := w2 ++ w1 ++ w0

theorem test_decode_nop : decode (word3 0 0 0x00800787) = .ok (.nop fT) := by decide
theorem test_decode_sadd : decode (word3 0x00C5C401 0x0000000C 0x22004942) =
    .ok (.saddRI { fT with stall := 4, wait := 9, sig := 2, yld := true, guard := 2 } 0 196 197 12) := by decide
/-- VADD.I32 V1, V2, V3: OPC 0x14, D 1, A 2, B 3. -/
theorem test_decode_vadd : decode (word3 0x03020114 0 0x00800787) = .ok (.vaddRR fT 0 1 2 3) := by decide
/-- VRED.MAX S2, V5: OPC 0x2E, D 194, A 5, OP 1 in bits 43:42. -/
theorem test_decode_vred : decode (word3 0x0005C22E 0x400 0x00800787) = .ok (.vred fT 0 1 194 5) := by decide
/-- PAND P1, P2, P3. -/
theorem test_decode_pand : decode (word3 0x03020130 0 0x00800787) = .ok (.pand fT 1 2 3) := by decide
theorem test_decode_brd : decode (word3 0x0001093A 0x00000024 0x62000787) = .ok (.brd { fT with stall := 4 } 1 false 9 0 0x24) := by decide
/-- VFADD V1, V2, V3. -/
theorem test_decode_vfadd : decode (word3 0x03020140 0 0x00800787) = .ok (.vfadd fT 0 0 1 2 3) := by decide
theorem test_decode_vpack : decode (word3 0xCA082851 0x000010CC 0x00800787) = .ok (.vpackMx8 fT false 0 0x28 0x08 0xCA 0xCC) := by decide
theorem test_decode_atom : decode (word3 0xC3C2C699 0x00008003 0x40800087) = .ok (.atom { fT with sig := 1 } 8 3 0 0 0xC6 0xC2 0xC3) := by decide
/-- ARENA.DROP S1. -/
theorem test_decode_arena : decode (word3 0x00C100A4 0 0x40800787) = .ok (.arenaDrop fT 193) := by decide
theorem test_decode_waitc : decode (word3 0x020000B0 0 0x20800787) = .ok (.waitc fT 2 0) := by decide
theorem test_decode_ms : decode (word3 0xFFCCCACB 1 0x80800887) = .ok (.ms { fT with wait := 1, sig := 1 } true 0xCA 0xCC 0xFF) := by decide
theorem test_decode_cp : decode (word3 0xD8D6D4D8 4 0x80800007) = .ok (.cp { fT with sig := 0 } 0 true 0xD4 0xD6 0xD8) := by decide
theorem test_decode_coll : decode (word3 0xD8D6D4E0 4 0x80800007) = .ok (.collAr { fT with sig := 0 } true 0 0 0xD4 0xD6 0xD8) := by decide
/-- RFT, and HALT S2 with mask 4 and limit 16: format SYS. -/
theorem test_decode_rft : decode (word3 0x000000F2 0 0xA0800787) = .ok (.rft fT) := by decide
theorem test_decode_halt : decode (word3 0x0000C2F6 0x1004 0xA0800787) = .ok (.halt fT 4 16 194) := by decide
/-- A format of 6 or 7 fails check 1, an SIG of 12 check 2, opcode 0x2F check 3, NOP in format RI check 4. -/
theorem test_decode_checks : decode (word3 0 0 0xC0800787) = .error 1 ∧ decode (word3 0 0 0x00800607) = .error 2 ∧
    decode (word3 0x2F 0 0x00800787) = .error 3 ∧ decode (word3 0 0 0x20800787) = .error 4 ∧ decode (word3 0 1 0x00800787) = .error 5 ∧
    decode (word3 0x08020130 0 0x00800787) = .error 6 ∧ decode (word3 0 0 0x0080078F) = .error 7 := by decide

/-! ### Small states -/

/-- A compute wave of block 1 on core 0. -/
def tw : Wave := { Wave.launch with block := 1, ctx := 1, pca := { Wave.launch.pca with pc := 1200 } }
/-- Its block. -/
def tb : Block :=
  { core := 0, slots := [0], node := 1, task := 1, seq := 0, ctx := 1, nwaves := 1, scratchWin := 2, scratchBase := 0x20000, bars := [], fifos := [], binds := []
    mpush := [], refill := [], hurdles := [], hurdleMax := 1, arrayBase := 0, arrayCount := 0, halt := none, haltClk := 0, haltForm := false
    haltDraw := 0, primary := none, halted := false, stopping := false, wdog := 0, bark := false, vacating := false, away := false, ept := 0
    tender := none }
/-- A state in which a wave 16 of that block has its turn. -/
def us (x : Wave) : State := { State.reset with waves := kset State.reset.waves 16 x, blocks := [(1, tb)], turn := some (16, false) }
/-- The live wave of control core 0. -/
def cw : Wave := { Wave.control 0 with pca := { Path.dead with live := true, mask := 1, pc := 1200 } }
/-- A state in which it has its turn. -/
def cs (x : Wave) : State := { State.reset with waves := kset State.reset.waves 0 x, turn := some (0, false) }
/-- What a wave holds after an instruction on it; the launch wave where none comes. -/
def after (i : Instr) (x : Wave) : Wave := match exec i (us x) with
  | .next t => t.wave 16
  | _ => Wave.launch
/-- S register n. -/
def sReg (x : Wave) (n : Nat) : BitVec 64 := dget 0 x.s n

theorem turn_us : Turn (us tw) 16 false tw := ⟨rfl, rfl, rfl⟩
theorem act_us : activeAt (us tw) 16 false fT ≠ 0 := by decide +kernel
theorem off_us : activeAt (us tw) 16 false fOff = 0 := by decide +kernel
theorem turn_cs : Turn (cs cw) 0 false cw := ⟨rfl, rfl, rfl⟩
theorem act_cs : activeAt (cs cw) 0 false fT ≠ 0 := by decide +kernel
theorem off_cs : activeAt (cs cw) 0 false fOff = 0 := by decide +kernel

/-! ### Effects, from the worked values of the rules -/

/-- R65: SDIV.N32 by zero gives 0x0000_0000_FFFF_FFFF. -/
theorem test_sdiv_zero : sReg (after (.sdivRI fT 3 192 193 0) tw) 192 = 0xFFFFFFFF := by decide +kernel
/-- R65: the most negative value divided by -1 gives itself. -/
theorem test_sdiv_least : sReg (after (.sdivRI fT 0 192 193 0xFFFFFFFF) { tw with s := [(193, 0x8000000000000000)] }) 192 = 0x8000000000000000 := by
  decide +kernel
/-- R66: SLIH after SLIL builds a 64-bit constant. -/
theorem test_slih : sReg (after (.slih fT 192 192 0x12345678) { tw with s := [(192, 0x9ABCDEF0)] }) 192 = 0x123456789ABCDEF0 := by decide +kernel
/-- R68: VABS of the most negative value returns it unchanged. -/
theorem test_vabs : dget 0 (after (.vabs fT 0 1 2) { tw with v := [(64, 0x80000000)] }).v 32 = 0x80000000 := by decide +kernel
/-- R72: the sum of the lane numbers 0 to 31. -/
theorem test_vred : sReg (after (.vred fT 0 0 192 248) tw) 192 = 496 := by decide +kernel
/-- R73: PXOR P1, P1, P1 clears the active bits. -/
theorem test_pxor : (after (.pxor fT 1 1 1) { tw with p := [(1, 0xF0F0)] }).pred 1 = 0 := by decide +kernel
/-- R75: LOOP entered with 0 wraps to all ones and branches. -/
theorem test_loop : sReg (after (.loop fT 192 24) tw) 192 = BitVec.allOnes 64 ∧ (after (.loop fT 192 24) tw).pca.pc = 1224 := by decide +kernel
/-- R16: a BRC that would not be taken raises ALIGN for a misplaced target: the block is asked to halt. -/
theorem test_brc_align : (match exec (.brc fT 0 false 0 5) (us tw) with
  | .next t => (t.wave 16).trap.map (·.code)
  | _ => none) = some 3 := by decide +kernel
/-- R95: SEED of zero sets the LFSR to 1 and returns the old value. -/
theorem test_seed : (after (.seedRI fT 192 0) { tw with lfsr := 77 }).lfsr = 1 ∧ sReg (after (.seedRI fT 192 0) { tw with lfsr := 77 }) 192 = 77 := by
  decide +kernel
/-- R84: 1.0 + 1.0 is 2.0 in F32. -/
theorem test_vfadd : dget 0 (after (.vfadd fT 0 0 1 2 2) { tw with v := [(64, 0x3F800000)] }).v 32 = 0x40000000 := by decide +kernel
/-- Table 4.3: VEXP2 of 3.0 is 8.0. -/
theorem test_vexp2 : dget 0 (after (.vexp2 fT 1 2) { tw with v := [(64, 0x40400000)] }).v 32 = 0x41000000 := by decide +kernel
/-- R293: a trap of a control core enters TVEC. -/
theorem test_trap_control : (match exec (.trap fT 5 192 193 194) { cs cw with ctl := [(0, { CtlRegs.zero with tvec := 2400 })] } with
  | .next t => ((t.wave 0).pca.pc, (t.ctlRegs 0).tcause, (t.ctlRegs 0).tepc)
  | _ => (0, 0, 0)) = (2400, 0x80000005, 1212) := by decide +kernel
/-- R331: SLOTTAB after reset. -/
theorem test_slots : State.reset.slotTab.length = 64 := by decide
/-- The first step after reset with a word placed runs the word. -/
theorem test_fetch : (match step (State.reset.withFetchWord 96 0x8007870000000000000000) with
  | .next t => (t.wave 16).pca.pc
  | _ => 0) = placePc + 12 := by decide +kernel

/-! ### Witnesses: states and operands that meet the hypotheses of each statement -/

/-- A path has its turn, and the instruction's active set is not empty. -/
abbrev Ready (s : State) (w : Nat) (pcb : Bool) (x : Wave) (f : Sched) : Prop := Turn s w pcb x ∧ activeAt s w pcb f ≠ 0
theorem ready_us : Ready (us tw) 16 false tw fT := ⟨turn_us, act_us⟩
theorem ready_cs : Ready (cs cw) 0 false cw fT := ⟨turn_cs, act_cs⟩

theorem witness_ScalarResults : Ready (us tw) 16 false tw fT := ready_us
theorem witness_VectorArithmetic : Ready (us tw) 16 false tw fT := ready_us
theorem witness_VectorBits : Ready (us tw) 16 false tw fT := ready_us
theorem witness_SelectCompare : Ready (us tw) 16 false tw fT := ready_us
theorem witness_VectorCountAddress : Ready (us tw) 16 false tw fT := ready_us
theorem witness_LaneResults : Ready (us tw) 16 false tw fT ∧ (3#2) ≠ 0 := ⟨ready_us, by decide⟩
theorem witness_PredicateResults : Ready (us tw) 16 false tw fT ∧ (fT.sig.toNat < 12 ∨ fT.sig = 15) ∧ (1#32) ≠ 0 ∧ 8 ≤ (8#8).toNat ∧
    uSrc 191 = false := ⟨ready_us, by decide⟩
theorem witness_NothingWhenGuardedOff : (Turn (us tw) 16 false tw ∧ activeAt (us tw) 16 false fOff = 0) ∧
    Turn (cs cw) 0 false cw ∧ activeAt (cs cw) 0 false fOff = 0 ∧ cw.super = true := ⟨⟨turn_us, off_us⟩, turn_cs, off_cs, rfl⟩
theorem witness_FloatResults : Ready (us tw) 16 false tw fT := ready_us
theorem witness_FloatCompareResult : Ready (us tw) 16 false tw fT ∧ 8 ≤ (8#8).toNat ∧ fT.sig = 15 := ⟨ready_us, by decide⟩
theorem witness_TranscendentalResults : Ready (us tw) 16 false tw fT := ready_us
theorem witness_ConvertResult : Ready (us tw) 16 false tw fT ∧ fmtWidth 0 ≠ 64 ∧ fmtWidth 12 = 64 := ⟨ready_us, by decide⟩
theorem witness_PackResult : Ready (us tw) 16 false tw fT := ready_us
theorem witness_SeedResult : Ready (us tw) 16 false tw fT := ready_us
theorem witness_PackBlocksResult : Ready (us tw) 16 false tw fT := ready_us
/-- The last group of eight registers ends at V191. -/
theorem witness_UnpackResult : Ready (us tw) 16 false tw fT ∧ (184#8).toNat + vunpackN 0x11 ≤ 192 := ⟨ready_us, by decide⟩
theorem witness_BranchResults : Ready (us tw) 16 false tw fT ∧ ((tw.path false).pc + (24#32).signExtend 56).toNat % 12 = 0 ∧
    ((readAt (us tw) 16 fT 192).setWidth 56 : Addr).toNat % 12 = 0 ∧ ((tw.path false).pc + (5#32).signExtend 56).toNat % 12 ≠ 0 :=
  ⟨ready_us, by decide, by decide +kernel, by decide⟩
theorem witness_BranchResults_ret : Ready (us { tw with s := [(192, 5)] }) 16 false { tw with s := [(192, 5)] } fT ∧
    ((readAt (us { tw with s := [(192, 5)] }) 16 fT 192).setWidth 56 : Addr).toNat % 12 ≠ 0 :=
  ⟨⟨⟨rfl, rfl, rfl⟩, by decide +kernel⟩, by decide +kernel⟩

/-- The lanes of a BRD that take its target and that do not, and the records that the spill would leave. -/
def halves (s : State) (w : Nat) (x : Wave) (n : BitVec 3) : BitVec 32 × BitVec 32 × Nat :=
  (x.pca.mask &&& predAt s w fT n false, x.pca.mask &&& ~~~(predAt s w fT n false),
    ((match x.pca.join with | some j => [DivRec.frame 1212 j] | none => []) ++ (if x.pcb.live then [DivRec.path x.pcb] else []) ++ x.stack).length)
/-- Sixteen records. -/
def full : List DivRec := List.replicate 16 (.frame 12 24)
theorem witness_SplitResult_turn : Ready (us tw) 16 false tw fT ∧ ((tw.path false).pc + (5#32).signExtend 56).toNat % 12 ≠ 0 ∧
    ((tw.path false).pc + (24#32).signExtend 56).toNat % 12 = 0 ∧ (halves (us tw) 16 tw 0).1 = 0 := ⟨ready_us, by decide, by decide, by decide +kernel⟩
theorem witness_SplitResult_control : Ready (cs cw) 0 false cw fT ∧ cw.super = true ∧ (cw.path false).mask = 1 := ⟨ready_cs, rfl, rfl⟩
theorem witness_SplitResult_all : Ready (us tw) 16 false tw fT ∧ (halves (us tw) 16 tw 7).1 ≠ 0 ∧ (halves (us tw) 16 tw 7).2.1 = 0 :=
  ⟨ready_us, by decide +kernel⟩
/-- A wave whose P0 holds in lane 0 alone, with a full stack. -/
def sw : Wave := { tw with p := [(0, 1)], stack := full }
theorem witness_SplitResult_split : Ready (us sw) 16 false sw fT ∧ (halves (us sw) 16 sw 0).1 ≠ 0 ∧ (halves (us sw) 16 sw 0).2.1 ≠ 0 ∧
    (halves (us sw) 16 sw 0).2.2 ≤ 16 := ⟨⟨⟨rfl, rfl, rfl⟩, by decide +kernel⟩, by decide +kernel⟩
/-- The same with a join to push. -/
def sj : Wave := { sw with pca := { sw.pca with join := some 24 } }
theorem witness_SplitResult_deep : Ready (us sj) 16 false sj fT ∧ (halves (us sj) 16 sj 0).1 ≠ 0 ∧ (halves (us sj) 16 sj 0).2.1 ≠ 0 ∧
    16 < (halves (us sj) 16 sj 0).2.2 := ⟨⟨⟨rfl, rfl, rfl⟩, by decide +kernel⟩, by decide +kernel⟩
/-- A wave at its join. -/
def jw : Wave := { tw with pca := { tw.pca with join := some 1200 } }
/-- The same with a sibling elsewhere. -/
def jo : Wave := { jw with pcb := { jw.pca with pc := 2400 } }
theorem witness_JoinResult : Ready (us tw) 16 false tw fT ∧ (tw.path false).join ≠ some (tw.path false).pc ∧ Ready (us jw) 16 false jw fT ∧
    (jw.path false).join = some (jw.path false).pc := ⟨ready_us, by decide, ⟨⟨rfl, rfl, rfl⟩, by decide +kernel⟩, by decide⟩
theorem witness_JoinResult_wait : Ready (us jo) 16 false jo fT ∧ (jo.path false).join = some (jo.path false).pc ∧ (jo.path true).live = true ∧
    (jo.path true).standing ≠ (jo.path false).pc := ⟨⟨⟨rfl, rfl, rfl⟩, by decide +kernel⟩, by decide⟩
theorem witness_ExitResult : Ready (us tw) 16 false tw fT := ready_us
/-- A wave with a record on top of its stack. -/
def rw_ (r : DivRec) : Wave := { tw with stack := [r] }
theorem witness_RefillRules : (rw_ (.path sj.pca)).refill.stack = [.path sj.pca] ∧ (rw_ (.frame 12 24)).refill.stack = [.frame 12 24] ∧
    jo.pca.live = true ∧ jo.pcb.live = true := by decide

/-- A live root window of 64 KiB of HBM at 0x10000. -/
def hbm : Win :=
  { gen := 0, state := .live, base := 0x10000, size := 0x10000, attr := 0, rd := true, wr := true, inst := 0, parent := 0, buffer := false, root := true
    sroot := 0, nwaves := 0, lost := false }
/-- Leaves that mark the granules of addresses, each in a context, for a window (R205). -/
def marks (es : List (Nat × Nat × Nat)) : Tbl (BitVec 64) :=
  es.foldl (fun t e => dset 0 t (leafSlot e.1 e.2.1) (leafWord e.2.2 true true)) []
/-- The SCRATCH window of the block at 0x20000. -/
def scr : Win := { hbm with base := 0x20000, size := 49152, attr := 384, root := false, sroot := 2, nwaves := 1 }
/-- A wave with addresses, lengths and a handle in S0 to S6, and a target and its pitch in S10 and S11. -/
def mw : Wave := { tw with s := [(192, 0x10000), (193, 0x20000), (194, 128), (195, 5), (196, 256), (197, 1), (198, 0x40000000), (202, 0x10000), (203, 4)] }
/-- A state with both windows in context 1 and the first in context 0. -/
def ms (x : Wave) : State :=
  { us x with
    wins := [(winKey 0 false 1, hbm), (winKey 1 false 1, hbm), (winKey 1 false 2, scr)]
    leaves := marks [(0, 0x10000, winKey 0 false 1), (1, 0x10000, winKey 1 false 1), (1, 0x20000, winKey 1 false 2)] }
theorem ready_ms : Ready (ms mw) 16 false mw fT := ⟨⟨rfl, rfl, rfl⟩, by decide +kernel⟩
/-- The access forms of that wave. -/
def forms (off : BitVec 20) (a b : Reg) : List AccessForm :=
  let r := (ms mw).atIssue 16 fT
  let act := activeAt (ms mw) 16 false fT
  loadStoreForms r (r.wave 16) act fT off 0 0 1 a b ++ otherForms r (r.wave 16) act fT off 0 0 0 0 1 a b
/-- Does the check of its ranges pass? -/
def checks (e : AccessForm) : Bool := match (ms mw).checkAll mw e.align e.rd e.wr (e.ranges ++ e.second) with
  | .ok _ => true
  | .error _ => false
theorem witness_AccessIssue : Ready (ms mw) 16 false mw fT ∧ ((forms 4 192 194).any fun e => e.bad.isSome) = true ∧
    ((forms 0 200 194).any fun e => e.bad.isNone && !checks e) = true ∧ ((forms 0 192 194).all fun e => e.bad.isSome || checks e) = true ∧
    ((forms 0 192 194).filter fun e => e.bad.isNone && checks e).length = 17 ∧
    ((forms 0 192 202).any fun e => !e.second.isEmpty && e.bad.isNone && checks e) = true := ⟨ready_ms, by decide +kernel⟩
/-- The address of a view, its length, and the length up to the end of its arena. -/
def viewCut (a b : Reg) : Nat × Nat × Nat :=
  let r := (ms mw).atIssue 16 fT
  let e := r.ea (r.wave 16) a 0 0
  let len := (readAt (ms mw) 16 fT b).toNat
  (e, len, match r.cover mw.ctx e with
    | some (_, k) => min len (k.base + k.size - e)
    | none => len)
/-- Does the check of its range pass? -/
def viewOk (a b : Reg) : Bool :=
  (((ms mw).atIssue 16 fT).checkRange mw.who (viewCut a b).1 (viewCut a b).2.2 128 true true).toOption.isSome
theorem witness_AccessIssue_view : viewCut 192 198 = (0x10000, 2 ^ 30, 65536) ∧ viewOk 192 198 = true ∧ viewCut 192 194 = (0x10000, 128, 128) ∧
    viewOk 192 194 = true ∧ (viewCut 192 195).2.1 = 5 ∧ viewCut 200 194 = (0, 128, 128) ∧ viewOk 200 194 = false := by decide +kernel
theorem witness_FreeIssue : Ready (ms mw) 16 false mw fT ∧
    (let r := (ms mw).atIssue 16 fT
     let fs := freeForms r (r.wave 16) (activeAt (ms mw) 16 false fT) fT 0 1 0 0 0 200 197 194
     (fs.any fun e => e.trap.isSome) = true ∧ (fs.any fun e => e.trap.isNone) = true) := ⟨ready_ms, by decide +kernel⟩
/-- The control core's wave with a value in S0 and one in S1. -/
def cv (a b : BitVec 64) : Wave := { cw with s := [(192, a), (193, b)] }
/-- A state with its turn and a window in context 0. -/
def vs (a b : BitVec 64) : State :=
  { cs (cv a b) with wins := [(winKey 0 false 1, hbm)], leaves := marks [(0, 0x10000, winKey 0 false 1)] }
/-- SNAP's list check there. -/
def listOk (a b : BitVec 64) : Bool := match (vs a b).checkAll (cv a b) 8 true false [mkReq 0 0 a.toNat (8 * b.toNat + 32) 0] with
  | .ok _ => true
  | .error _ => false
theorem witness_SystemIssue : Ready (vs 0x10000 1) 0 false (cv 0x10000 1) fT ∧ (cv 0x10000 1).super = true ∧
    (let r := (vs 0x10000 1).atIssue 0 fT
     let fs := systemForms r (r.wave 0) (activeAt (vs 0x10000 1) 0 false fT) fT 0x0202 0 0 false 0 192 192 193
     (fs.any fun e => e.trap.isSome) = true ∧ (fs.any fun e => e.trap.isNone) = true) ∧
    (readAt (vs 0x10000 1) 0 fT 192).toNat % 8 = 0 ∧ (readAt (vs 0x10000 1) 0 fT 193).toNat = 1 ∧ listOk 0x10000 1 = true ∧ listOk 0x10000 256 = true ∧
    listOk 0 256 = false := ⟨⟨⟨rfl, rfl, rfl⟩, by decide +kernel⟩, rfl, by decide +kernel⟩
theorem witness_SystemIssue_count : Ready (vs 8 0) 0 false (cv 8 0) fT ∧ (readAt (vs 8 0) 0 fT 192).toNat % 8 = 0 ∧ (readAt (vs 8 0) 0 fT 193).toNat < 1 ∧
    Ready (vs 8 257) 0 false (cv 8 257) fT ∧ 256 < (readAt (vs 8 257) 0 fT 193).toNat :=
  ⟨⟨⟨rfl, rfl, rfl⟩, by decide +kernel⟩, by decide +kernel, by decide +kernel, ⟨⟨rfl, rfl, rfl⟩, by decide +kernel⟩, by decide +kernel⟩
theorem witness_SystemIssue_align : Ready (vs 7 1) 0 false (cv 7 1) fT ∧ (readAt (vs 7 1) 0 fT 192).toNat % 8 ≠ 0 :=
  ⟨⟨⟨rfl, rfl, rfl⟩, by decide +kernel⟩, by decide +kernel⟩
theorem witness_SystemIssue_user : Turn (us tw) 16 false tw ∧ tw.super = false := ⟨turn_us, rfl⟩
theorem witness_CommandIssue : Ready (us { tw with role := .matrix }) 16 false { tw with role := .matrix } fT ∧
    ((commandForms fT 1 false false false 0 0 0 0 0 192 192 192).map (·.2.1)).contains Role.matrix = true ∧
    ((commandForms fT 1 false false false 0 0 0 0 0 192 192 192).map (·.2.1)).contains Role.copy = true :=
  ⟨⟨⟨rfl, rfl, rfl⟩, by decide +kernel⟩, by decide⟩
theorem witness_HoldingInstructions : Ready (cs cw) 0 false cw fT ∧ cw.super = true ∧ (0#2) ≠ 2 ∧ Ready (ms mw) 16 false mw fT ∧
    (let r := (ms mw).atIssue 16 fT
     r.hurdleCheck (r.wave 16) true false (readAt (ms mw) 16 fT 193).toNat = none ∧
     r.hurdleCheck (r.wave 16) true false (readAt (ms mw) 16 fT 192).toNat = some 4) := ⟨ready_cs, rfl, by decide, ready_ms, by decide +kernel⟩
/-- A wave with one outstanding increment in C2 and an error in C3. -/
def kw : Wave :=
  { tw with ctrs := [(2, { Ctr.zero with toks := [{ uid := 9, done := false, err := 0, info := 0, pts := 0, due := none }] }),
    (3, { Ctr.zero with err := true, reason := 5 })] }
/-- The state after an instruction. -/
def next (i : Instr) (s : State) : State := match exec i s with
  | .next t => t
  | _ => s
theorem witness_CounterWaits : Ready (us kw) 16 false kw fT ∧ kw.park = none ∧ kw.stopped = false ∧
    (let u := next (.waitc fT 2 0) (us kw)
     0 < ((u.wave 16).ctr 2).count ∧ ((u.wave 16).ctr 2).count ≤ 1 ∧ ((u.wave 16).ctr 2).err = false) ∧
    (((us kw).wave 16).ctr 3).count ≤ 0 ∧ (((us kw).wave 16).ctr 3).err = true :=
  ⟨⟨⟨rfl, rfl, rfl⟩, by decide +kernel⟩, rfl, rfl, by decide +kernel⟩
/-- A wave whose W0 is armed and W1 has fired. -/
def ww : Wave := { tw with watches := [(0, { armed := true, fired := false, line := 5 }), (1, { armed := true, fired := true, line := 6 })] }
theorem witness_WatchWaits : Ready (us ww) 16 false ww fT ∧ ww.park = none ∧ ww.stopped = false ∧ ww.readyWatches 1 = 0 ∧ ww.readyWatches 2 ≠ 0 ∧
    ww.readyWatches 0 = 0 := ⟨⟨⟨rfl, rfl, rfl⟩, by decide +kernel⟩, rfl, rfl, by decide⟩
theorem witness_BarrierArrival : Ready (us tw) 16 false tw fT ∧ tw.park = none ∧ tw.stopped = false ∧ kget (us tw).blocks tw.block = some tb ∧
    ((us tw).liveWaves tw.block).length = 1 ∧ (tb.bar 3).arrivals + 1 < (16#5).toNat ∧ (1#5).toNat ≤ (tb.bar 3).arrivals + 1 :=
  ⟨ready_us, rfl, rfl, rfl, by decide +kernel⟩
theorem witness_HurdleIssue : Ready (ms mw) 16 false mw fT ∧
    (let r := (ms mw).atIssue 16 fT
     r.hurdleCheck (r.wave 16) true true (r.ea (r.wave 16) 192 0 0) = some 4 ∧ r.hurdleCheck (r.wave 16) true true (r.ea (r.wave 16) 193 0 0) = none ∧
     (match (ms mw).checkAll mw 16 true true [mkReq 0 0 (r.ea (r.wave 16) 193 0 0) 16 0] with
      | .ok _ => true
      | .error _ => false) = true) := ⟨ready_ms, by decide +kernel⟩
theorem witness_QbindResult : Ready (us tw) 16 false tw fT ∧ kget (us tw).blocks tw.block = some tb := ⟨ready_us, rfl⟩
theorem witness_ServiceTrap : Ready (us tw) 16 false tw fT ∧ tw.super = false := ⟨ready_us, rfl⟩
theorem witness_ControlCoreTraps : Ready (cs cw) 0 false cw fT ∧ cw.super = true ∧ ((cs cw).ctlRegs 0).tcause.getLsbD 31 = false ∧
    kget (cs cw).waves 0 = some cw ∧ (Trap.of 18 1).code < 256 ∧ (Trap.of 18 1).va < 2 ^ 56 := ⟨ready_cs, rfl, by decide⟩
/-- Control core 0 in a trap. -/
def inTrap : State := { cs cw with ctl := [(0, { CtlRegs.zero with tcause := 0x80000000 })] }
theorem witness_ControlCoreTraps_again : Ready inTrap 0 false cw fT ∧ (inTrap.ctlRegs 0).tcause.getLsbD 31 = true :=
  ⟨⟨⟨rfl, rfl, rfl⟩, by decide +kernel⟩, by decide⟩
theorem witness_ReturnFromTrap : Ready (cs cw) 0 false cw fT ∧ cw.super = true := ⟨ready_cs, rfl⟩
/-- The state with the block already stopping. -/
def stopping : State := { us tw with blocks := [(1, { tb with stopping := true })] }
theorem witness_HaltRequest : Ready (us tw) 16 false tw fT ∧ tw.super = false ∧ kget (us tw).waves 16 = some tw ∧
    kget (us tw).blocks tw.block = some tb ∧ tb.stopping = false ∧ kget stopping.waves 16 = some tw ∧
    (kget stopping.blocks tw.block).map (·.stopping) = some true := ⟨ready_us, rfl, by decide⟩
/-- A wave with a length in S1. -/
def lw (n : BitVec 64) : Wave := { tw with s := [(193, n)] }
theorem witness_PrefetchResult : Ready (us tw) 16 false tw fT ∧ ¬(1 ≤ (readAt (us tw) 16 fT 193).toNat) ∧
    Ready (us (lw 65536)) 16 false (lw 65536) fT ∧ (readAt (us (lw 65536)) 16 fT 193).toNat = 65536 ∧
    ¬((readAt (us (lw 65537)) 16 fT 193).toNat ≤ 65536) ∧ (∀ die, ((us tw).sysReg 0x0120 die).toNat % 2 ^ 32 = 0) ∧
    ∀ q, (((us tw).lines.filter fun e => e.2.slice == q).length + 513 ≤ sliceLines) :=
  ⟨ready_us, by decide +kernel, ⟨⟨rfl, rfl, rfl⟩, by decide +kernel⟩, by decide +kernel, by decide +kernel, fun die => by
    unfold State.sysReg us
    simp [State.reset, kget, sysReset], fun _ => by simp [us, State.reset, sliceLines]⟩

/-! ### Witnesses for what performs and for the events -/

/-- An access of a wave that has issued. -/
def ac (op : AccOp) (rs : List Req) : Acc :=
  { uid := 3, nth := 1, pc := 1188, pcb := false, mask := 1, uni := true, ctl := (tw.pca, tw.pcb, []), half := 0, op := op, reqs := rs, second := []
    got := [], reply := none, wait := false, acks := none, fifo := none }
/-- The wave with it. -/
def pw (a : Acc) : Wave := { tw with pend := [a], issued := 1 }
/-- A present line, dirty. -/
def ln : Line :=
  { data := List.replicate 128 7, dirty := true, pinned := false, wts := 2, rts := 3, sharers := [], owner := none, slice := 0, poison := []
    halves := (0, 0) }
/-- The last eight bytes of that line in the window at 0x10000. -/
def rq : Req := { mkReq 0 0 0x10078 8 5 with win := winKey 1 false 1 }
/-- The line's tag. -/
def key1 : Nat := lineTag rq.win rq.gen rq.va
/-- The state with the access at its head and the line present. -/
def ls (op : AccOp) : State := { ms (pw (ac op [rq])) with lines := [(key1, ln)] }
/-- Where no command is, none has bytes to post. -/
theorem no_posts {s : State} {w : Nat} {a : Acc} (h : s.cmds = []) : s.awaitsPost w a = false := by
  unfold State.awaitsPost; rw [h]; simp
theorem head_ls (op : AccOp) : AtHead (ls op) 16 (pw (ac op [rq])) (ac op [rq]) [] := ⟨rfl, rfl, rfl, rfl, rfl, rfl, no_posts rfl⟩
theorem line_there : kget [(key1, ln)] key1 = some ln := by simp [kget]
/-- Nothing holds the line. -/
def quiet (op : AccOp) : Prop := (ls op).mergeHolds rq.win (rq.va / 128 * 128) = false ∧ (ls op).migrating rq.win rq.va = false ∧
  (ls op).frozenAt rq.win rq.gen rq.va true = false ∧ (ls op).frozenAt rq.win rq.gen rq.va false = false ∧ (ls op).hostConflict hbm ((ls op).locOf rq) true = false ∧
  (ls op).hostConflict hbm ((ls op).locOf rq) false = false ∧ (ls op).lostAt 1 rq.va = false
theorem ready_line (op : AccOp) (wr : Bool) (h : quiet op) : LineReady (ls op) 1 rq hbm ln wr :=
  ⟨rfl, by decide, .inl rfl, rfl, rfl, h.2.2.2.2.2.2, by decide, by decide, by decide, line_there, fun _ => rfl, rfl, h.1, h.2.1, by
    cases wr
    · exact h.2.2.2.1
    · exact h.2.2.1, by
    cases wr
    · exact h.2.2.2.2.2.1
    · exact h.2.2.2.2.1⟩
theorem quiet_load : quiet (.loadS 192 false) := by unfold quiet; decide +kernel
theorem quiet_store : quiet .store := by unfold quiet; decide +kernel
theorem quiet_atom : quiet (.atom 8 0 0 192 true) := by unfold quiet; decide +kernel
theorem quiet_cas : quiet (.cas 8 0 192 true) := by unfold quiet; decide +kernel
theorem quiet_watch : quiet (.watch 3 192) := by unfold quiet; decide +kernel
theorem quiet_pin : quiet (.pin 192 128) := by unfold quiet; decide +kernel
theorem quiet_unpin : quiet (.unpin 192 128) := by unfold quiet; decide +kernel
theorem quiet_wbr : quiet (.wbr 128) := by unfold quiet; decide +kernel
theorem quiet_red : quiet (.red 8 0 0) := by unfold quiet; decide +kernel
theorem witness_LineAccesses : rq.va % 128 + rq.len = 128 ∧ rq.lane = 0 ∧ rq.idx = 0 ∧
    (AtHead (ls (.loadS 192 false)) 16 (pw (ac (.loadS 192 false) [rq])) (ac (.loadS 192 false) [rq]) [] ∧
      (pw (ac (.loadS 192 false) [rq])).ctx = 1 ∧ LineReady (ls (.loadS 192 false)) 1 rq hbm ln false ∧
      kget (ls (.loadS 192 false)).l1 (l1Key 0 key1) = none) ∧
    (AtHead (ls .store) 16 (pw (ac .store [rq])) (ac .store [rq]) [] ∧ LineReady (ls .store) 1 rq hbm ln true) ∧
    (∀ op, (op = .red 8 0 0 ∨ op = .atom 8 0 0 192 true ∨ op = .cas 8 0 192 true) →
      AtHead (ls op) 16 (pw (ac op [rq])) (ac op [rq]) [] ∧ LineReady (ls op) 1 rq hbm ln true) ∧
    (∀ op, (op = .watch 3 192 ∨ op = .pin 192 128 ∨ op = .unpin 192 128 ∨ op = .wbr 128) →
      AtHead (ls op) 16 (pw (ac op [rq])) (ac op [rq]) [] ∧ LineReady (ls op) 1 rq hbm ln false) :=
  ⟨by decide, rfl, rfl, ⟨head_ls _, rfl, ready_line _ _ quiet_load, rfl⟩, ⟨head_ls _, ready_line _ _ quiet_store⟩, by
    rintro _ (rfl | rfl | rfl)
    · exact ⟨head_ls _, ready_line _ _ quiet_red⟩
    · exact ⟨head_ls _, ready_line _ _ quiet_atom⟩
    · exact ⟨head_ls _, ready_line _ _ quiet_cas⟩, by
    rintro _ (rfl | rfl | rfl | rfl)
    · exact ⟨head_ls _, ready_line _ _ quiet_watch⟩
    · exact ⟨head_ls _, ready_line _ _ quiet_pin⟩
    · exact ⟨head_ls _, ready_line _ _ quiet_unpin⟩
    · exact ⟨head_ls _, ready_line _ _ quiet_wbr⟩⟩
/-- WBR of that line, dirty and whose leaf allows writes, and of a clean one. -/
theorem witness_LineAccesses_wbr : (ls (.wbr 128)).deadTag key1 = false ∧ ln.dirty = true ∧
    ({ ls (.wbr 128) with lines := [(key1, { ln with dirty := false })] } : State).deadTag key1 = false := by decide +kernel
/-- A range of the block's SCRATCH window. -/
def sq : Req := { mkReq 31 0 0x20000 4 9 with win := winKey 1 false 2 }
/-- A per-lane load or a store of it at the head. -/
def ss (op : AccOp) : State := ms (pw (ac op [sq]))
theorem zero_desc (op : AccOp) (sp : Nat) : ((ss op).sysReg 0x0102 sp).toNat % 8 = 0 := by
  unfold State.sysReg ss ms us
  simp [State.reset, kget, sysReset]
theorem scratch_ready (op : AccOp) (h : (ss op).lostAt 1 sq.va = false ∧ 2 ^ 40 ≤ (ss op).scratchByte sq.win sq.va) : ScratchReady (ss op) 1 sq :=
  ⟨by decide, h.1, ⟨scr, rfl, by decide, .inl rfl, rfl, rfl, by decide⟩, rfl, rfl, h.2⟩
theorem witness_ScratchAccesses : AtHead (ss .store) 16 (pw (ac .store [sq])) (ac .store [sq]) [] ∧ ScratchReady (ss .store) 1 sq ∧
    AtHead (ss (.loadV 191 4 false false)) 16 (pw (ac (.loadV 191 4 false false) [sq])) (ac (.loadV 191 4 false false) [sq]) [] ∧
    ScratchReady (ss (.loadV 191 4 false false)) 1 sq ∧ isV 191 = true ∧ sq.idx = 0 ∧ sq.len = 4 ∧ sq.lane < 32 ∧
    (∀ sp, ((ss .store).sysReg 0x0102 sp).toNat % 8 = 0) :=
  ⟨⟨rfl, rfl, rfl, rfl, rfl, rfl, rfl⟩, scratch_ready _ (by decide +kernel), ⟨rfl, rfl, rfl, rfl, rfl, rfl, rfl⟩, scratch_ready _ (by decide +kernel), by decide,
    rfl, rfl, by decide, zero_desc _⟩
/-- A load whose fault comes back. -/
def fa (code : Nat) : Acc := { ac (.loadS 192 false) [rq] with reply := some { code := code, va := 0x10078, mask := 1, info := 0 } }
theorem witness_FaultReplies : kget (ms (pw (fa 7))).waves 16 = some (pw (fa 7)) ∧ (16 : Nat) < 2 ^ 32 ∧ (pw (fa 7)).pend = [fa 7] ∧ 7 ∉ [8, 9, 10] ∧
    (pw (fa 10)).super = false ∧ 10 ∈ [8, 9, 10] := ⟨rfl, by decide, rfl, by decide, rfl, by decide⟩
/-- A store to a SYNC line with one acknowledgement outstanding. -/
def sa : Acc := { ac .store [rq] with acks := some ([3], []) }
/-- A wave at time 50 with a load whose L1 copy has expired. -/
def ew : Wave := { pw (ac (.loadS 192 false) [rq]) with pts := 50 }
/-- The state with that copy, whose write time is given. -/
def rs (wts : Nat) : State :=
  { ms ew with lines := [(key1, ln)], l1 := [(l1Key 0 key1, { data := ln.data, wts := wts, rts := 9, held := false })] }
theorem witness_OrderingReplies : kget (ms (pw sa)).waves 16 = some (pw sa) ∧ sa.acks = some ([3], []) ∧ 3 ∈ [3] ∧
    AtHead (rs 2) 16 ew (ac (.loadS 192 false) [rq]) [] ∧ (rs 2).renewals ew (ac (.loadS 192 false) [rq]) = [true] ∧
    (rs 1).renewals ew (ac (.loadS 192 false) [rq]) = [false] := ⟨rfl, rfl, by decide, ⟨rfl, rfl, rfl, rfl, rfl, rfl, rfl⟩, by decide +kernel⟩
theorem witness_OrderingReplies_renewal : rq.va % 128 + rq.len = 128 ∧ LineReady (rs 2) 1 rq hbm ln false ∧ ew.who.cluster = some 0 ∧
    (kget (rs 2).l1 (l1Key 0 (lineTag rq.win rq.gen rq.va))).map (fun y => (y.held, y.wts)) = some (false, ln.wts) ∧ 9 < ew.pts :=
  ⟨by decide, ⟨rfl, by decide, .inl rfl, rfl, rfl, by decide +kernel, by decide, by decide, by decide, line_there, nofun, rfl, by decide +kernel, by decide +kernel,
    by decide +kernel, by decide +kernel⟩, by decide, by decide +kernel, by decide⟩
/-- A matrix wave on array 0, and a state with one command of it. -/
def mt : Wave := { tw with role := .matrix, array := some 0 }
def cm (op : CmdOp) : Cmd := newCmd (us mt) 16 false mt fT op noReg noReg noReg
def es (c : Cmd) : State := { us mt with cmds := [(7, c)] }
theorem witness_EngineEvents : ([CmdOp.mswap, .mq 0 true 192, .mw false 64, .stream true false].all fun op =>
      !(cm op).started && (es (cm op)).cmdTurn (cm op) && (cm op).reply.isNone && (cm op).frec.isNone && (cm op).err == 0 && (cm op).info == 0) = true ∧
    (kget (es (cm .mswap)).waves (cm .mswap).wave).isSome = true ∧ ({ cm .mswap with started := true } : Cmd).started = true ∧
    (cm .mswap).finished = false ∧
    (let c : Cmd := { cm .mswap with finished := true, uid := 9 }
     c.finished = true ∧ (es c).completeTurn c = true ∧ (es c).imageOf mt = none ∧
       ({ us mt with cmds := [(5, cm .mswap), (7, c)] } : State).completeTurn c = false) ∧
    ([{ uid := 7, wave := 16, kind := 0, arg := 0 }] : List AsyncOp).find? (fun o => o.uid == 7 && o.kind == 0) =
      some { uid := 7, wave := 16, kind := 0, arg := 0 } := by decide +kernel

/-- A control core's access to a system register at its head. -/
def gw (op : AccOp) : Wave := { cw with pend := [ac op []], issued := 1 }
def gs (op : AccOp) : State := cs (gw op)
theorem head_gs (op : AccOp) : AtHead (gs op) 0 (gw op) (ac op []) [] := ⟨rfl, rfl, rfl, rfl, rfl, rfl, no_posts rfl⟩
theorem witness_RegisterWrites : AtHead (gs (.syswr 0x0100 64 0)) 0 (gw (.syswr 0x0100 64 0)) (ac (.syswr 0x0100 64 0) []) [] ∧
    ownStep 0x0100 = false ∧ 0x0100 ∉ [0x0001, 0x0002, 0x0003, 0x011B] ∧ (gs (.syswr 0x0100 64 0)).fqHeld = [] ∧ 0x0100 < 65536 ∧ 64 < 65536 ∧
    (191#64).toNat % 256 < 192 ∧ ¬(192#64).toNat % 256 < 192 ∧ (gs (.syswr 0x0207 0 191)).blocksOn 191 = [] ∧ (0#64).getLsbD 57 = false ∧
    (∀ reg, AtHead (gs (.syswr reg 0 0)) 0 (gw (.syswr reg 0 0)) (ac (.syswr reg 0 0) []) []) :=
  ⟨head_gs _, by decide, by decide, rfl, by decide, by decide, by decide, by decide, by decide +kernel, by decide, fun _ => head_gs _⟩
theorem witness_ClearingReads : AtHead (gs (.sysrd 0x0018 0 192)) 0 (gw (.sysrd 0x0018 0 192)) (ac (.sysrd 0x0018 0 192) []) [] := head_gs _

/-- A wave parked on a TRAP. -/
def kp : Park := { uid := 2, code := 0, va := 0, mask := 1, pcb := false, service := some 192, info := 0, words := [], die := 0, frec := 1 }
def kf : FaultRec := { die := 0, k := 1, who := .wave 16, code := 0 }
def qs (v : BitVec 64) : State :=
  { gs (.syswr 0x011C 0 v) with waves := kset (gs (.syswr 0x011C 0 v)).waves 16 { tw with park := some kp }, frecs := [kf], blocks := [(1, tb)] }
theorem witness_ServiceWrites_reply : AtHead (qs 1) 0 (gw (.syswr 0x011C 0 1)) (ac (.syswr 0x011C 0 1) []) [] ∧ (qs 1).recordOf 0 1 = some kf ∧
    kf.who = .wave 16 ∧ (16 : Nat) ≠ 0 ∧ (qs 1).awaits ((qs 1).wave 16) kf = some kp ∧ kp.service = some 192 ∧ replyAction 1 = some true ∧
    (qs 1).recordOf 0 0x100000001 = some kf ∧ replyAction 0x100000001 = some false :=
  ⟨⟨rfl, rfl, rfl, rfl, rfl, rfl, rfl⟩, by decide, rfl, by decide, by decide, rfl, by decide⟩
/-- The same wave parked on a fault, and a paused command. -/
def qf (v : BitVec 64) : State := { qs v with waves := kset (qs v).waves 16 { tw with park := some { kp with service := none } } }
def qc (v : BitVec 64) : State :=
  { qs v with frecs := [{ kf with who := .cmd 7 }], cmds := [(7, { newCmd (us tw) 16 false tw fT .mswap noReg noReg noReg with frec := some (0, 1) })] }
theorem witness_ServiceWrites_records : (qs 2).recordOf 0 2 = none ∧ (qs 2).recordOf 0 0x100000002 = none ∧ replyAction 2 = some true ∧
    replyAction 0x100000002 = some false ∧ (qf 1).awaits ((qf 1).wave 16) kf = some { kp with service := none } ∧ (qf 1).recordOf 0 1 = some kf ∧
    (qc 1).recordOf 0 1 = some { kf with who := .cmd 7 } ∧ (kget (qc 1).cmds 7).map (·.frec) = some (some (0, 1)) := by decide +kernel
theorem witness_ServiceWrites_heads (v : BitVec 64) : AtHead (qf v) 0 (gw (.syswr 0x011C 0 v)) (ac (.syswr 0x011C 0 v) []) [] ∧
    AtHead (qc v) 0 (gw (.syswr 0x011C 0 v)) (ac (.syswr 0x011C 0 v) []) [] := ⟨⟨rfl, rfl, rfl, rfl, rfl, rfl, rfl⟩, rfl, rfl, rfl, rfl, rfl, rfl, rfl⟩
/-- A state with two words of a descriptor at reserved address 0. -/
def ds (op : AccOp) (w0 w1 w2 : BitVec 64) : State := (((gs op).setWord (raKey 0) w0).setWord (raKey 8) w1).setWord (raKey 16) w2
theorem witness_ServiceWrites_page : ((gs (.syswr 0x0128 0 0)).pageDesc 0).bad = true ∧
    (let s := ds (.syswr 0x0128 0 0) 1 65536 0
     (s.pageDesc 0).bad = false ∧ (s.pageDesc 0).op = 1 ∧ s.leafOf (s.pageDesc 0).ctx (s.pageDesc 0).va = none) ∧
    (let s := ds (.syswr 0x0128 0 0) 2 65536 65536
     (s.pageDesc 0).bad = false ∧ (s.pageDesc 0).op = 2 ∧ ∀ i < (s.pageDesc 0).arg / 65536, s.leafOf (s.pageDesc 0).ctx ((s.pageDesc 0).va + 65536 * i) = none) := by
  decide +kernel
theorem witness_ServiceWrites_head : AtHead (ds (.syswr 0x0128 0 0) 1 65536 0) 0 (gw (.syswr 0x0128 0 0)) (ac (.syswr 0x0128 0 0) []) [] :=
  ⟨rfl, rfl, rfl, rfl, rfl, rfl, rfl⟩
/-- A page table at reserved address 8192, each of whose levels is the table itself, with a leaf for VA 65536. -/
def um : State :=
  (((ds (.syswr 0x0128 0 0) 2 65536 65536).setWord (raKey 8192) 0x8000000000002000).setWord (raKey 8200) 0x8000000000000000).setSys 0x0100 0
    0x8000000000002000
theorem witness_ServiceWrites_unmap : AtHead um 0 (gw (.syswr 0x0128 0 0)) (ac (.syswr 0x0128 0 0) []) [] ∧ (um.pageDesc 0).bad = false ∧
    (um.pageDesc 0).op = 2 ∧ (um.pageDesc 0).arg = 65536 ∧ um.leafOf (um.pageDesc 0).ctx (um.pageDesc 0).va = some 8200 ∧
    (um.word 8200).getLsbD 63 = true := ⟨⟨rfl, rfl, rfl, rfl, rfl, rfl, rfl⟩, by decide +kernel⟩
/-- The byte with OWN and B of the owner entry of the first piece of a stack; where the owner tables stand is open (R306). -/
def ownByte (j : Nat) : Nat := ownKey (j * 2 ^ 36) 1 + 7
/-- A 64 KiB block that holds none of these bytes. -/
def freeBlock : Nat := ((List.range 17).find? fun b => (List.range 16).all fun j => ownByte j / 65536 != b).getD 0
theorem freeBlock_spec : freeBlock < 17 ∧ ∀ j < 16, ownByte j / 65536 ≠ freeBlock := by
  unfold freeBlock
  cases h : (List.range 17).find? fun b => (List.range 16).all fun j => ownByte j / 65536 != b with
  | some b =>
    have h1 := List.find?_some h
    have h2 := List.mem_of_find?_eq_some h
    refine ⟨by simpa using h2, fun j hj => ?_⟩
    simpa using (List.all_eq_true.1 h1) j (List.mem_range.2 hj)
  | none =>
    exfalso
    have hs : List.range 17 ⊆ (List.range 16).map fun j => ownByte j / 65536 := by
      intro b hb
      have := List.find?_eq_none.1 h b hb
      simpa using this
    have := (List.nodup_range (n := 17)).subperm hs |>.length_le
    simp at this
/-- OWN is set and B clear for those pieces; a descriptor of MIGRATE and a page table stand in the block. -/
def gm : State :=
  let t := 65536 * freeBlock
  let g := gs (.syswr 0x0128 0 (BitVec.ofNat 64 (t + 16)))
  let s := (List.range 16).foldl (fun s j => s.setByte (ownByte j) 0x80) g
  let s := ((((s.setWord t (0x8000000000000000 + BitVec.ofNat 64 t)).setWord (t + 8) 0x8000000000000000).setWord (t + 16) 1).setWord (t + 24)
    65536).setWord (t + 32) 0
  { g with mem := s.mem, sys := [(sysKey 0x0100 0, 0x8000000000000000 + BitVec.ofNat 64 t)] }
theorem word_of_mem (g s : State) (y : Tbl (BitVec 64)) (k : Nat) : ({ g with mem := s.mem, sys := y } : State).word k = s.word k := rfl
theorem byte_of_mem (g s : State) (y : Tbl (BitVec 64)) (k : Nat) : ({ g with mem := s.mem, sys := y } : State).byte k = s.byte k := rfl
theorem gm_word : gm.word (65536 * freeBlock) = 0x8000000000000000 + BitVec.ofNat 64 (65536 * freeBlock) ∧
    gm.word (65536 * freeBlock + 8) = 0x8000000000000000 ∧ gm.word (65536 * freeBlock + 16) = 1 ∧ gm.word (65536 * freeBlock + 24) = 65536 ∧
    gm.word (65536 * freeBlock + 32) = 0 := by
  unfold gm
  generalize 65536 * freeBlock = t
  simp only [word_of_mem]
  refine ⟨?_, ?_, ?_, ?_, ?_⟩ <;>
    (repeat (first | rw [word_setWord_same] | rw [word_setWord_apart _ _ (by omega)]))
theorem gm_own (j : Nat) (h : j < 16) : gm.byte (ownByte j) = 0x80 := by
  have hfold (js : List Nat) (s : State) (h : j ∈ js ∨ s.byte (ownByte j) = 0x80) :
      (js.foldl (fun s j => s.setByte (ownByte j) 0x80) s).byte (ownByte j) = 0x80 := by
    induction js generalizing s with
    | nil => exact h.resolve_left nofun
    | cons i js ih =>
      refine ih _ ?_
      rw [byte_setByte]
      rcases h with h | h
      · rcases List.mem_cons.1 h with e | e
        · right; rw [if_pos (e ▸ rfl)]
        · exact .inl e
      · right; split <;> [rfl; exact h]
  have hb := freeBlock_spec.2 j h
  unfold gm
  simp only [byte_of_mem, byte_setWord]
  generalize ownByte j = q at *
  repeat rw [if_neg (by omega)]
  exact hfold _ _ (.inl (List.mem_range.2 h))
theorem own_bits (s : State) (k : Nat) (h : s.byte (k + 7) = 0x80) : (s.word k).getLsbD 63 = true ∧ (s.word k).getLsbD 62 = false := by
  have e : s.word k = BitVec.ofNat 64 (((((((128 * 256 + (s.byte (k + 6)).toNat) * 256 + (s.byte (k + 5)).toNat) * 256 + (s.byte (k + 4)).toNat) * 256 +
      (s.byte (k + 3)).toNat) * 256 + (s.byte (k + 2)).toNat) * 256 + (s.byte (k + 1)).toNat) * 256 + (s.byte k).toNat) := by
    simp [State.word, State.bytes, List.range, List.range.loop, ofBytes, h]
  have l (i : Nat) : (s.byte i).toNat < 256 := (s.byte i).isLt
  have := l k; have := l (k + 1); have := l (k + 2); have := l (k + 3); have := l (k + 4); have := l (k + 5); have := l (k + 6)
  rw [e]
  simp only [BitVec.getLsbD_ofNat, Nat.testBit_eq_decide_div_mod_eq]
  constructor
  · simp only [Nat.reduceLT, decide_true, Bool.true_and, decide_eq_true_eq]; omega
  · simp only [Nat.reduceLT, decide_true, Bool.true_and, decide_eq_false_iff_not]; omega
theorem root_base : ∀ b < 17, let r := 0x8000000000000000#64 + BitVec.ofNat 64 (65536 * b)
    (r.extractLsb' 13 27).toNat * 8192 = 65536 * b ∧ r.getLsbD 63 = true := by decide
theorem gm_leaf : gm.leafOf 0 65536 = some (65536 * freeBlock + 8) := by
  obtain ⟨h1, h2⟩ := root_base _ freeBlock_spec.1
  have hb := freeBlock_spec.1
  have hr : gm.ptRoot 0 65536 = 0x8000000000000000 + BitVec.ofNat 64 (65536 * freeBlock) := rfl
  have k0 : raKey (65536 * freeBlock) = 65536 * freeBlock := Nat.mod_eq_of_lt (by omega)
  have k1 : raKey (65536 * freeBlock + 8) = 65536 * freeBlock + 8 := Nat.mod_eq_of_lt (by omega)
  have hw := gm_word.1
  unfold State.leafOf State.leafKey State.walk
  rw [hr]
  generalize (0x8000000000000000#64 + BitVec.ofNat 64 (65536 * freeBlock)) = r at *
  have down (n l : Nat) (h : levelIndex 65536 l = 0) : State.walk.go gm 65536 (n + 1) l r = State.walk.go gm 65536 n (l + 1) r := by
    simp only [State.walk.go, h2, if_true, h1, h, Nat.mul_zero, Nat.add_zero, k0, hw]
  rw [down 2 0 (by decide), down 1 1 (by decide), down 0 2 (by decide)]
  simp only [State.walk.go, h2, if_true, h1, show levelIndex 65536 (0 + 1 + 1 + 1) = 1 by decide, Nat.mul_one, k1]
  rfl
theorem witness_ServiceWrites_migrate :
    let v : BitVec 64 := BitVec.ofNat 64 (65536 * freeBlock + 16)
    let p := gm.pageDesc v.toNat
    AtHead gm 0 (gw (.syswr 0x0128 0 v)) (ac (.syswr 0x0128 0 v) []) [] ∧ p.bad = false ∧ p.op = 1 ∧
    gm.leafOf p.ctx p.va = some (65536 * freeBlock + 8) ∧ gm.word (65536 * freeBlock + 8) = 0x8000000000000000 ∧
    p.va % pageBytes ((gm.word (65536 * freeBlock + 8)).extractLsb' 56 2).toNat = 0 ∧ gm.pageOp = none ∧
    ∀ q ∈ gm.pieces (gm.msetOf p.ctx p.va) (p.arg + 0 * gm.addrStep 0 (gm.msetOf p.ctx p.va)),
      (gm.word (ownKey q 1)).getLsbD 63 = true ∧ (gm.word (ownKey q 1)).getLsbD 62 = false := by
  have hb := freeBlock_spec.1
  have hv : (BitVec.ofNat 64 (65536 * freeBlock + 16)).toNat = 65536 * freeBlock + 16 := by simp; omega
  have k0 : raKey (65536 * freeBlock + 16) = 65536 * freeBlock + 16 := Nat.mod_eq_of_lt (by omega)
  have k1 : raKey (65536 * freeBlock + 24) = 65536 * freeBlock + 24 := Nat.mod_eq_of_lt (by omega)
  have k2 : raKey (65536 * freeBlock + 32) = 65536 * freeBlock + 32 := Nat.mod_eq_of_lt (by omega)
  have hp : gm.pageDesc (65536 * freeBlock + 16) = { ctx := 0, g := false, op := 1, va := 65536, arg := 0, bad := false } := by
    unfold State.pageDesc
    rw [k0, show 65536 * freeBlock + 16 + 8 = 65536 * freeBlock + 24 from rfl, show 65536 * freeBlock + 16 + 16 = 65536 * freeBlock + 32 from rfl,
      k1, k2, gm_word.2.2.1, gm_word.2.2.2.1, gm_word.2.2.2.2]
    decide
  intro v p
  have e : p = { ctx := 0, g := false, op := 1, va := 65536, arg := 0, bad := false } := by
    show gm.pageDesc (BitVec.ofNat 64 (65536 * freeBlock + 16)).toNat = _
    rw [hv, hp]
  have hm : gm.msetOf 0 65536 = 0 := rfl
  have hq : ∀ j < 16, gm.hbmKey 0 0 (j * 4096) = j * 2 ^ 36 := by
    intro j h
    interval_cases j <;> rfl
  rw [e]
  refine ⟨⟨rfl, rfl, rfl, rfl, rfl, rfl, rfl⟩, rfl, rfl, gm_leaf, gm_word.2.1, by rw [gm_word.2.1]; decide, rfl, ?_⟩
  intro q h
  simp only [hm, Nat.zero_mul, Nat.add_zero] at h
  unfold State.pieces at h
  obtain ⟨j, hj, rfl⟩ := List.mem_map.1 h
  rw [hq j (List.mem_range.1 hj)]
  exact own_bits _ _ (gm_own j (List.mem_range.1 hj))
/-- The cores that a vacate descriptor names, and whether it is malformed. -/
def vac (s : State) : List Nat × Bool :=
  let ws := (List.range 4).map fun i => (s.word (raKey (8 * i))).toNat
  let cores := (List.range 192).filter fun n => (ws.getD (n / 64) 0).testBit (n % 64)
  (cores, decide (cores = [] ∨ ws.getD 3 0 / 256 % 256 ≠ 0 ∨ ws.getD 3 0 / 2 ^ 32 ≠ 0))
theorem witness_ServiceWrites_vacate : (vac (gs (.syswr 0x0200 0 0))).2 = true ∧ (vac (ds (.syswr 0x0200 0 0) 1 0 0)) = ([0], false) := by decide +kernel

theorem witness_ResetsAndLinks : State.reset.linkUp = true ∧ ({ State.reset with linkUp := false } : State).linkUp = false := by decide
theorem witness_PowerEvents : (105 * 16 < (1681#16).toNat ∧ ¬105 * 16 < (1680#16).toNat) ∧ ((1519#16).toNat < 95 * 16 ∧ ¬(1520#16).toNat < 95 * 16) ∧
    State.reset.powerReady 47 = false ∧ (State.reset.setSys 0x0208 47 2).powerReady 47 = true := by decide +kernel
/-- A range in window 1 of context 0. -/
def oq (va n : Nat) : Req := { mkReq 0 0 va n 0 with win := winKey 0 false 1 }
/-- A dirty line of a live window is ready where no task, page operation, frozen granule or host half stands in the way. -/
theorem line_ready {s : State} {win : Win} {l : Line} (va n : Nat) (wr : Bool) (hw : kget s.wins (winKey 0 false 1) = some win)
    (hl : kget s.lines (lineTag (winKey 0 false 1) 0 va) = some l) (hd : l.dirty = true ∧ l.poison = [])
    (ha : (win.state = .live ∨ win.state = .sealed) ∧ win.gen = 0 ∧ win.lost = false ∧ attrKind win.attr < 3 ∧ attrSync win.attr = false)
    (hc : s.lostAt 0 va = false ∧ win.base ≤ va ∧ va < win.base + win.size) (ht : s.tasks = []) (hm : s.migrating (winKey 0 false 1) va = false) (hf : s.frozenAt (winKey 0 false 1) 0 va wr = false) (hh : s.hostHalf = []) :
    LineReady s 0 (oq va n) win l wr :=
  ⟨hw, (by decide : winKey 0 false 1 ≠ reservedWin), ha.1, ha.2.1, ha.2.2.1, hc.1, hc.2, ha.2.2.2.1, ha.2.2.2.2, hl, fun _ => hd.1, hd.2, by
    unfold State.mergeHolds; rw [ht]; rfl, hm, hf, by
    unfold State.hostConflict; rw [hh]; cases wr <;> simp [dget, kget]⟩
/-- An accepted node with no more room than one record. -/
def nd (bin : List BinRec) : Node :=
  { words := [0x10000, 0x100000000, 8, 0x100000000, 0, 0, 0, 0], ctx := 0, cores := [0], nextSeq := 0, bin := bin, lastCore := none, lastUc := none
    expired := false }
def br : BinRec := { seq := 0, bytes := List.replicate 8 0, ts := 0, entered := 0, spawn := none, resume := none }
/-- A queue in the window of context 0. -/
def hq : Queue :=
  { ring := 0x10080, tail := 0x10000, head := 0x10100, cq := 0x10180, owner := 0, slots := 16, vec := 0, ccore := 0, headCount := 0, entries := 0
    error := false, held := false, post := none }
/-- A line of a few words. -/
def wordLine (xs : List Nat) : Line := { ln with data := xs.flatMap (toBytes 8) ++ List.replicate (128 - 8 * xs.length) 0 }
/-- A state with that queue and a value of its tail, whose head packet has the given first two words, and a second queue whose
tail stands in a granule on the move. -/
def ps (tail w0 arg : Nat) : State :=
  let w (a : Nat) : Nat := lineTag (winKey 0 false 1) 0 a
  State.setSys { vs 0 0 with
    queues := [(0, hq), (2, { hq with tail := 0x20000 })]
    wins := [(winKey 0 false 1, { hbm with size := 0x20000 })]
    leaves := marks [(0, 0x10000, winKey 0 false 1), (0, 0x20000, winKey 0 false 1)]
    nodes := [(1, nd [br])]
    pageOp := some { uid := 1, wave := 0, ra := 0, ctx := 0, va := 0x20000, size := 65536, newAddr := 0, moved := 1, mset := 0 }
    lines := [(w 0x10000, wordLine [tail]), (w 0x10080, wordLine [w0, arg]), (w 0x10100, ln), (w 0x10180, ln)] } 0x0101 0 (2 ^ 63)
/-- What the service of its head packet by an act gives: a packet of the type, and DONE, FULL or WAIT as 0, 1 or 2. -/
def served (s : State) (act : PacketAct) : Option (Nat × Nat) := match s.headPacket 0 hq with
  | .ok (u, p) => some (p.type, match u.actedOn hq p act with
    | .done .. => 0
    | .full => 1
    | .wait _ => 2)
  | .error _ => none
theorem witness_PacketService : kget (ps 1 0 0).queues 1 = none ∧ kget (ps 1 0 0).queues 0 = some hq ∧ (ps 1 0 0).serves hq = true ∧
    ({ ps 1 0 0 with thermStop := true } : State).serves hq = false ∧ hq.post = none ∧ hq.error = false ∧
    served (ps 0 0 0) actNop = none ∧ served (ps 17 0 0) actNop = none ∧ served (ps 16 0 0) actNop = some (0, 0) ∧
    served (ps 1 (2 ^ 56) 1) actRecord = some (1, 1) ∧ served (ps 1 (8 * 2 ^ 56) 2) (actQdestroy 0) = some (8, 2) := by decide +kernel
/-- The state after a NOP packet has been read. -/
def pt : State := match (ps 1 0 0).headPacket 0 hq with
  | .ok (u, _) => u
  | .error u => u
theorem word_ready (va : Nat) (l : Line) (h : va % 128 + 8 ≤ 128) (hc : (pt.checkRange hq.who va 8 1 false true).toOption = some (winKey 0 false 1, 0))
    (hl : kget pt.lines (lineTag (winKey 0 false 1) 0 va) = some l) (hd : l.dirty = true ∧ l.poison = [] ∧ l.data.length = 128)
    (hg : pt.migrating (winKey 0 false 1) va = false ∧ pt.lostAt 0 va = false ∧ 0x10000 ≤ va ∧ va < 0x10000 + 0x20000) : WordReady pt hq.who va :=
  have hk : pt.checkRange hq.who va 8 1 false true = .ok (winKey 0 false 1, 0) := by
    cases e : pt.checkRange hq.who va 8 1 false true with
    | ok q => rw [e] at hc; exact congrArg Except.ok (Option.some.inj hc)
    | error _ => rw [e] at hc; cases hc
  have hf : pt.frozenAt (winKey 0 false 1) 0 va true = false := by
    unfold State.frozenAt
    rw [show pt.frozen = [] by decide +kernel]
    rfl
  ⟨h, winKey 0 false 1, 0, { hbm with size := 0x20000 }, l, hk, line_ready va 8 true (by decide +kernel) hl ⟨hd.1, hd.2.1⟩
    ⟨.inl rfl, rfl, rfl, by decide, by decide⟩ hg.2 (by decide +kernel) hg.1 hf (by decide +kernel), hd.2.2⟩
theorem witness_PacketService_post : PostReady pt hq :=
  ⟨word_ready _ ln (by decide) (by decide +kernel) (by decide +kernel) (by decide +kernel) (by decide +kernel),
    word_ready _ ln (by decide) (by decide +kernel) (by decide +kernel) (by decide +kernel) (by decide +kernel),
    word_ready _ ln (by decide) (by decide +kernel) (by decide +kernel) (by decide +kernel) (by decide +kernel),
    word_ready _ ln (by decide) (by decide +kernel) (by decide +kernel) (by decide +kernel) (by decide +kernel), by decide⟩
/-- A packet of one slot with an argument and payload words. -/
def pk (arg : BitVec 64) (xs : List Nat) : Packet :=
  { w0 := 0, arg := arg, payload := xs.flatMap (toBytes 8) ++ List.replicate (112 - 8 * xs.length) 0, ts := 0, tail := 0 }
theorem witness_PacketService_records : State.reset.nodeOf 0 (pk 1 []).arg = none ∧
    (({ State.reset with nodes := [(1, nd [])] } : State).nodeOf 0 (pk 1 []).arg).map (·.recSize) = some 8 ∧ (nd []).occupancy < (nd []).binCap ∧
    (nd [br]).binCap ≤ (nd [br]).occupancy ∧ (nd [br]).bin ≠ [] ∧ 128 * (pk 1 []).slots - 16 = 112 ∧
    112 < ({ nd [] with words := [0x10000, 0x100000000, 120, 0x100000000, 0, 0, 0, 0] } : Node).recSize ∧ (ps 1 0 0).packetBad hq (pk 0 []) = none := by
  decide +kernel
/-- A state with a sealed window, core 0 in the partition, an endpoint of a peer, a SYSTEM arena with SYNC, and nodes. -/
def ns (nodes : Tbl Node) : State :=
  State.setSys { State.reset with
    wins := [(winKey 0 false 1, { hbm with state := .sealed }), (winKey 0 false 2, { hbm with base := 0x20000, attr := 0x2A00 })]
    leaves := marks [(0, 0x10000, winKey 0 false 1), (0, 0x20000, winKey 0 false 2)], nodes := nodes
    eps := [(3, { kind := 0, group := 0, dev := 0, pctx := 0, port := 0, limit := 0, addr := [], nqn := [], time := 0 })]
    queues := [(0, hq), (1, { hq with tail := 0x20000 })]
    lines := [(lineTag (winKey 0 false 2) 0 0x20000, wordLine [0])] } 0x0206 0 1
/-- A definition of node 2: an entry, and word 7. -/
def dn (entry w7 : Nat) : Packet := pk 0 [entry, 2 ^ 32, 8, 2 ^ 32 + 2 * 2 ^ 48, 1, 0, 0, w7]
/-- The status and the reason that an act gives. -/
def status (act : PacketAct) (s : State) (p : Packet) : Nat × Nat := match act s hq p with
  | .done _ c r _ => (c, r)
  | _ => (99, 0)
theorem witness_PacketService_nodes : status actNodeDef (ns []) (dn 0x10008 0) = (0, 0) ∧ status actNodeDef (ns []) (dn 0x10001 0) = (1, 8) ∧
    status actNodeDef (ns [(1, { nd [] with words := [0, 0, 0, 0, 0, 0, 0, 2 ^ 40] })]) (dn 0x10008 (2 ^ 40 + 2 ^ 32 + 1)) = (1, 14) := by decide +kernel
theorem witness_PacketService_handles :
    [actCommDef, actCommDef, actCommDef, actCommDef].zipWith (fun a p => (status a (ns []) p).1)
      [pk 4095 [], pk 4096 [], pk 0 [3 * 2 ^ 52 + 3 * 2 ^ 40 + 2 * 2 ^ 27 + 2 ^ 15], pk 0 [3 * 2 ^ 52 + 3 * 2 ^ 40 + 2 * 2 ^ 27 + 2 * 2 ^ 15]] = [0, 6, 0, 6] ∧
    [actEpDef, actEpDef, actEpDef].zipWith (fun a p => (status a (ns []) p).1) [pk 4095 [], pk 4096 [], pk 0 [2 ^ 62]] = [0, 6, 2] ∧
    State.reset.arenaOf 0 (pk 1 []).arg = none ∧ ((ns []).arenaOf 0 (pk 1 []).arg).isSome = true := by decide +kernel
theorem witness_PacketService_queues :
    status (actQcreate 0) (ns []) (pk 0 [0x20000, 0x20000, 0x20080, 0x20100, 4 * 2 ^ 48]) = (0, 0) ∧ (1 : Nat) ≠ 0 ∧
    kget (ns []).queues 2 = none ∧ status (actQdestroy 0) (ns []) (pk 1 []) = (0, 0) ∧
    (match (ns []).agentRead hq.who 0 0x20000 8 1 with
      | .ok _ _ bs => ofBytes bs
      | _ => 1) = 0 := by decide +kernel

/-- A wave held by an instruction on PCA, last issued at cc 0. -/
def hw (h : Hold) : Wave := { tw with pca := { tw.pca with hold := h } }
/-- The state at a cc. -/
def at_ (x : Wave) (clk : Nat) : State := { us x with clk := clk }
theorem witness_LimitEvents : (at_ (hw (.hdlWait 2 0x20000 true true (some 1024) 1)) 1024).waiting 16 false = true ∧
    (at_ (hw (.hdlWait 2 0x20000 true true (some 1024) 1)) 1024).limitPassed (hw (.hdlWait 2 0x20000 true true (some 1024) 1)).pca (some 1024) = true ∧
    (at_ (hw (.waitw 2 1 (some 1024) 192)) 1024).limitPassed (hw (.waitw 2 1 (some 1024) 192)).pca (some 1024) = true ∧
    (at_ (hw (.waitw 2 1 (some 1024) 192)) 1023).limitPassed (hw (.waitw 2 1 (some 1024) 192)).pca (some 1024) = false := by decide +kernel
/-- The control core's wave in HALT with the time event in its mask. -/
def zw : Wave := { cw with pca := { cw.pca with hold := .halt 2 8 (some 1024) 192 } }
theorem witness_LimitEvents_halt : kget ({ cs zw with clk := 1024 } : State).waves 0 = some zw ∧ zw.pcb.hold = .none ∧ zw.super = true ∧
    ({ cs zw with clk := 1024 } : State).waiting 0 false = true ∧
    ({ cs zw with clk := 1024 } : State).haltEvents 0 (({ cs zw with clk := 1024 } : State).limitPassed zw.pca (some 1024)) &&& 8 ≠ 0 ∧
    ({ cs zw with clk := 1 } : State).haltEvents 0 (({ cs zw with clk := 1 } : State).limitPassed zw.pca (some 1024)) &&& 8 = 0 := by decide +kernel
/-- The block at its watchdog limit. -/
def wd : State := { us tw with blocks := [(1, { tb with wdog := 65536 * 1024, bark := true })], clk := 1024 }
theorem witness_LimitEvents_watchdog : (kget wd.blocks tw.block).map (·.bark) = some true ∧ tb.bark = false ∧ 16 ∈ wd.liveWaves tw.block ∧
    (∀ v ∈ wd.liveWaves tw.block, v ≠ 16 → tw.age < (wd.wave v).age) ∧ dget 0 wd.crept tw.core < (wd.clk - dget 0 wd.coreReset tw.core) / 1024 ∧
    ¬dget 0 (us tw).crept tw.core < ((us tw).clk - dget 0 (us tw).coreReset tw.core) / 1024 := by decide +kernel

/-- A running task of the block. -/
def tk : Task :=
  { node := 1, seq := 0, parent := none, ordinal := 0, children := 0, state := .running, views := [], block := some 1, saved := none, merge := none
    merged := 0, ts := 0 }
/-- A state with the task, its node and the block. -/
def tsk (k : Task) (b : Block) (x : Wave) : State := { us x with tasks := [(1, k)], nodes := [(1, nd [])], blocks := [(1, b)] }
theorem witness_TaskEvents : kget (tsk tk tb tw).nodes 1 = some (nd []) ∧
    ((tsk tk { tb with refill := [[1]] } tw).fifoLoad 1 0 < 16 ∧ tb.away = false) ∧
    16 ≤ (tsk tk { tb with fifos := [(0, List.replicate 16 [1])] } tw).fifoLoad 1 0 ∧ (tsk tk tb tw).tendReady 1 = false ∧
    (tsk tk tb (hw (.tend 2))).tendReady 1 = true ∧ tk.state = .running := by decide +kernel
/-- A state with one save area on die 0. -/
def sv (h : Hold) : State := (tsk tk tb (hw h)).setSys 0x0203 0 (2 ^ 52 + 2 ^ 20)
/-- Whether a block may be saved. -/
def saveable (s : State) : Bool := s.yielded 1 && !tb.away && !tb.stopping && !tb.vacating && s.drained 1 tb && !s.matrixBusy 1
theorem witness_TaskEvents_save : (sv (.yield 2 0 0 0 0 false)).freeAreas (dieOf tb.core) = [0x100000] ∧ saveable (sv (.yield 2 0 0 0 0 false)) = true ∧ saveable (sv .none) = false := by decide +kernel
/-- The saved task, and a merge of a view. -/
def si : Saved := { arrays := [], img := 0, conds := [16] }
def vw : View := { base := 0x10000, size := 128, fmt := 0, op := 0, inherited := true, buf := 0x10000, bufWin := 0, cursor := 0, declarer := 9, num := 0 }
def mg : Merge :=
  { view := 0, target := none, base := 0x10000, size := 128, ctx := 1, queued := false, cursor := 128, lines := [], pts := 0, order := 0, paused := false
    fail := none, reply := none, frec := none }
theorem witness_TaskEvents_resume : ({ tk with state := .saved, saved := some si } : Task).saved = some si ∧
    ((tsk { tk with state := .saved, saved := some si } tb tw).liveWaves 1).all si.conds.contains = true ∧ tk.state ≠ .halted ∧
    ({ tk with state := .halted } : Task).state = .halted := by decide +kernel
/-- A task that merges a view. -/
def mk : Task := { tk with state := .ending, views := [vw], merge := some mg, block := none }
theorem witness_TaskEvents_merge : mk.merge = some mg ∧ mk.inherited[mk.merged]? = some vw ∧
    (mg.queued || mg.paused || mg.reply.isSome || mg.frec.isSome || mk.state != .ending || (tsk mk tb tw).taskAway mk) = false ∧ vw.size ≤ mg.cursor ∧
    mg.lines = [] ∧ (mg.queued || mg.paused || mg.reply.isSome || mg.frec.isSome || tk.state != .ending || (tsk tk tb tw).taskAway tk) = true := by decide +kernel
/-- A deferred fault on its way to a unit. -/
def rp : Reply := { code := 10, va := 0x10078, mask := 1, info := 0 }
theorem witness_FaultReplies_units :
    (let c : Cmd := { cm .mswap with reply := some rp }
     kget (es c).cmds 7 = some c ∧ 7 < 2 ^ 32 ∧ c.reply = some rp) ∧
    (let m : Merge := { mg with reply := some rp }
     let k : Task := { mk with block := some 1, merge := some m }
     kget (tsk k tb tw).tasks 1 = some k ∧ k.merge = some m ∧ m.reply = some rp ∧ (tsk k tb tw).taskAway k = false ∧ rp.code ∈ [8, 9, 10]) := by
  decide +kernel
/-- A state in which the distributor may place the head of node 1, in context 0. -/
def pl : State := { State.reset with nodes := [(1, nd [br])] }
theorem witness_TaskPlacement : pl.placer ≠ some 2 ∧ pl.placer = some 1 ∧ kget pl.nodes 1 = some (nd [br]) ∧ pl.topId (nd [br]).ctx = some 4095 ∧
    (nd [br]).searchOrder.find? (pl.fits (nd [br]) 0) = some 0 := by decide +kernel
theorem witness_TaskPlacement_head : (nd [br]).headTask = .batch [br] := rfl

/-- A window of SYSTEM home at 0x10000 in context 0, mapped to frame 0, and a host window that maps address 0 to it. -/
def sysw : Win := { hbm with attr := 5 * 2 ^ 9 }
/-- Its line. -/
def ok_ : Nat := lineTag (winKey 0 false 1) 0 0x10000
def os : State :=
  let s : State := { State.reset with
    wins := [(winKey 0 false 1, sysw)], leaves := marks [(0, 0x10000, winKey 0 false 1)], lines := [(ok_, ln)]
    eps := [(3, { kind := 0, group := 0, dev := 0, pctx := 0, port := 0, limit := 0, addr := [], nqn := [], time := 0 })] }
  (((((s.setWord (raKey 8192) 0x8000000000002000).setWord (raKey 8200) 0x8800000000000000).setSys 0x0100 0 0x8000000000002000).setSys
    0x0010 0 1).setSys 0x0011 0 (16 * 2 ^ 52 + 1)).setSys 0x0101 0 (2 ^ 63)
theorem os_ready (va n : Nat) (wr : Bool) (h : lineTag (winKey 0 false 1) 0 va = ok_) (hc : os.lostAt 0 va = false ∧ 0x10000 ≤ va ∧ va < 0x20000) :
    LineReady os 0 (oq va n) sysw ln wr :=
  line_ready va n wr (by decide +kernel) (by rw [h]; decide +kernel) ⟨rfl, rfl⟩ ⟨.inl rfl, rfl, rfl, by decide, by decide⟩ hc (by decide +kernel)
    (by unfold State.migrating; rw [show os.pageOp = none by decide +kernel]) (by
      unfold State.frozenAt; rw [show os.frozen = [] by decide +kernel]; rfl) (by decide +kernel)
/-- A link line, and its last byte. -/
theorem witness_OutsideAccesses : os.cxlMem = true ∧ ({ os with linkUp := false } : State).cxlMem = false ∧ os.hostWindow 0x10000 = none ∧
    os.hostWindow 0x40 = some (0, 0x10040) ∧ os.hostWindow 0x7F = some (0, 0x1007F) ∧ max 1 (min 64 (64 - 0x40 % 64)) = 64 ∧
    max 1 (min 64 (64 - 0x7F % 64)) = 1 ∧ os.outsideCheck 0 0x10040 64 1 true false = some (winKey 0 false 1, 0) ∧
    os.outsideCheck 0 0x1007F 1 1 false true = some (winKey 0 false 1, 0) ∧ os.hostWindow 0xFFFF = some (0, 0x1FFFF) ∧
    os.outsideCheck 0 0x20000 1 1 false true = none ∧ ln.data.length = 128 := by decide +kernel
theorem witness_OutsideAccesses_peer : kget os.eps 4 = none ∧ (kget os.eps 3).isSome = true ∧ os.bootFailed = false ∧
    ({ os with boot := 2 } : State).bootFailed = true ∧ (0x10079#56).toNat % 128 + 8 = 129 ∧ peerLen (.atom 8 0 1) = 8 ∧ peerLen (.read 8) = 8 ∧
    os.outsideCheck 0 0x10078 8 8 true true = some (winKey 0 false 1, 0) ∧ os.outsideCheck 0 0x10078 8 1 true false = some (winKey 0 false 1, 0) ∧
    os.outsideCheck 0 0x10078 8 1 false true = some (winKey 0 false 1, 0) ∧ os.outsideCheck 0 0x10071 8 8 true true = none ∧
    attrKind sysw.attr ≠ 2 ∧ (os.writeBack ok_).toOption.isSome = true := by decide +kernel
theorem witness_OutsideAccesses_lines (wr : Bool) : LineReady os 0 (oq 0x10040 64) sysw ln wr ∧ LineReady os 0 (oq 0x1007F 1) sysw ln wr ∧
    LineReady os 0 (oq 0x10078 8) sysw ln wr :=
  ⟨os_ready _ _ _ (by decide) (by decide +kernel), os_ready _ _ _ (by decide) (by decide +kernel), os_ready _ _ _ (by decide) (by decide +kernel)⟩
/-- A line of a HOST window. -/
def hostw : Win := { hbm with attr := 128 + 5 * 2 ^ 9 }
def hk : Nat := lineTag (winKey 0 false 1) 0 0x10000
def hs : State :=
  { State.reset with
    wins := [(winKey 0 false 1, hostw)], leaves := marks [(0, 0x10000, winKey 0 false 1)], lines := [(hk, { ln with halves := (1, 1) })]
    hostAck := [2 * hk + 1] }
theorem witness_Snoops : hs.linkUp = true ∧ ({ hs with linkUp := false } : State).linkUp = false ∧ hs.hostLine hk = true ∧ hs.hostLine (hk + 1) = false ∧ (kget hs.lines hk).map (·.halves) = some (1, 1) ∧
    (∃ q ∈ hs.hostAck, q / 2 = hk) ∧ (∀ q ∈ hs.hostAck, q / 2 ≠ hk + 1) ∧ (dget (0, 0) hs.hostHalf hk).1 ≠ 2 ∧ (dget (0, 0) hs.hostHalf hk).2 ≠ 2 := by
  decide +kernel
/-- The device line whose halves the host has modified, asked back for a write. -/
def om : State := { os with hostHalf := [(ok_, (2, 2))], hostAck := [2 * ok_ + 1] }
theorem witness_Snoops_modified : om.linkUp = true ∧ (∃ q ∈ om.hostAck, q / 2 = ok_) ∧ dget (0, 0) om.hostHalf ok_ = (2, 2) ∧ kget om.lines ok_ = some ln ∧
    ln.data.length = 128 ∧ om.deadTag ok_ = false ∧ om.winOfTag ok_ = some (winKey 0 false 1, sysw) ∧ tagVa ok_ = 0x10000 ∧ tagGen ok_ = 0 ∧
    kdel om.hostHalf ok_ = os.hostHalf := by decide +kernel
theorem witness_Snoops_ready : ∀ off ∈ [0, 64], LineReady { om with hostHalf := kdel om.hostHalf ok_ } (winCtx (winKey 0 false 1))
    { mkReq 0 0 (tagVa ok_ + off) 64 0 with win := winKey 0 false 1, gen := tagGen ok_ } sysw ln true := by
  intro off h
  have ha : tagVa ok_ + off = 0x10000 ∨ tagVa ok_ + off = 0x10040 := by
    rcases List.mem_cons.1 h with h | h
    · left; subst h; decide
    · right; rw [List.mem_singleton.1 h]; decide
  have hr (va : Nat) (h : lineTag (winKey 0 false 1) 0 va = ok_)
      (hc : State.lostAt { om with hostHalf := kdel om.hostHalf ok_ } 0 va = false ∧ 0x10000 ≤ va ∧ va < 0x20000) :
      LineReady { om with hostHalf := kdel om.hostHalf ok_ } 0 (oq va 64) sysw ln true :=
    line_ready va 64 true (by decide +kernel) (by rw [h]; decide +kernel) ⟨rfl, rfl⟩ ⟨.inl rfl, rfl, rfl, by decide, by decide⟩ hc (by decide +kernel)
      (by unfold State.migrating; rw [show State.pageOp { om with hostHalf := kdel om.hostHalf ok_ } = none by decide +kernel]) (by
        unfold State.frozenAt; rw [show State.frozen { om with hostHalf := kdel om.hostHalf ok_ } = [] by decide +kernel]; rfl) (by decide +kernel)
  rw [show tagGen ok_ = 0 by decide]
  rcases ha with e | e <;> rw [e]
  · exact hr _ (by decide) (by decide +kernel)
  · exact hr _ (by decide) (by decide +kernel)
/-- A dead line, a clean one and a pinned one, a drop entry, and a frozen granule. -/
def bs : State :=
  { ms { pw { ac .store [rq] with wait := true } with pend := [{ ac .store [rq] with wait := true }] } with
    lines := [(key1, { ln with pinned := true }), (key1 + 1, { ln with dirty := false }), (5, ln)], drops := [{ win := 0, gen := 0, lap := 0, left := [0] }]
    frozen := [{ snap := 1, win := winSpace rq.win * 4096 + winId rq.win, gen := 0, va := 1, mset := 0, addr := 0, copy := none }]
    asked := [(winSpace rq.win, 1)], flaws := [64], clk := 128 * 60 }
theorem witness_CacheSlots : (∀ e ∈ bs.drops, e.left ≠ []) ∧ bs.tasks = [] ∧ bs.slotNow = 3 ∧ State.reset.slotNow ≠ 3 ∧ kget bs.lines 6 = none ∧
    bs.deadTag key1 = false ∧ (kget bs.lines key1).map (·.pinned) = some true ∧ bs.deadTag 5 = true ∧
    bs.deadTag (key1 + 1) = false ∧ (kget bs.lines (key1 + 1)).map (fun l => (l.pinned, l.dirty)) = some (false, false) ∧
    State.reset.frozenFor 16 = none ∧ (bs.frozenFor 16).isSome = true ∧ ((bs.frozenFor 16).map bs.copyRoom) = some true := by decide +kernel
/-- A copy pool of one stack that is full. -/
def bf : State := State.setSys
  { bs with frozen := bs.frozen ++ List.replicate 4096 { snap := 1, win := 1, gen := 0, va := 7, mset := 1, addr := 0, copy := some [] } } 0x0111 1 1
theorem witness_CacheSlots_full : (bf.frozenFor 16).map bf.copyRoom = some false := by decide +kernel
/-- A slice that drops a line, one whose entry is struck off, a second sweep of a slot, an L1 sweep and a patrol. -/
theorem witness_CacheSlots_units :
    (let ks := (bs.sweepKeys 64 ((bs.lines.filter fun l => l.2.slice == 0).map (·.1))).2
     ks.contains 5 = true ∧ (bs.drops.any (·.names 5)) = true) ∧ bs.slotDone 64 = 0 ∧ (bs.sweepSlice 0).slotDone 64 = 1024 ∧
    (let s := { bs with clk := 128 * 124 + 2 * 8192 }
     s.slotNow = 3 ∧ s.drops.all s.dropRipe = true) ∧ bs.slotDone 192 = 0 ∧ (bs.sweepL1 0).slotDone 192 = 1024 ∧
    bs.slotDone 16 = 0 ∧ (bs.patrol 0).slotDone 16 = 65536 ∧ (bs.patrol 0).flaws = [] := by decide +kernel
/-- A state in a slot. -/
def st (slot : Nat) : State := { State.reset with clk := 128 * slot }
/-- A snapshot without room for its rows, and a page on the move. -/
def sn : Snap := { num := 1, ctx := 0, desc := 0, ep := none, tva := 0, tlen := 65663, count := 0, err := false, pts := 0 }
def po : PageOp := { uid := 1, wave := 0, ra := 0, ctx := 0, va := 65536, size := 2097152, newAddr := 0, moved := 0, mset := 0 }
def ys : State := { st 58 with snaps := [sn], frozen := [{ snap := 1, win := 1, gen := 0, va := 1, mset := 0, addr := 0, copy := none }], groups := [2] }
theorem witness_LapSlots : State.reset.uc / 4096 ≤ State.reset.lap ∧ State.reset.lap < ({ State.reset with clk := 8192 } : State).uc / 4096 ∧
    State.reset.bootFailed = false ∧ ({ State.reset with boot := 2 } : State).bootFailed = true ∧
    State.reset.slotNow ≠ 2 ∧ ys.slotNow = 2 ∧ ys.snaps.find? (fun n => n.num == 1) = some sn ∧ (∃ f ∈ ys.frozen, f.snap = 1) ∧
    sn.tlen < (sn.count + 1) * 65664 ∧ (st 62).slotNow = 4 ∧ po.moved + 2 ^ (st 62).msetLog po.mset < po.size / 65536 ∧ (st 63).slotNow = 5 ∧ 15 < 16 ∧
    ((st 63).word (raKey (telemetryRa 15) + 0x200)).getLsbD 63 = false ∧ ys.groups.contains 2 = true ∧ ys.groups.contains 1 = false := by decide +kernel
/-- A HOST window of two granules whose first 513 lines are there, a frozen granule of another page, and a snapshot that drains
it there. -/
def dw : Win := { hbm with size := 0x20000, attr := 128 }
def dl (i : Nat) : Nat := lineTag (winKey 0 false 1) 0 (0x10000 + 128 * i)
def dn_ : Snap := { sn with tva := 0x10000, tlen := 65664 }
def fz : Frozen := { snap := 1, win := 1, gen := 0, va := 5, mset := 0, addr := 0, copy := none }
def dr : State :=
  { st 58 with
    wins := [(winKey 0 false 1, dw)], leaves := marks [(0, 0x10000, winKey 0 false 1), (0, 0x20000, winKey 0 false 1)]
    lines := (List.range 513).map fun i => (dl i, ln), snaps := [dn_], frozen := [fz] }
theorem kget_map_const (f : Nat → Nat) (l : Line) (is : List Nat) (i : Nat) (h : i ∈ is) : kget (is.map fun i => (f i, l)) (f i) = some l := by
  induction is with
  | nil => cases h
  | cons j js ih =>
    by_cases e : f j = f i
    · simp [kget, e]
    · have : i ∈ js := (List.mem_cons.1 h).resolve_left fun e' => e (e' ▸ rfl)
      simp only [List.map_cons, kget, if_neg (Ne.symm e)]
      exact ih this
theorem dr_line (i : Nat) (h : i < 513) : kget dr.lines (dl i) = some ln := by
  rw [show dr.lines = (List.range 513).map fun i => (dl i, ln) by unfold dr; with_reducible rfl]
  exact kget_map_const dl ln _ i (List.mem_range.2 h)
theorem dr_checks : ∀ i < 513, (dr.checkRange { ctx := 0, core := 192, super := true } (0x10000 + 128 * i) 128 1 false true).toOption =
    some (winKey 0 false 1, 0) ∧ (0x10000 + 128 * i) % 128 = 0 ∧ dr.frozenAt (winKey 0 false 1) 0 (0x10000 + 128 * i) true = false ∧
    dr.lostAt 0 (0x10000 + 128 * i) = false := by
  decide +kernel
theorem witness_LapSlots_drain : dr.slotNow = 2 ∧ dr.snaps.find? (fun n => n.num == 1) = some dn_ ∧ (∃ f ∈ dr.frozen, f.snap = 1) ∧
    (dn_.count + 1) * 65664 ≤ dn_.tlen ∧ dn_.ep = none ∧ dn_.tva + 65664 * dn_.count = 0x10000 ∧ dr.cover dn_.ctx 0x10000 = some (winKey 0 false 1, dw) ∧
    attrKind dw.attr = 1 ∧ dw.gen = 0 ∧ kget dr.wins (winKey 0 false 1) = some dw := by decide +kernel
theorem witness_LapSlots_lines : ∀ i < 513, ∃ l, LineReady dr 0 (oq (0x10000 + 128 * i) 128) dw l true := fun i h =>
  ⟨ln, line_ready _ _ _ (by decide +kernel) (dr_line i h) ⟨rfl, rfl⟩
    ⟨.inl rfl, rfl, rfl, by decide, by decide⟩ ⟨(dr_checks i h).2.2.2, by show 0x10000 ≤ _ ∧ _ < 0x10000 + 0x20000; omega⟩ (by decide +kernel) rfl
    (dr_checks i h).2.2.1 (by decide +kernel)⟩
/-- The last drain step of a snapshot whose descriptor ends at the end of a line. -/
def dn2 : Snap := { sn with desc := 0x10060, err := true, count := 3 }
def de : State :=
  { st 58 with
    wins := [(winKey 0 false 1, hbm)], leaves := marks [(0, 0x10000, winKey 0 false 1)], lines := [(dl 0, ln)], snaps := [dn2] }
theorem witness_LapSlots_end : de.slotNow = 2 ∧ de.snaps.find? (fun n => n.num == 1) = some dn2 ∧ (∀ f ∈ de.frozen, f.snap ≠ 1) ∧
    (dn2.desc + 24) % 128 + 8 = 128 ∧ (de.checkRange { ctx := 0, core := 192, super := true } (dn2.desc + 24) 8 1 false true).toOption =
      some (winKey 0 false 1, 0) ∧ ln.data.length = 128 := by decide +kernel
theorem witness_LapSlots_word : LineReady de 0 (oq (dn2.desc + 24) 8) hbm ln true :=
  line_ready _ _ _ rfl (by decide +kernel) ⟨rfl, rfl⟩ ⟨.inl rfl, rfl, rfl, by decide, by decide⟩ (by decide +kernel) rfl rfl rfl rfl
/-- A hurdle in the scratchpad of the block, and a state in which a wave's oldest access acts on it where memory holds some cells. -/
def hr : Req := { mkReq 0 0 0x20000 16 0 with win := winKey 1 false 2 }
def hx (op : AccOp) (m : List Host.Cell) : State := { ms (pw (ac op [hr])) with mem := m }
theorem reset_pend : ∀ e ∈ State.reset.waves, e.2.pend = [] := by decide
theorem pend_hx (op : AccOp) (m : List Host.Cell) (v : Nat) (q : Acc) (h : q ∈ ((hx op m).wave v).pend) : v = 16 ∧ q = ac op [hr] := by
  unfold State.wave at h
  rw [show (hx op m).waves = kset State.reset.waves 16 (pw (ac op [hr])) from rfl, kget_kset] at h
  split at h
  · exact ⟨‹_›, by simpa [pw] using h⟩
  · cases e : kget State.reset.waves v with
    | none => rw [e] at h; cases h
    | some y => rw [e] at h; exact absurd h (by simp [show y.pend = [] from reset_pend _ (mem_of_kget e)])
/-- One arrival is left, and one in the second phase with OVERRUN. -/
def hm : List Host.Cell := [(2 ^ 40 + 4, 1), (2 ^ 40 + 6, 1)]
def ho : List Host.Cell := [(2 ^ 40 + 4, 1), (2 ^ 40 + 8, 3)]
/-- The hurdle operations with the memory that each meets. -/
def hops : List (AccOp × List Host.Cell) :=
  [(.hdlInit 5 true, []), (.hdlInit 0x80000000 false, hm), (.hdlExpect 1, hm), (.hdlExpect 0x7FFFFFFF, [(2 ^ 40, 1)]), (.hdlArrive 0, hm), (.hdlTest 1 true, hm),
   (.hdlTest 1 false, ho), (.hdlWait false, hm), (.hdlWait true, hm)]
theorem witness_ScratchAccesses_hurdles : hr.len = 16 ∧ (∀ e ∈ hops, AtHead (hx e.1 e.2) 16 (pw (ac e.1 [hr])) (ac e.1 [hr]) [] ∧
    ScratchReady (hx e.1 e.2) 1 hr ∧ (∀ sp, ((hx e.1 e.2).sysReg 0x0102 sp).toNat % 8 = 0) ∧
    (∀ v ∈ (hx e.1 e.2).waves, ∀ p ∈ v.2.paths, p.heldOn hr.va = false) ∧
    ∀ v, ∀ q ∈ ((hx e.1 e.2).wave v).pend, (v = 16 ∧ q = ac e.1 [hr]) ∨ q.initAt hr.va = false) ∧
    (hx (.hdlInit 0x80000000 false) hm).charging 1 hr.va = false ∧ kget (hx (.hdlInit 0x80000000 false) hm).blocks 1 = some tb ∧
    (let h (m : List Host.Cell) : Hurdle := hurdleOf (ofBytes ((hx .store m).bytes (2 ^ 40) 16))
     (h hm).acnt = 1 ∧ (h hm).overrun = false ∧ (h hm).phase = false ∧ (h ho).overrun = true ∧ (h [(2 ^ 40, 1)]).pend + 0x7FFFFFFF > 2147483647) := by
  refine ⟨rfl, fun e h => ⟨⟨rfl, rfl, rfl, rfl, rfl, rfl, no_posts rfl⟩, ?_, fun sp => ?_, ?_, fun v q hq => .inl (pend_hx _ _ v q hq)⟩, by decide +kernel⟩
  · have : ∀ e ∈ hops, (hx e.1 e.2).lostAt 1 hr.va = false ∧ 2 ^ 40 ≤ (hx e.1 e.2).scratchByte hr.win hr.va := by decide +kernel
    exact ⟨by decide, (this e h).1, ⟨scr, rfl, by decide, .inl rfl, rfl, rfl, by decide⟩, rfl, rfl, (this e h).2⟩
  · unfold State.sysReg hx ms us
    simp [State.reset, kget, sysReset]
  · revert e h
    decide +kernel

/-- A handle of the arena at 0x10000 of context 1, one that names none, and a state with an access at its head that has no range. -/
def hd1 : BitVec 64 := winHandle (winKey 1 false 1) 0
def xa (op : AccOp) : State := ms (pw (ac op []))
theorem head_xa (op : AccOp) : AtHead (xa op) 16 (pw (ac op [])) (ac op []) [] := ⟨rfl, rfl, rfl, rfl, rfl, rfl, no_posts rfl⟩
/-- The reason for which ARENA.NEW refuses. -/
def newReason (s : State) (k : Nat) (win : Win) (n attr : BitVec 64) : Nat :=
  if s.attrBad (pw (ac .store [])) k win attr = true ∨ n = 0 ∨ n.toNat % 65536 ≠ 0 then 1 else if win.state = .sealed then 2
  else if s.freeId (winSpace k) = none then 3 else if win.base + win.size < (s.bump k + 65535) / 65536 * 65536 + n.toNat then 4 else 0
/-- Drop lists that are full, and that list the next generation. -/
def fullDrops : List Drop := List.replicate 256 { win := 7, gen := 0, lap := 0, left := List.range 128 }
theorem witness_ScratchAccesses_arenas :
    (xa .store).arenaOf 1 99 = none ∧ ((xa .store).arenaOf 1 hd1).map (·.1) = some (winKey 1 false 1) ∧ arenaHandle (.arenaSeal hd1) = some hd1 ∧
    (let k := winKey 1 false 1
     let s := xa .store
     let top (n : Nat) := (s.bump k + 127) / 128 * 128 + (n + 127) / 128 * 128
     (hbm.base + hbm.size < top 0x20001 ∧ top 128 ≤ hbm.base + hbm.size ∧ hbm.base + hbm.size < 2 ^ 56) ∧
     newReason s k hbm 0 0 = 1 ∧ newReason s k hbm 0x30000 0 = 4 ∧ newReason s k hbm 65536 0 = 0 ∧ (s.freeId (winSpace k)).isSome = true ∧
     s.writersOf 16 (s.subtree 3 k) = false ∧ (s.flushLines fun t => tagOf k t).toOption.isSome = true ∧
     s.dropListed k 1 = false ∧ s.dropRoom 1 = true ∧ ({ s with drops := fullDrops } : State).dropRoom 1 = false ∧
     ({ s with drops := [{ win := winSpace k * 4096 + winId k, gen := 1, lap := 0, left := [0] }] } : State).dropListed k 1 = true ∧
     inReserved 0x10000 = false ∧ inReserved 0xFF000000000000 = true ∧ s.cover 1 0x30000 = none ∧ (s.cover 1 0x10000).isSome = true) := by decide +kernel
/-- An arena with 256 children, which nests too many to reset or drop at once. -/
def many : State :=
  { xa .store with wins := (winKey 1 false 1, hbm) :: (List.range 256).map fun i => (winKey 1 false (i + 2), { hbm with parent := 1 }) }
theorem witness_ScratchAccesses_many : (many.subtree 2 (winKey 1 false 1)).length = 257 := by decide +kernel

/-- A wave's oldest access of an operation over the words of a line at 0x10000, of which it reads `n`; nodes, tasks, a HOST window, snapshots and frozen granules. -/
def wordsReq (n : Nat) : List Req := (List.range n).map fun i => { mkReq 0 i (0x10000 + 8 * i) 8 0 with win := winKey 1 false 1 }
def nd1 (bin : List BinRec) : Node := { nd bin with ctx := 1 }
def xw (op : AccOp) (n : Nat) (ws : List Nat) (snaps : List Snap) (frozen : List Frozen) (bin : List BinRec) : State :=
  { ms (pw (ac op (wordsReq n))) with
    wins := [(winKey 0 false 1, hbm), (winKey 1 false 1, hbm), (winKey 1 false 2, scr), (winKey 1 false 3, { hbm with base := 0x40000, attr := 128 })]
    leaves := marks [(1, 0x10000, winKey 1 false 1), (1, 0x20000, winKey 1 false 2), (1, 0x40000, winKey 1 false 3)]
    lines := [(lineTag (winKey 1 false 1) 0 0x10000, { ln with data := (wordLine ws).data, dirty := false })]
    nodes := [(1, nd1 bin)], tasks := [(1, tk)], snaps := snaps, frozen := frozen }
theorem head_xw (op : AccOp) (n : Nat) (ws : List Nat) (snaps : List Snap) (frozen : List Frozen) (bin : List BinRec) :
    AtHead (xw op n ws snaps frozen bin) 16 (pw (ac op (wordsReq n))) (ac op (wordsReq n)) [] := ⟨rfl, rfl, rfl, rfl, rfl, rfl, no_posts rfl⟩
/-- Does the access read its ranges whole, with a property of what it has read? -/
def readsAll (s : State) (p : State → List (BitVec 64) → Bool) : Bool :=
  let x := s.wave 16
  match s.performLoad x.who x.pts 0 false (x.pend.flatMap (·.reqs)) with
  | .done u _ out [] none => p u (out.map fun o => BitVec.ofNat 64 o.2)
  | _ => false
theorem witness_ScratchAccesses_bins :
    let s (sp : Bool) (bin : List BinRec) := xw (.enq sp 192 1 0x10000) 1 [5] [] [] bin
    ((s false []).nodeOf 1 1).map (·.recSize) = some 8 ∧ (wordsReq 1).foldl (fun t r => t + r.len) 0 = 8 ∧
    (nd1 [br]).binCap ≤ (nd1 [br]).occupancy ∧ (nd1 []).occupancy < (nd1 []).binCap ∧ readsAll (s false []) (fun _ ws => ws == [5]) = true ∧
    readsAll (s true []) (fun u _ => (kget u.tasks 1).map (·.views) == some []) = true ∧ kget (s true []).blocks 1 = some tb ∧ tb.task = 1 := by
  decide +kernel
/-- What refuses VIEW.DECL of a range. -/
def declBad (s : State) (r : Req) (n : Nat) : Bool := match kget s.wins r.win with
  | some v => decide (v.base + v.size < r.va + n) || attrSync v.attr || attrKind v.attr == 3 || winGlobal r.win
  | none => true
theorem witness_ScratchAccesses_views :
    let s := xw (.viewDecl 0 0 1 192 128) 1 [5] [] [] []
    let r : Req := { mkReq 0 0 0x10000 8 0 with win := winKey 1 false 1 }
    (s.taskOf tw).map (·.1) = some 1 ∧ (wordsReq 1) = [r] ∧ declBad s r 128 = false ∧ declBad s r 0x10001 = true ∧ tk.views.length < 8 ∧
    ({ tk with views := List.replicate 8 vw } : Task).views.length = 8 ∧ vw.base < 0x10000 + 128 ∧ 0x10000 < vw.base + vw.size := by decide +kernel
theorem witness_ScratchAccesses_slots :
    (let cs := (List.range 16).map fun i => ((0x6 : BitVec 64).extractLsb' (4 * i) 4).toNat
     (cs.any fun c => decide (5 < c)) = true) ∧
    (let cs := (List.range 16).map fun i => ((0x1 : BitVec 64).extractLsb' (4 * i) 4).toNat
     (cs.any fun c => decide (5 < c)) = false ∧ 16 ≤ ((cs ++ State.reset.slotTab.drop 16).filter (· == 0)).length) := by decide +kernel
/-- SNAP of one arena: its operation, the words of its list and descriptor, and where each of its outcomes comes from. -/
def snapOp : AccOp := .snap 192 0x10000 1
def snapAt (ws : List Nat) (snaps : List Snap) (frozen : List Frozen) (p : State → Bool) : Bool :=
  readsAll (xw snapOp 5 ws snaps frozen []) fun u ws =>
    let q := ws.drop 1
    ((u.drainOf 1 (q.getD 0 0) (q.getD 1 0) (q.getD 2 0) (q.getD 3 0)).isSome) && p u
def frz : Frozen := { snap := 1, win := winSpace (winKey 1 false 1) * 4096 + 1, gen := 0, va := 1, mset := 0, addr := 0, copy := none }
theorem witness_ScratchAccesses_snaps :
    (let s := xw snapOp 5 [hd1.toNat, 0, 0x40000, 0, 1 <<< 32] [] [] []
     readsAll s (fun u ws => (u.drainOf 1 (ws.getD 1 0) (ws.getD 2 0) (ws.getD 3 0) (ws.getD 4 0)).isNone) = true) ∧
    snapAt [99, 0, 0x40000, 0, 0] [] [] (fun u => (u.arenaOf 1 99).isNone) = true ∧
    snapAt [hd1.toNat, 0, 0x40000, 0, 0] (List.replicate 4 sn) [] (fun u => (u.arenaOf 1 hd1).isSome && decide (4 ≤ u.snaps.length)) = true ∧
    snapAt [hd1.toNat, 0, 0x40000, 0, 0] [] [frz] (fun u => u.frozen.any fun f => f.win == frz.win) = true ∧
    snapAt [hd1.toNat, 0, 0x40000, 0, 0] [] [] (fun u => u.frozen.isEmpty && (u.flushLines fun t => tagOf (winKey 1 false 1) t).toOption.isSome) = true := by
  decide +kernel
/-- A block on core 0 whose task has a buffer, with full drop lists: its reset waits, and so does its end. -/
def held : State := { gs (.syswr 0x0207 0 0) with
  blocks := [(1, tb)], tasks := [(1, { tk with views := [vw], state := .halted })], drops := List.replicate 256 { win := 7, gen := 0, lap := 0, left := List.range 128 } }
theorem witness_RegisterWrites_room : held.resetRoom 0 = false ∧ (gs (.syswr 0x0207 0 0)).resetRoom 0 = true ∧ (4096#64).toNat % 4096 = 0 ∧
    (1#64).toNat % 4096 ≠ 0 := by decide +kernel
theorem witness_TaskEvents_room : (kget held.tasks 1).map held.endRoom = some false ∧ (tsk tk tb tw).endRoom tk = true ∧
    (tsk tk tb tw).slotNow ≤ 1 ∧ 1 < (st 58).slotNow := by decide +kernel
theorem witness_PowerEvents_clamp : State.reset.portsUsed 5 = false ∧ State.reset.clampedNow 5 = false ∧ (State.reset.notePort 5 2).portsUsed 5 = true ∧
    ({ State.reset with clampAt := [(5, 1)] } : State).clampedNow 5 = true := by decide +kernel
/-- A host line, which a core of cluster 0 wrote last, of a cluster that is to be gated, and its page table. -/
def gh (l : Line) : State := ({ os with wins := [(winKey 0 false 1, hostw)], lines := [(ok_, l)] } : State).setSys 0x0208 0 2
/-- The lines of which it holds a half. -/
def heldBy (s : State) (n : Nat) : List Nat := (s.lines.filter fun e => e.2.halves != (0, 0) &&
  ((kget s.l1 (l1Key n e.1)).isSome || (decide (e.2.writer < 192) && clusterOf e.2.writer == n))).map (·.1)
theorem witness_PowerEvents_gate :
    (let l : Line := { ln with halves := (3, 1), writer := 0 }
     (gh l).powerReady 0 = true ∧ ((gh l).sysReg 0x0208 0).toNat % 4 = 2 ∧ heldBy (gh l) 0 = [ok_] ∧ ((gh l).leaveSlice ok_).toOption.isSome = true) ∧
    (let l : Line := { ln with halves := (1, 1), writer := 0, dirty := false }
     heldBy (gh l) 0 = [ok_] ∧ heldBy (gh l) 1 = []) ∧ heldBy (gh { ln with sharers := [(0, 9)] }) 0 = [] := by decide +kernel
/-- A wave with a spilled path that waits. -/
def spw (h : Hold) : Wave := { tw with stack := [.path { tw.pca with hold := h }] }
theorem witness_LimitEvents_spilled :
    (let s := at_ (spw (.hdlWait 2 0x20000 true true (some 1024) 1)) 1024
     s.hurdleLate tw.pca = false ∧ s.waveAway tw = false ∧ s.limitPassed { tw.pca with hold := .hdlWait 2 0x20000 true true (some 1024) 1 } (some 1024) = true) ∧
    (let s := at_ (spw (.waitw 2 1 (some 1024) 192)) 1024
     s.waitwLate tw.pca = false ∧ s.limitPassed { tw.pca with hold := .waitw 2 1 (some 1024) 192 } (some 1024) = true) ∧
    tw.stack = [] ∧ tw.pca.live = true ∧ tw.park = none ∧ tw.stopped = false := by decide +kernel
/-- A merge of the host line, and a copy in an L1 where no slice holds the line. -/
theorem witness_Snoops_holds : hs.mergeTag hk = false ∧
    ({ hs with tasks := [(1, { tk with merge := some { mg with ctx := 0 } })] } : State).mergeTag hk = true ∧ hs.hostCopy hk = false ∧
    (let s : State := { hs with lines := [], l1 := [(l1Key 3 hk, { data := ln.data, wts := 2, rts := 9, held := false, poison := [] })] }
     s.hostCopy hk = true ∧ s.hostLine hk = false ∧ s.mergeTag hk = false) := by decide +kernel
theorem witness_LapSlots_units : ys.drainRoom fz = true ∧ ys.inHost sn.ctx (sn.tva + 65664 * sn.count) = false ∧ ys.isPeer 3 = false ∧
    ({ ys with slotAt := ys.slotNo, slotUse := [(0, 65536)] } : State).drainRoom fz = false ∧ dr.drainRoom fz = true ∧ (st 62).slotDone 32 = 0 ∧
    ((st 62).noteSlot 32 1).slotDone 32 = 1 ∧ (st 63).slotDone 255 = 0 ∧
    ([{ uid := 7, wave := 0, kind := 1, arg := 192 }] : List AsyncOp).filter (fun o => o.kind == 1) = [{ uid := 7, wave := 0, kind := 1, arg := 192 }] := by
  decide +kernel
/-- An instruction placed to run next whose operand S1 is poisoned. -/
def pi : State := (State.reset.withFetchWord 96 (encode (.saddRI fT 0 192 193 12)).toNat).modWave 16 fun x => { x with bad := [sBad 193] }
theorem witness_StepRunsDecoded_poison : (match pi.agenda, kget pi.waves 16 with
    | [.issue 16 false], some x => match pi.fetch x x.pca.pc with
      | .ok r word => (r.checkWord x word).toOption == some (.saddRI fT 0 192 193 12) && r.canIssue 16 false &&
          r.eligible 16 false x (rawOf word) (.saddRI fT 0 192 193 12) && r.operandBad x (r.activeAt 16 false fT) fT (.saddRI fT 0 192 193 12)
      | _ => false
    | _, _ => false) = true := by decide +kernel
/-- The state in which the agenda names the issue of a placed NOP. -/
def fs : State := State.reset.withFetchWord 96 0x8007870000000000000000
theorem witness_StepRunsDecoded : (match fs.agenda, kget fs.waves 16 with
      | [.issue 16 false], some x => match fs.cover x.ctx placePc.toNat with
        | some (k, win) => match kget fs.lines (lineTag k win.gen placePc.toNat) with
          | some l =>
            let r : State := { fs with agenda := [] }
            let word := wordOfBytes ((l.data.drop (placePc.toNat % 128)).take 12)
            x.pca.pc == placePc && k != reservedWin && win.state == .sealed &&
              decide (placePc.toNat + 12 ≤ win.base + win.size) && decide (attrKind win.attr < 3) && !fs.migrating k placePc.toNat &&
              decide (placePc.toNat % 128 ≤ 116) && l.poison == [] && (decode word).toOption == some (.nop fT) &&
              (r.checkWord x word).toOption == some (.nop fT) && r.canIssue 16 false && r.eligible 16 false x (rawOf word) (.nop fT) &&
              !r.operandBad x (r.activeAt 16 false fT) fT (.nop fT)
          | none => false
        | none => false
      | _, _ => false) = true := by decide +kernel
theorem witness_DecodeEncode : WellFormed (.saddRR fT 0 192 193 194) := (wellFormed_iff _).1 (by decide)
theorem witness_MemoryStaysCanonical : memWf fs.mem = true ∧ (match step fs with
      | .next _ => true
      | _ => false) = true := by decide +kernel

end Sys2Proof.Tests
end

section
/-! PROOF. Words read back: the encoder puts every field where the decoder of its form looks for it (Tables 1.1, 1.10). -/
namespace Sys2Proof
open Sys2Proof.Machine

/-- A mask meets no bit of an append when its halves meet none of the parts. -/
theorem append_and_mask {m n : Nat} (x : BitVec m) (y : BitVec n) (k : Nat) :
    (x ++ y).toNat &&& k = 0 ↔ x.toNat &&& k / 2 ^ n = 0 ∧ y.toNat &&& k % 2 ^ n = 0 := by
  have hy := y.isLt
  have hdiv : ((x ++ y).toNat &&& k) / 2 ^ n = x.toNat &&& k / 2 ^ n := by
    rw [← Nat.shiftRight_eq_div_pow, Nat.shiftRight_and_distrib, Nat.shiftRight_eq_div_pow, Nat.shiftRight_eq_div_pow,
      BitVec.toNat_append, ← Nat.shiftLeft_add_eq_or_of_lt hy, Nat.shiftLeft_eq]
    congr 1
    rw [Nat.mul_comm, Nat.mul_add_div (by positivity), Nat.div_eq_of_lt hy, Nat.add_zero]
  have hmod : ((x ++ y).toNat &&& k) % 2 ^ n = y.toNat &&& k % 2 ^ n := by
    rw [Nat.and_mod_two_pow, BitVec.toNat_append, ← Nat.shiftLeft_add_eq_or_of_lt hy, Nat.shiftLeft_eq,
      Nat.mul_comm, Nat.mul_add_mod, Nat.mod_eq_of_lt hy]
  rw [← hdiv, ← hmod]
  constructor
  · intro h; rw [h, Nat.zero_div, Nat.zero_mod]; exact ⟨rfl, rfl⟩
  · intro ⟨h1, h2⟩
    rw [← Nat.div_add_mod ((x ++ y).toNat &&& k) (2 ^ n), h1, h2, Nat.mul_zero]

theorem Raw.body_eq (r : Raw) : r.body = (r.mid ++ r.b ++ r.a ++ r.d).toNat := by
  have append (m n : Nat) (x : BitVec m) (y : BitVec n) : (x ++ y).toNat = x.toNat * 2 ^ n + y.toNat := by
    rw [BitVec.toNat_append, ← Nat.shiftLeft_add_eq_or_of_lt y.isLt, Nat.shiftLeft_eq]
  rw [append, append, append, Raw.body]
  omega
end Sys2Proof

namespace Sys2Proof
open Sys2Proof.Machine

/-- What `decodeRaw` asks of a cut-up word before the checks on its fields' values: a form of an assigned opcode, built as `i`, with
nothing in the bits that the form leaves unused. -/
structure Reads (r : Raw) (i : Instr) : Prop where
  fmt : r.fmt.toNat < 6
  assigned : opcodeAssigned r.opc.toNat = true
  form : buildForm r = some i
  unused : r.body &&& r.reserved = 0
  stray : r.strayD = false
  sched : schedOf i = some r.sched

theorem decodeRaw_of_reads {r : Raw} {i : Instr} (h : Reads r i) (wf : WellFormed i) : decodeRaw r = .ok i := by
  obtain ⟨hmod, hops, f, hf, hok⟩ := wf
  obtain rfl : r.sched = f := by rw [h.sched] at hf; exact Option.some.inj hf
  have hfmt := h.fmt
  unfold schedOk at hok
  simp only [Bool.and_eq_true, Bool.or_eq_true, Bool.not_eq_true', decide_eq_true_eq, beq_iff_eq, bne_iff_ne] at hok
  obtain ⟨⟨hsig, hguard⟩, hun⟩ := hok
  have hsig' : ¬(12 ≤ r.sched.sig.toNat ∧ r.sched.sig.toNat ≤ 14) := by
    rcases hsig with h | h
    · omega
    · rw [h]; decide
  have hguard' : ¬(r.sched.guard = 0xF ∨ (mustBeUnguarded i = true ∧ r.sched.guard ≠ 7)) := by
    rintro (h | ⟨h1, h2⟩)
    · exact hguard h
    · rcases hun with h | h
      · rw [h1] at h; cases h
      · exact h2 h
  simp only [decodeRaw, if_neg (Nat.not_le.2 hfmt), if_neg hsig', h.assigned, h.form, h.unused, hmod, hops, h.stray, if_neg hguard']
  simp


/-! ### The two opcodes that stand for two forms each -/

theorem vpackOk_not_block {df : BitVec 5} {rm : BitVec 3} {sat : Bool} (h : vpackOk df rm sat = true) : df.extractLsb' 1 4 ≠ 8 := by
  have codes : ∀ df : BitVec 5, ((decide (1 ≤ df.toNat) && decide (df.toNat ≤ 7)) || df == 0xA) = true → df.extractLsb' 1 4 ≠ 8 := by
    decide
  unfold vpackOk at h
  simp only [Bool.and_eq_true _ _] at h
  exact codes df h.1.1

theorem reserved_vpack (f : Sched) (mid : BitVec 32) (b a d : Reg) : Raw.reserved ⟨0, f, mid, b, a, d, 0x51⟩ =
    if mid.extractLsb' 9 4 = 8 then 0xFFE3E000000000 else 0xFFC3E0FFFF0000 := rfl

/-- Bits 12:9 of the middle word tell VPACK from VPACK.MX8 (R93). -/
theorem reads_vpack {f : Sched} {df : BitVec 5} {rm : BitVec 3} {sat : Bool} {d a : Reg} (h : vpackOk df rm sat = true) :
    Reads ⟨0, f, 0#10 ++ BitVec.ofBool sat ++ rm ++ 0#5 ++ df ++ 0#8, 0#8, a, d, 0x51⟩ (.vpack f df rm sat d a) := by
  have hn : ¬ (0#10 ++ BitVec.ofBool sat ++ rm ++ 0#5 ++ df ++ 0#8 : BitVec 32).extractLsb' 9 4 = 8 := by
    simp (disch := decide) only [extract_hi, extract_lo, Nat.reduceSub]
    exact vpackOk_not_block h
  refine ⟨by dsimp only; decide, rfl, (congrArg some (if_neg hn)).trans ?_, ?_, rfl, rfl⟩
  · simp (disch := decide) only [extract_hi, extract_lo, extract_all, lsb_hi, lsb_lo, Nat.reduceSub, BitVec.getLsbD_ofBool, decide_true,
      Bool.true_and]
  · rw [reserved_vpack, if_neg hn]
    simp only [Raw.body_eq, append_and_mask]
    simp

theorem reads_vpackMx8 (f : Sched) (mx4 : Bool) (rm : BitVec 3) (d a b c : Reg) :
    Reads ⟨0, f, 0#11 ++ rm ++ 0#5 ++ 8#4 ++ BitVec.ofBool mx4 ++ c, b, a, d, 0x51⟩ (.vpackMx8 f mx4 rm d a b c) := by
  have hb : (0#11 ++ rm ++ 0#5 ++ 8#4 ++ BitVec.ofBool mx4 ++ c : BitVec 32).extractLsb' 9 4 = 8 := by
    simp (disch := decide) only [extract_hi, extract_lo, extract_all, Nat.reduceSub]
    rfl
  refine ⟨by dsimp only; decide, rfl, (congrArg some (if_pos hb)).trans ?_, ?_, rfl, rfl⟩
  · simp (disch := decide) only [extract_hi, extract_lo, extract_all, lsb_hi, lsb_lo, Nat.reduceSub, BitVec.getLsbD_ofBool, decide_true,
      Bool.true_and]
  · rw [reserved_vpack, if_pos hb]
    simp only [Raw.body_eq, append_and_mask]
    simp

/-- TEST, bit 4 of field B, tells WAITC from WAITC.TEST, which alone has a field D (Table 6.1). -/
theorem reads_waitc (f : Sched) (n : BitVec 4) (k : BitVec 6) : Reads ⟨1, f, 0#26 ++ k, 0#4 ++ n, 0#8, 0#8, 0xB0⟩ (.waitc f n k) := by
  have ht : ¬ (0#4 ++ n : BitVec 8).getLsbD 4 = true := by
    rw [lsb_hi _ _ _ (by decide)]; decide
  refine ⟨by dsimp only; decide, rfl, (congrArg some (if_neg ht)).trans ?_, ?_, by simp [Raw.strayD], rfl⟩
  · simp (disch := decide) only [extract_lo, extract_all]
  · conv in Raw.reserved _ => whnf
    simp only [Raw.body_eq, append_and_mask]
    simp

theorem reads_waitcTest (f : Sched) (n : BitVec 4) (k : BitVec 6) (d : Reg) :
    Reads ⟨1, f, 0#26 ++ k, 0#3 ++ 1#1 ++ n, 0#8, d, 0xB0⟩ (.waitcTest f n k d) := by
  have ht : (0#3 ++ 1#1 ++ n : BitVec 8).getLsbD 4 = true := by
    rw [lsb_hi _ _ _ (by decide), lsb_lo _ _ _ (by decide)]; decide
  refine ⟨by dsimp only; decide, rfl, (congrArg some (if_pos ht)).trans ?_, ?_, ?_, rfl⟩
  · simp (disch := decide) only [extract_lo, extract_all]
  · conv in Raw.reserved _ => whnf
    simp only [Raw.body_eq, append_and_mask]
    simp
  · simp only [Raw.strayD, ht, Bool.not_true, Bool.and_false, Bool.false_and]

/-! ### Every word that the encoder makes -/

/-- The fields of the word of a well-formed instruction read back as the instruction: each field stands where its form looks for it, and
the rest of the word is zero. -/
theorem reads_encode {i : Instr} {f : Sched} (hm : modOk i = true) (hs : schedOf i = some f) : Reads (rawOf (encode i)) i := by
  cases i <;> cases hs
  case hdlInitRelease => cases hm
  all_goals
    dsimp only [encode]
    rw [rawOf_join]
  case vpack => exact reads_vpack hm
  case vpackMx8 => exact reads_vpackMx8 ..
  case waitc => exact reads_waitc ..
  case waitcTest => exact reads_waitcTest ..
  all_goals
    refine ⟨by dsimp only; decide, rfl, (rfl : buildForm _ = some _).trans ?_, ?_, rfl, rfl⟩
    · simp (disch := decide) only [extract_hi, extract_lo, extract_all, lsb_hi, lsb_lo, Nat.reduceSub, BitVec.getLsbD_ofBool, decide_true,
        Bool.true_and]
    · conv in Raw.reserved _ => whnf
      simp only [Raw.body_eq, append_and_mask]
      simp

/-- Settles O59: the fields of an encoded word read back as the instruction, and the checks of Table 1.11 on their values are those that
make the instruction well-formed. -/
theorem decodeEncode : Obligations.DecodeEncode := by
  intro i wf
  have ⟨hm, _, f, hs, _⟩ := wf
  rw [decode, decodeRaw_of_reads (reads_encode hm hs) wf]

end Sys2Proof
end

section
/-! PROOF. Fetch and issue: the instruction of a present line is fetched, checked and run (R12, R13, R26, R38). -/
namespace Sys2Proof.Machine
open Sys2Proof

/-- What covers an address is a window of the table, with the rights of the address's leaf (R205). -/
theorem State.cover_window {s : State} {ctx va k : Nat} {win : Win} (h : s.cover ctx va = some (k, win)) :
    ∃ w rd wr, kget s.wins k = some w ∧ win = { w with rd := rd, wr := wr } := by
  unfold State.cover at h
  dsimp only at h
  split at h
  · cases h
  · cases hw : kget s.wins (leafWin ctx (dget 0 s.leaves (leafSlot ctx va))) with
    | none => rw [hw] at h; cases h
    | some w =>
      rw [hw] at h
      dsimp only at h
      split at h
      · cases h
      · cases h; exact ⟨w, _, _, hw, rfl⟩

/-- A line that its slice holds is read without a fill (R13, R218). -/
theorem State.fetchPiece_present {s : State} {a : Who} {pts k va len : Nat} {w v : Win} {keep : List Nat} {l : Line} (hk : k ≠ reservedWin)
    (hw : kget s.wins k = some v) (hkind : attrKind v.attr < 3) (hl : kget s.lines (lineTag k w.gen va) = some l) (hp : l.poison = []) :
    s.fetchPiece a pts k w va len keep = .ok (s, (l.data.drop (va % 128)).take len) := by
  have hloc : s.locOf { mkReq 0 0 va len 0 with win := k, gen := w.gen } =
      { kind := attrKind v.attr, key := lineTag k w.gen va, wk := k, va := va / 128 * 128 } := by
    simp [State.locOf, mkReq, hk, hw]
  unfold State.fetchPiece
  simp only [hloc, if_neg (Nat.not_le.2 hkind), State.fill, hl, State.poisoned, State.readAt]
  simp [hl, hp]

/-- R13: a fetch whose twelve bytes stand in one line that its slice holds. -/
theorem State.fetch_present {s : State} {x : Wave} {pc : Addr} {k : Nat} {win : Win} {l : Line} (hc : s.cover x.ctx pc.toNat = some (k, win))
    (hk : k ≠ reservedWin) (hst : win.state = .sealed) (hin : pc.toNat + 12 ≤ win.base + win.size) (hkind : attrKind win.attr < 3)
    (hm : s.migrating k pc.toNat = false) (hone : pc.toNat % 128 ≤ 116) (hl : kget s.lines (lineTag k win.gen pc.toNat) = some l)
    (hp : l.poison = []) : s.fetch x pc = .ok s (wordOfBytes ((l.data.drop (pc.toNat % 128)).take 12)) := by
  obtain ⟨v, rd, wr, hv, rfl⟩ := State.cover_window hc
  have hn : min 12 (128 - pc.toNat % 128) = 12 := by omega
  unfold State.fetch
  simp only [hc, hn, hm, State.fetchPiece_present (w := { v with rd := rd, wr := wr }) hk hv hkind hl hp]
  simp only at hst hin
  simp [hst, Nat.not_lt.2 hin]

theorem andNext_andNext (o : Result) (j k : State → State) : andNext (andNext o j) k = andNext o fun t => k (j t) := by
  cases o <;> rfl

/-- A step whose agenda names an issue. -/
theorem step_issue {s : State} {w : Nat} {pcb : Bool} {cs : List Choice} (h : s.agenda = .issue w pcb :: cs) :
    step s = andNext (issueStep w pcb { s with agenda := cs }) State.endStep := by
  unfold step; rw [h]; rfl

/-- Settles O57: the twelve bytes are fetched from the present line, so that what stands at the path is the decoded instruction. -/
theorem stepRunsDecoded : Obligations.StepRunsDecoded := by
  intro s w pcb cs x k win l i r va word sched act hag hx hc hk hst hin hkind hm hone hl hp hdec hchk hcan hel
  have hfetch : r.fetch x (x.path pcb).pc = .ok r word := State.fetch_present hc hk hst hin hkind hm hone hl hp
  have hwave : r.wave w = x := State.wave_of_kget hx
  have hprep : r.prepare w pcb = if r.operandBad x act sched i then .trap (r.raiseIssue w pcb sched (Trap.of 17 act))
      else .run (r.notePort x.core (portOf (rawOf word).opc.toNat)) i := by
    unfold State.prepare
    simp only [hcan, hwave, hfetch, hchk, hel, if_true]
    rfl
  rw [step_issue hag]
  constructor
  · intro hb
    rw [issueStep, hprep, hb]
    exact andNext_andNext ..
  · intro hb
    rw [issueStep, hprep, hb]
    rfl
end Sys2Proof.Machine

namespace Sys2Proof
/-- Settles O56: each word is cut up by Table 1.1, and each instruction put together. -/
theorem decodedWords : Obligations.DecodedWords := by
  unfold Obligations.DecodedWords
  decide
end Sys2Proof
end

section
/-! PROOF. Instructions that only issue: guarded off, or NOP (R25, R26, R28). -/
namespace Sys2Proof.Machine
open Sys2Proof

/-- What an instruction that only issues leaves: its path has moved on, and nothing else has happened. -/
def idled (s : State) (w : Nat) (pcb : Bool) (f : Sched) (lat : Nat) : State := (s.beginIssue w pcb f (some lat)).advance w pcb

theorem idled_spec {s : State} {w : Nat} {pcb : Bool} {x : Wave} (h : kget s.waves w = some x) (f : Sched) (lat : Nat) :
    Fixed s (idled s w pcb f lat) w pcb x f lat ∧ NoResult s (idled s w pcb f lat) w x := by
  have b := State.beginIssue_begun h pcb f (some lat)
  obtain ⟨r1, r2, r3, r4⟩ := State.advance_regs (s.beginIssue w pcb f (some lat)) w pcb
  obtain ⟨q1, q2, q3, q4⟩ := b.regs
  refine ⟨Fixed.of h (Effect.refl b.present), r1.trans q1, r2.trans q2, r3.trans q3, r4.trans q4, Queues.of b id fun k hk => ⟨k, hk, rfl, ?_⟩⟩
  intro q
  simp [portsOn]

section
variable {s : State} {w : Nat} {pcb : Bool} {x : Wave} {f : Sched}

/-! ### The shapes of the meanings, guarded off -/

theorem fixed_idle (h : Turn s w pcb x) (ha : activeAt s w pcb f = 0) (lat : Nat)
    (k : Nat → Bool → State → Wave → BitVec 32 → State → State) : fixed s f lat k = .next (idled s w pcb f lat) := by
  rw [fixed_eq h, if_pos ha]; rfl

theorem timed_idle (h : Turn s w pcb x) (ha : activeAt s w pcb f = 0) (k : Nat → Bool → State → Wave → BitVec 32 → State) :
    timed s f k = .next (idled s w pcb f 0) := by
  rw [timed, onTurn_eq h]
  exact congrArg _ (if_pos ha)

theorem control_idle (h : Turn s w pcb x) (ha : activeAt s w pcb f = 0) (lat : Nat) (target : State → Wave → Addr → Option Addr)
    (k : Nat → Bool → State → Wave → BitVec 32 → Addr → State → State) : control s f lat target k = .next (idled s w pcb f lat) := by
  rw [control, onTurn_eq h]
  exact congrArg _ (if_pos ha)

theorem supervisor_idle (h : Turn s w pcb x) (hx : x.super = true) (ha : activeAt s w pcb f = 0)
    (k : Nat → Bool → State → Wave → BitVec 32 → State) : supervisor s f k = .next (idled s w pcb f 0) := by
  rw [supervisor, onTurn_eq h, if_pos hx]
  exact congrArg _ (if_pos ha)

theorem execBrd_idle (h : Turn s w pcb x) (ha : activeAt s w pcb f = 0) (n : BitVec 3) (neg : Bool) (jlo jhi : Reg) (disp : BitVec 32) :
    exec (.brd f n neg jlo jhi disp) s = .next (idled s w pcb f 0) := by
  rw [exec_brd, execBrd, onTurn_eq h]
  exact congrArg _ (if_pos ha)

/-- NOP has no effect to leave out: it does the same whatever its active set is (R74). -/
theorem execNop_eq (h : Turn s w pcb x) : exec (.nop f) s = .next (idled s w pcb f 0) := by
  rw [exec_nop, execNop, fixed_eq h, ite_self]; rfl

/-! ### The instructions by their shapes -/

theorem scalarRows_idle (h : Turn s w pcb x) (ha : activeAt s w pcb f = 0) (t : BitVec 2) (d a b : Reg) (imm : BitVec 32) (y z : BitVec 64) :
    ∀ e ∈ scalarRows f t d a b imm y z, exec e.1 s = .next (idled s w pcb f e.2.1) := by
  simp only [scalarRows, List.forall_mem_append, List.forall_mem_cons, List.not_mem_nil, false_imp_iff, implies_true, and_true,
    exec_saddRR, exec_saddRI, exec_ssubRR, exec_ssubRI, exec_smulRR, exec_smulRI, exec_smulhRR, exec_smulhRI, exec_sdivRR, exec_sdivRI,
    exec_sminRR, exec_sminRI, exec_smaxRR, exec_smaxRI, exec_sandRR, exec_sandRI, exec_sorRR, exec_sorRI, exec_sxorRR, exec_sxorRI,
    exec_sshlRR, exec_sshlRI, exec_sshrRR, exec_sshrRI, exec_ssarRR, exec_ssarRI, exec_snot, exec_smov, exec_slil, exec_slih, execSaddRR,
    execSaddRI, execSsubRR, execSsubRI, execSmulRR, execSmulRI, execSmulhRR, execSmulhRI, execSdivRR, execSdivRI, execSminRR, execSminRI,
    execSmaxRR, execSmaxRI, execSandRR, execSandRI, execSorRR, execSorRI, execSxorRR, execSxorRI, execSshlRR, execSshlRI, execSshrRR,
    execSshrRI, execSsarRR, execSsarRI, execSnot, execSmov, execSlil, execSlih, scalarRR, scalarRI, fixedU, ↓fixed_idle h ha]

theorem vectorArith_idle (h : Turn s w pcb x) (ha : activeAt s w pcb f = 0) (n : Nat) (sgn : Bool) (t : BitVec 2) (d a b : Reg) (imm : BitVec 32)
    (y z : Nat → BitVec n) : ∀ e ∈ vectorArith n sgn f t d a b imm y z, exec e.1 s = .next (idled s w pcb f e.2.1) := by
  simp only [vectorArith, List.forall_mem_cons, List.not_mem_nil, false_imp_iff, implies_true, and_true, exec_vaddRR, exec_vaddRI,
    exec_vsubRR, exec_vsubRI, exec_vmulRR, exec_vmulRI, exec_vmulhRR, exec_vmulhRI, exec_vandRR, exec_vandRI, exec_vorRR, exec_vorRI,
    exec_vxorRR, exec_vxorRI, exec_vminRR, exec_vminRI, exec_vmaxRR, exec_vmaxRI, execVaddRR, execVaddRI, execVsubRR, execVsubRI,
    execVmulRR, execVmulRI, execVmulhRR, execVmulhRI, execVandRR, execVandRI, execVorRR, execVorRI, execVxorRR, execVxorRI, execVminRR,
    execVminRI, execVmaxRR, execVmaxRI, vectorRR, vectorRI, fixedL, ↓fixed_idle h ha]

theorem vectorBits_idle (h : Turn s w pcb x) (ha : activeAt s w pcb f = 0) (n : Nat) (sgn : Bool) (t : BitVec 2) (d a b c : Reg)
    (imm : BitVec 32) (y z v o : Nat → BitVec n) :
    ∀ e ∈ vectorBits n sgn f t d a b c imm y z v o, exec e.1 s = .next (idled s w pcb f e.2.1) := by
  simp only [vectorBits, List.forall_mem_cons, List.not_mem_nil, false_imp_iff, implies_true, and_true, exec_vshlRR, exec_vshlRI,
    exec_vshrRR, exec_vshrRI, exec_vsarRR, exec_vsarRI, exec_vmad, exec_vabs, exec_vmov, exec_vli, exec_vbfeRR, exec_vbfeRI, exec_vbfiRR,
    exec_vbfiRI, execVshlRR, execVshlRI, execVshrRR, execVshrRI, execVsarRR, execVsarRI, execVmad, execVabs, execVmov, execVli,
    execVbfeRR, execVbfeRI, execVbfiRR, execVbfiRI, vectorRR, vectorRI, vectorU, fixedL, ↓fixed_idle h ha]

theorem floatRows_idle (h : Turn s w pcb x) (ha : activeAt s w pcb f = 0) (ft : BitVec 2) (rm : BitVec 3) (d a b c : Reg)
    (y z v : Nat → BitVec 32) : ∀ e ∈ floatRows f ft rm d a b c y z v, exec e.1 s = .next (idled s w pcb f 6) := by
  simp only [floatRows, List.forall_mem_cons, List.not_mem_nil, false_imp_iff, implies_true, and_true, exec_vfadd, exec_vfsub, exec_vfmul,
    exec_vfma, exec_vfmin, exec_vfmax, exec_vfabs, exec_vfneg, execVfadd, execVfsub, execVfmul, execVfma, execVfmin, execVfmax, execVfabs,
    execVfneg, floatOp, fixedL, ↓fixed_idle h ha]

theorem fixedForms_idle (h : Turn s w pcb x) (ha : activeAt s w pcb f = 0) (t op mode ft : BitVec 2) (cnd n rm ei scl : BitVec 3)
    (neg uns sat mx4 : Bool) (df sf : BitVec 5) (d a b c : Reg) (imm : BitVec 32) :
    ∀ e ∈ fixedForms f t op mode ft cnd n rm ei scl neg uns sat mx4 df sf d a b c imm, exec e.1 s = .next (idled s w pcb f e.2) := by
  simp only [fixedForms, List.forall_mem_append, List.forall_mem_map]
  refine ⟨⟨⟨⟨⟨⟨scalarRows_idle h ha _ _ _ _ _ _ _, vectorArith_idle h ha _ _ _ _ _ _ _ _ _⟩, vectorBits_idle h ha _ _ _ _ _ _ _ _ _ _ _ _⟩,
    floatRows_idle h ha _ _ _ _ _ _ _ _ _⟩, ?lanes⟩, ?preds⟩, ?floats⟩
  case lanes =>
    simp only [List.forall_mem_cons, List.not_mem_nil, false_imp_iff, implies_true, and_true, exec_ssel, exec_scmpRR, exec_scmpRI,
      exec_vsel, exec_vcmpRR, exec_vcmpRI, exec_vpopc, exec_vclz, exec_vaddrRR, exec_vaddrRI, exec_vbcastRR, exec_vbcastRI, exec_v2sRR,
      exec_v2sRI, exec_vshflRR, exec_vshflRI, exec_vred, execSsel, execScmpRR, execScmpRI, execVsel, execVcmpRR, execVcmpRI, execVpopc,
      execVclz, execVaddrRR, execVaddrRI, execVbcastRR, execVbcastRI, execV2sRR, execV2sRI, execVshflRR, execVshflRI, execVred,
      laneToScalar, vectorU, fixedU, fixedL, fixedP, ↓fixed_idle h ha]
  case preds =>
    simp only [List.forall_mem_cons, List.not_mem_nil, false_imp_iff, implies_true, and_true, exec_pand, exec_por, exec_pxor, exec_pnot,
      exec_pmov, exec_pany, exec_pall, exec_pset, execPand, execPor, execPxor, execPnot, execPmov, execPany, execPall, execPset, fixedP,
      ↓fixed_idle h ha]
  case floats =>
    simp only [List.forall_mem_cons, List.not_mem_nil, false_imp_iff, implies_true, and_true, exec_vfcmp, exec_vrcp, exec_vrsq,
      exec_vexp2, exec_vlog2, exec_cvt, exec_vpack, exec_vpackMx8, exec_vunpack, exec_seedRR, exec_seedRI, execVfcmp, execVrcp, execVrsq,
      execVexp2, execVlog2, execCvt, execVpack, execVpackMx8, execVunpack, execSeedRR, execSeedRI, transcend, fixedL, seedWith, fixedP,
      ↓fixed_idle h ha]

theorem commandForms_idle (h : Turn s w pcb x) (ha : activeAt s w pcb f = 0) (k : BitVec 9) (z exp clr : Bool) (ch cm1 sel : BitVec 2)
    (fmt : BitVec 5) (op : BitVec 3) (d a b : Reg) :
    ∀ e ∈ commandForms f k z exp clr ch cm1 sel fmt op d a b, exec e.1 s = .next (idled s w pcb f 0) := by
  simp only [commandForms, List.forall_mem_cons, List.not_mem_nil, false_imp_iff, implies_true, and_true, exec_mw, exec_mws, exec_mswap,
    exec_ms, exec_mst, exec_mchain, exec_mq, exec_cp, exec_cpG, exec_cpS, exec_cpRed, exec_collAr, exec_collAg, exec_collRs, exec_collBc,
    exec_netGet, exec_netPut, exec_netRead, execMw, execMws, execMswap, execMs, execMst, execMchain, execMq, execCp, execCpG, execCpS,
    execCpRed, execCollAr, execCollAg, execCollRs, execCollBc, execNetGet, execNetPut, execNetRead, command, ↓timed_idle h ha]

theorem laterForms_idle (h : Turn s w pcb x) (ha : activeAt s w pcb f = 0) (off : BitVec 20) (ty aln sel n4 : BitVec 4) (cnt n2 : BitVec 2)
    (op sc pn n3 : BitVec 3) (fmt n5 : BitVec 5) (k6 : BitVec 6) (k9 : BitVec 9) (lim : BitVec 24) (neg z : Bool) (n16 : BitVec 16)
    (disp : BitVec 32) (d a b : Reg) :
    ∀ i ∈ laterForms f off ty aln sel n4 cnt n2 op sc pn n3 fmt n5 k6 k9 lim neg z n16 disp d a b, exec i s = .next (idled s w pcb f 0) := by
  simp only [laterForms, List.forall_mem_append, List.forall_mem_map]
  refine ⟨⟨⟨⟨⟨?control, ?memory⟩, ?arena⟩, ?wait⟩, commandForms_idle h ha _ _ _ _ _ _ _ _ _ _ _ _⟩, ?trap⟩
  case control =>
    simp only [List.forall_mem_cons, List.not_mem_nil, false_imp_iff, implies_true, and_true, exec_bra, exec_brc, exec_join, exec_ret,
      exec_exit, execBra, execBrc, execJoin, execRet, execExit, execBrd_idle h ha, ↓control_idle h ha]
  case memory =>
    simp only [List.forall_mem_cons, List.not_mem_nil, false_imp_iff, implies_true, and_true, exec_ldS, exec_ldV, exec_ldVb, exec_ldT,
      exec_ldLast, exec_stS, exec_stV, exec_stVb, exec_stPair, exec_pref, exec_pin, exec_unpin, exec_wbr, exec_red, exec_atom, exec_cas,
      execLdS, execLdV, execLdVb, execLdT, execLdLast, execStS, execStV, execStVb, execStPair, execPref, execPin, execUnpin, execWbr,
      execRed, execAtom, execCas, loadLanes, rangeOp, ↓timed_idle h ha]
  case arena =>
    simp only [List.forall_mem_cons, List.not_mem_nil, false_imp_iff, implies_true, and_true, exec_arenaNew, exec_arenaAlloc,
      exec_arenaSeal, exec_arenaReset, exec_arenaDrop, exec_arenaQuota, exec_arenaInfo, execArenaNew, execArenaAlloc, execArenaSeal,
      execArenaReset, execArenaDrop, execArenaQuota, execArenaInfo, arenaOp, ↓timed_idle h ha]
  case wait =>
    simp only [List.forall_mem_cons, List.not_mem_nil, false_imp_iff, implies_true, and_true, exec_waitc, exec_waitcTest, exec_bar,
      exec_hdlInit, exec_hdlInitRelease, exec_hdlExpect, exec_hdlArrive, exec_hdlWait, exec_hdlTest, exec_watch, exec_waitw, exec_yield,
      exec_qbind, exec_enq, exec_spawn, exec_viewDecl, exec_viewInfo, exec_tend, execWaitc, execWaitcTest, execBar, execHdlInit,
      execHdlInitRelease, execHdlExpect, execHdlArrive, execHdlWait, execHdlTest, execWatch, execWaitw, execYield, execQbind, execEnq,
      execSpawn, execViewDecl, execViewInfo, execTend, holds, hurdleOp, hdlInitOp, enqOp, ↓timed_idle h ha]
  case trap =>
    simp only [List.forall_mem_cons, List.not_mem_nil, false_imp_iff, implies_true, and_true, exec_cpwp, exec_trap, exec_brk, execCpwp,
      execTrap, execBrk, ↓timed_idle h ha]

theorem callLoop_idle (h : Turn s w pcb x) (ha : activeAt s w pcb f = 0) (d : Reg) (disp : BitVec 32) :
    ∀ i ∈ [Instr.call f d disp, .loop f d disp], exec i s = .next (idled s w pcb f 2) := by
  simp only [List.forall_mem_cons, List.not_mem_nil, false_imp_iff, implies_true, and_true, exec_call, exec_loop, execCall, execLoop,
    ↓control_idle h ha]

theorem supervisorForms_idle (h : Turn s w pcb x) (hx : x.super = true) (ha : activeAt s w pcb f = 0) (n16 m16 : BitVec 16) (k6 : BitVec 6)
    (z : Bool) (n4 : BitVec 4) (lim : BitVec 24) (n2 : BitVec 2) (d a b : Reg) :
    ∀ i ∈ [Instr.rft f, .sysrd f n16 m16 d, .syswr f n16 m16 a, .tinv f k6 z a b, .halt f n4 lim d, .snap f d a b, .slotset f n2 d a],
      exec i s = .next (idled s w pcb f 0) := by
  simp only [List.forall_mem_cons, List.not_mem_nil, false_imp_iff, implies_true, and_true, exec_rft, exec_sysrd, exec_syswr, exec_tinv,
    exec_halt, exec_snap, exec_slotset, execRft, execSysrd, execSyswr, execTinv, execHalt, execSnap, execSlotset, ↓supervisor_idle h hx
    ha]
end

/-- Settles O8: guarded off, every form is its issue alone (`idled`), which has the fixed effect of an instruction without a result. -/
theorem nothingWhenGuardedOff : Obligations.NothingWhenGuardedOff := by
  have idle : ∀ {s : State} {w : Nat} {pcb : Bool} {x : Wave} {f : Sched} {lat : Nat} {i : Instr}, Turn s w pcb x →
      exec i s = .next (idled s w pcb f lat) → ∃ u, exec i s = .next u ∧ Fixed s u w pcb x f lat ∧ NoResult s u w x :=
    fun h he => ⟨_, he, idled_spec h.wave _ _⟩
  refine ⟨?_, ?_⟩
  · intro s w pcb x f t op mode ft cnd n rm ei scl neg uns sat mx4 df sf d a b c imm h
    exact ⟨idle h (execNop_eq h), fun ha e he => idle h (fixedForms_idle h ha _ _ _ _ _ _ _ _ _ _ _ _ _ _ _ _ _ _ _ _ e he)⟩
  · intro s w pcb x f off ty aln sel n4 cnt n2 op sc pn n3 fmt n5 k6 k9 lim neg z n16 m16 disp d a b h ha
    exact ⟨fun i hi => idle h (laterForms_idle h ha _ _ _ _ _ _ _ _ _ _ _ _ _ _ _ _ _ _ _ _ _ _ _ i hi),
      fun i hi => idle h (callLoop_idle h ha _ _ i hi),
      fun hx i hi => idle h (supervisorForms_idle h hx ha _ _ _ _ _ _ _ _ _ _ i hi)⟩
end Sys2Proof.Machine
end

section
/-! PROOF. Writes of agents other than waves to lines that are ready for them (R225): what such a write leaves alone. -/
namespace Sys2Proof.Machine
open Sys2Proof

/-! ### What the bookkeeping of a write leaves of the lines -/

/-- Only lines, watches and slice bases differ, and every line keeps its bytes, stays dirty and takes no poison. -/
structure Touch (s t : State) : Prop where
  rest : t = { s with lines := t.lines, waves := t.waves, sliceBase := t.sliceBase }
  lines : ∀ q x, kget s.lines q = some x →
    ∃ y, kget t.lines q = some y ∧ y.data = x.data ∧ y.dirty = x.dirty ∧ (x.poison = [] → y.poison = [])

theorem Touch.refl (s : State) : Touch s s := ⟨rfl, fun _ x h => ⟨x, h, rfl, rfl, id⟩⟩

theorem Touch.trans {s t u : State} (h : Touch s t) (g : Touch t u) : Touch s u where
  rest := by rw [g.rest, h.rest]
  lines q x hx := by
    obtain ⟨y, hy, d1, e1, p1⟩ := h.lines q x hx
    obtain ⟨z, hz, d2, e2, p2⟩ := g.lines q y hy
    exact ⟨z, hz, d2.trans d1, e2.trans e1, p2 ∘ p1⟩

/-- A change of one line that keeps its bytes and its dirt. -/
theorem Touch.kmod (s : State) (k : Nat) (g : Line → Line) (hd : ∀ x, (g x).data = x.data) (he : ∀ x, (g x).dirty = x.dirty)
    (hp : ∀ x, x.poison = [] → (g x).poison = []) : Touch s { s with lines := kmod s.lines k g } where
  rest := rfl
  lines q x hx := by
    show ∃ y, kget (Sys2Proof.Machine.kmod s.lines k g) q = some y ∧ _
    rw [kget_kmod]
    by_cases hq : q = k
    · subst hq
      exact ⟨g x, by simp [hx], hd x, he x, hp x⟩
    · exact ⟨x, by rw [if_neg hq, hx], rfl, rfl, id⟩

theorem Touch.rebase (s : State) (sl b : Nat) : Touch s (s.rebase sl b) where
  rest := by rw [rebase_eq]
  lines q x hx := by
    obtain ⟨g, hg, hlike⟩ := kget_rebase s sl b q
    obtain ⟨wts, rts, e, -, -⟩ := hlike x
    exact ⟨g x, by rw [hg, hx]; rfl, by rw [e], by rw [e], by rw [e]; exact id⟩

theorem Touch.setTimes (s : State) {l : Loc} (hl : ¬3 ≤ l.kind) (wts rts : Nat) : Touch s (s.setTimes l wts rts) := by
  unfold State.setTimes
  rw [if_neg hl]
  split
  · exact Touch.refl s
  next x hx =>
    refine Touch.trans (t := { s with lines := kset s.lines l.key { x with wts := wts, rts := rts } }) ⟨rfl, fun q y hy => ?_⟩ (Touch.rebase _ _ _)
    show ∃ z, kget (kset s.lines l.key _) q = some z ∧ _
    rw [kget_kset]
    by_cases hq : q = l.key
    · obtain rfl : x = y := Option.some.inj (hx.symm.trans (hq ▸ hy))
      exact ⟨_, if_pos hq, rfl, rfl, id⟩
    · exact ⟨y, by rw [if_neg hq, hy], rfl, rfl, id⟩

theorem Touch.unpoison (s : State) {l : Loc} (hl : ¬3 ≤ l.kind) (rs : List Req) : Touch s (s.unpoison l rs) := by
  unfold State.unpoison
  rw [if_neg hl]
  exact Touch.kmod s _ _ (fun _ => rfl) (fun _ => rfl) fun x hx => by simp [hx]

theorem Touch.writeTimes (s : State) (a : Who) {l : Loc} (hl : ¬3 ≤ l.kind) (hs : s.isSync l = false) (ts : Nat) :
    Touch s (s.writeTimes a true ts l) := by
  have hrecall : Touch s (s.recall l a.cluster) :=
    Touch.kmod s _ _ (fun x => by split <;> rfl) (fun x => by split <;> rfl) fun x hx => by split <;> exact hx
  have htimes := hrecall.trans (Touch.setTimes (s.recall l a.cluster) hl ts ts)
  have hwrite := (htimes.trans (⟨rfl, fun q x hx => ⟨x, hx, rfl, rfl, id⟩⟩ : Touch _ (State.fireWatches _ l.key))).trans
    (Touch.kmod _ l.key (fun x => { x with writer := a.core }) (fun _ => rfl) (fun _ => rfl) fun _ => id)
  have hsync : ∀ t, Touch s t → Touch s (t.freshCopies ts l) := by
    intro t ht
    have : t.isSync l = false := by rw [ht.rest]; exact hs
    unfold State.freshCopies
    rw [this]; exact ht
  exact hsync _ hwrite

/-! ### One range that meets its line -/

section
variable {s : State} {ctx : Nat} {r : Req} {win : Win} {l : Line} {wr : Bool}

theorem LineReady.locOf (h : LineReady s ctx r win l wr) :
    s.locOf r = { kind := attrKind win.attr, key := lineTag r.win r.gen r.va, wk := r.win, va := r.va / 128 * 128 } := by
  unfold State.locOf
  rw [if_neg h.real, h.there]

theorem LineReady.slice_kind (h : LineReady s ctx r win l wr) : ¬3 ≤ (s.locOf r).kind := by
  rw [h.locOf]; exact not_le.2 h.kind

theorem LineReady.notSync (h : LineReady s ctx r win l wr) : s.isSync (s.locOf r) = false := by
  unfold State.isSync
  rw [h.locOf]
  simp [h.there, h.sync]

/-- A write to a ready line meets its point at once and finds the line there: nothing is filled. -/
theorem LineReady.meet_write {a : Who} (h : LineReady s a.ctx r win l true) (pts : Nat) (keep : List Nat) :
    s.meet a 1 pts false true keep r = (s, r, .ok) := by
  have hreach : s.reach a (s.locOf r) win r.gen false true 1 pts keep = .ok s := by
    unfold State.reach State.fill
    rw [h.locOf]
    simp [h.line, h.dirty rfl, behindSlice]
  have hlive : ¬(win.state = .dropped ∨ win.state = .free ∨ r.va < win.base ∨ win.base + win.size ≤ r.va) := by
    have := h.inside
    rcases h.live with e | e <;> simp [e] <;> omega
  have hk : (s.locOf r).kind ≠ 3 := fun e => h.slice_kind (by omega)
  have hm : s.mergeHolds r.win (s.locOf r).va = false := by rw [h.locOf]; exact h.merge
  unfold State.meet
  simp only [h.real, h.pad, h.there, hlive, h.lost, h.gen, hm, hk, h.moves, h.host, h.frozen, hreach, if_false, ne_eq, not_true_eq_false, false_and,
    Bool.false_and, Bool.false_eq_true, and_false]


/-- A write of an agent to one ready line performs: its bytes, then what every write brings about. -/
theorem LineReady.performRanges_write {a : Who} (h : LineReady s a.ctx r win l true) (pts : Nat) {op : RangeOp} {u : State} {v : Nat}
    (hop : op s r = (u, v, true)) (hwins : u.wins = s.wins) :
    ∃ t ts, s.performRanges a pts 1 false true false none [r] op = .done t ts [(r, v)] [] none ∧ Touch u t := by
  have hloc : u.locOf r = s.locOf r := by unfold State.locOf; rw [hwins]
  have hsync : u.isSync (s.locOf r) = false := by
    have := h.notSync
    unfold State.isSync at this ⊢
    rwa [hwins]
  have hpoison := Touch.unpoison u h.slice_kind [r]
  have htouch := hpoison.trans (Touch.writeTimes _ a h.slice_kind (by rw [hpoison.rest]; exact hsync) (s.tsOf pts true [s.locOf r]))
  refine ⟨(u.unpoison (s.locOf r) [r]).writeTimes a true (s.tsOf pts true [s.locOf r]) (s.locOf r), s.tsOf pts true [s.locOf r], ?_, htouch⟩
  have hmeet : s.meetAll a 1 pts false true [] [r] = (s, [(r, .ok)]) := by
    simp only [State.meetAll, h.meet_write]
  have hdup : [s.locOf r].eraseDups = [s.locOf r] := by simp [List.eraseDups_cons]
  have hnone : s.syncSharers [s.locOf r] = [] := by simp [State.syncSharers, h.notSync]
  have hsome : kget s.lines (s.locOf r).key ≠ none := by rw [h.locOf]; simp [h.line]
  have hend : ((u.unpoison (s.locOf r) [r]).writeTimes a true (s.tsOf pts true [s.locOf r]) (s.locOf r)).locOf r = s.locOf r := by
    rw [htouch.rest]; exact hloc
  unfold State.performRanges
  simp only [hmeet, State.locsOf, List.map_cons, List.map_nil]
  simp [runOps, hop, hloc, hdup, hnone, State.ackAll, State.reshare, faultOf, behindSlice, hsome, hend]

end

/-! ### Writes of agents other than waves -/

/-- Only lines, watches and slice bases differ, and a line that takes a write at once still does. -/
structure Kept (s t : State) : Prop where
  rest : t = { s with lines := t.lines, waves := t.waves, sliceBase := t.sliceBase }
  lines : ∀ q x, kget s.lines q = some x → x.dirty = true → x.poison = [] →
    ∃ y, kget t.lines q = some y ∧ y.dirty = true ∧ y.poison = []

theorem Kept.refl (s : State) : Kept s s := ⟨rfl, fun _ x h hd hp => ⟨x, h, hd, hp⟩⟩

theorem Kept.trans {s t u : State} (h : Kept s t) (g : Kept t u) : Kept s u where
  rest := by rw [g.rest, h.rest]
  lines q x hx hd hp := by
    obtain ⟨y, hy, hd', hp'⟩ := h.lines q x hx hd hp
    exact g.lines q y hy hd' hp'

theorem Touch.kept {s t : State} (h : Touch s t) : Kept s t where
  rest := h.rest
  lines q x hx hd hp := by
    obtain ⟨y, hy, -, he, hp'⟩ := h.lines q x hx
    exact ⟨y, hy, he.trans hd, hp' hp⟩

theorem Kept.writeAt (s : State) {l : Loc} (hl : ¬3 ≤ l.kind) (va : Nat) (bs : List Byte) : Kept s (s.writeAt l va bs) := by
  unfold State.writeAt
  rw [if_neg hl]
  refine ⟨rfl, fun q x hx hd hp => ?_⟩
  show ∃ y, kget (kmod s.lines l.key _) q = some y ∧ _
  rw [kget_kmod]
  by_cases hq : q = l.key
  · subst hq
    exact ⟨_, by rw [if_pos rfl, hx]; rfl, rfl, by simp [hp]⟩
  · exact ⟨x, by rw [if_neg hq, hx], hd, hp⟩

theorem kget_writeAt_same {s : State} {l : Loc} (hl : ¬3 ≤ l.kind) {x : Line} (h : kget s.lines l.key = some x) (va : Nat) (bs : List Byte) :
    ∃ y, kget (s.writeAt l va bs).lines l.key = some y ∧ y.data = overlay x.data (va % 128) bs := by
  unfold State.writeAt
  rw [if_neg hl]
  exact ⟨_, (kget_kmod ..).trans (by rw [if_pos rfl, h]; rfl), rfl⟩

/-- The checks at issue ask nothing that a write changes. -/
theorem Kept.checkRange {s t : State} (h : Kept s t) (a : Who) (va len align : Nat) (rd wr : Bool) :
    t.checkRange a va len align rd wr = s.checkRange a va len align rd wr := by
  rw [h.rest]; rfl

theorem LineReady.kept {s t : State} {ctx : Nat} {r : Req} {win : Win} {l : Line} (h : LineReady s ctx r win l true) (hk : Kept s t) :
    ∃ l', LineReady t ctx r win l' true := by
  obtain ⟨l', hl, hd, hp⟩ := hk.lines _ l h.line (h.dirty rfl) h.poison
  obtain ⟨hrest, -⟩ := hk
  generalize t.lines = ls, t.waves = ws, t.sliceBase = sb at hrest hl
  subst hrest
  exact ⟨l', h.there, h.real, h.live, h.gen, h.lost, h.pad, h.inside, h.kind, h.sync, hl, fun _ => hd, hp, h.merge, h.moves, h.frozen, h.host⟩

/-- The one range of an agent's access. -/
def agentReq (k g va len : Nat) : Req := { mkReq 0 0 va len 0 with win := k, gen := g }

/-- An agent's write to a ready line, with what the line holds then. -/
theorem LineReady.agentAcc_write {s : State} {a : Who} {va len k g : Nat} {win : Win} {l : Line}
    (h : LineReady s a.ctx (agentReq k g va len) win l true) (hc : s.checkRange a va len 1 false true = .ok (k, g)) (pts : Nat) (bs : List Byte) :
    ∃ t ts out, s.agentAcc a pts 1 va len (some bs) = .ok t ts out ∧ Kept s t ∧
      ∃ y, kget t.lines (lineTag k g va) = some y ∧ y.data = overlay l.data (va % 128) bs := by
  have hu := Kept.writeAt s h.slice_kind va bs
  obtain ⟨t, ts, hp, ht⟩ := h.performRanges_write pts (v := 0)
    (op := fun s r => (s.writeAt (s.locOf r) r.va bs, 0, true)) rfl (hu.rest ▸ rfl : (s.writeAt (s.locOf (agentReq k g va len)) va bs).wins = s.wins)
  refine ⟨t, ts, toBytes len 0, ?_, hu.trans ht.kept, ?_⟩
  · simp only [agentReq] at hp
    simp only [State.agentAcc, Option.isNone_some, Option.isSome_some, hc, hp, List.map_cons, List.headD_cons]
  · have hkey : (s.locOf (agentReq k g va len)).key = lineTag k g va := by rw [h.locOf]; rfl
    obtain ⟨x, hx, hdata⟩ := kget_writeAt_same h.slice_kind (hkey ▸ h.line) va bs
    obtain ⟨y, hy, hd, -, -⟩ := ht.lines _ x hx
    exact ⟨y, hkey ▸ hy, hd.trans hdata⟩

/-- Writes of an agent to lines that are ready, piece by piece. -/
theorem agentAccs_write (a : Who) (step : Nat) : ∀ (n : Nat) (s : State) (pts va : Nat) (bs : List Byte),
    (∀ i < n, ∃ k g win l, s.checkRange a (va + step * i) step 1 false true = .ok (k, g) ∧
      LineReady s a.ctx (agentReq k g (va + step * i) step) win l true) →
    ∃ t ts out, s.agentAccs a pts 1 va step (cutBytes n step bs) = .ok t ts out ∧ Kept s t
  | 0, s, pts, _, _, _ => ⟨s, pts, [], rfl, Kept.refl s⟩
  | n + 1, s, pts, va, bs, h => by
    obtain ⟨k, g, win, l, hc, hl⟩ := h 0 (Nat.succ_pos n)
    obtain ⟨t, ts, out, ht, hk, -⟩ := hl.agentAcc_write hc pts (bs.take step)
    rw [Nat.mul_zero, Nat.add_zero] at ht
    have hnext : ∀ i < n, ∃ k g win l, t.checkRange a (va + step + step * i) step 1 false true = .ok (k, g) ∧
        LineReady t a.ctx (agentReq k g (va + step + step * i) step) win l true := by
      intro i hi
      obtain ⟨k, g, win, l, hc, hl⟩ := h (i + 1) (Nat.succ_lt_succ hi)
      have e : va + step + step * i = va + step * (i + 1) := by ring
      obtain ⟨l', hl'⟩ := hl.kept hk
      exact ⟨k, g, win, l', by rw [e, hk.checkRange, hc], e ▸ hl'⟩
    obtain ⟨u, us, outs, hu, hk'⟩ := agentAccs_write a step n t ts (va + step) (bs.drop step) hnext
    refine ⟨u, us, out ++ outs, ?_, hk.trans hk'⟩
    simp only [cutBytes, State.agentAccs, ht, hu]

theorem agentWrite_pieces {s : State} {a : Who} {va step : Nat} {bs : List Byte}
    (h : ∀ i < bs.length / step, ∃ k g win l, s.checkRange a (va + step * i) step 1 false true = .ok (k, g) ∧
      LineReady s a.ctx (agentReq k g (va + step * i) step) win l true) (pts : Nat) :
    ∃ t ts out, s.agentWrite a pts va step bs = .ok t ts out ∧ Kept s t :=
  agentAccs_write a step _ s pts va bs h

/-- A write of one word, with what its line holds then. -/
theorem LineReady.agentWrite_word {s : State} {a : Who} {va k g : Nat} {win : Win} {l : Line}
    (h : LineReady s a.ctx (agentReq k g va 8) win l true) (hc : s.checkRange a va 8 1 false true = .ok (k, g)) (pts x : Nat) :
    ∃ t ts out, s.agentWrite a pts va 8 (toBytes 8 x) = .ok t ts out ∧ Kept s t ∧
      ∃ y, kget t.lines (lineTag k g va) = some y ∧ y.data = overlay l.data (va % 128) (toBytes 8 x) := by
  obtain ⟨t, ts, out, ht, hk, hy⟩ := h.agentAcc_write hc pts (toBytes 8 x)
  refine ⟨t, ts, out, ?_, hk, hy⟩
  have htake : (toBytes 8 x).take 8 = toBytes 8 x := List.take_of_length_le (length_toBytes 8 x).le
  simp only [State.agentWrite, length_toBytes, cutBytes, State.agentAccs, htake, ht, List.append_nil]

/-- What the middle of a list reads as after it has been written over. -/
theorem take_drop_overlay (old new : List Byte) {p : Nat} (h : p ≤ old.length) : ((overlay old p new).drop p).take new.length = new := by
  unfold overlay
  rw [List.append_assoc, List.drop_left' (by simp [h]), List.take_left]
end Sys2Proof.Machine
end

section
/-! PROOF. Laps, telemetry and migration slots (R182, R331, R338, R339). -/
namespace Sys2Proof.Machine
open Sys2Proof

/-! ### Laps (R182, R331) -/

theorem pacerMove_eq (s : State) (g : Nat) : s.pacerMove g = { s with nodes := (s.pacerMove g).nodes } := by
  unfold State.pacerMove
  dsimp only
  split
  · rfl
  · split
    · rfl
    · split <;> rfl

theorem pacerMoves_eq (gs : List Nat) : ∀ s : State, gs.foldl (fun s g => s.pacerMove (g + 1)) s =
    { s with nodes := (gs.foldl (fun s g => s.pacerMove (g + 1)) s).nodes } := by
  induction gs with
  | nil => intro s; rfl
  | cons g gs ih => intro s; rw [List.foldl_cons, ih, pacerMove_eq]

theorem finishSlotsets_eq (os : List AsyncOp) : ∀ s : State, os.foldl (fun s o => s.finishSlotset o) s =
    { s with waves := (os.foldl (fun s o => s.finishSlotset o) s).waves } := by
  induction os with
  | nil => intro s; rfl
  | cons o os ih => intro s; rw [List.foldl_cons, ih]; rfl

theorem finishSlotset_s (s : State) (o : AsyncOp) : WritesS (s.wave o.wave) ((s.finishSlotset o).wave o.wave) (BitVec.ofNat 8 o.arg) 0 := by
  unfold State.finishSlotset State.complete
  rw [wave_modWave, wave_modWave]
  exact landU_s _ _ _

/-- A lap that starts. -/
theorem startLap_spec {s : State} (hlap : s.lap < s.uc / 4096) (hboot : s.bootFailed = false) :
    s.startLap.lap = s.uc / 4096 ∧ s.startLap.slotTab = s.slotNext.getD s.slotTab ∧ s.startLap.slotNext = none ∧
      s.startLap.asyncs = s.asyncs.filter (fun o => o.kind != 1) ∧ s.startLap.mem = s.mem ∧
      ∀ o, s.asyncs.filter (fun o => o.kind == 1) = [o] → WritesS (s.wave o.wave) (s.startLap.wave o.wave) (BitVec.ofNat 8 o.arg) 0 := by
  have hgo : ¬(s.uc / 4096 ≤ s.lap ∨ s.bootFailed = true) := by simp [hboot, hlap]
  have hstart : s.startLap = (List.range 15).foldl (fun s g => s.pacerMove (g + 1))
      ((s.asyncs.filter fun o => o.kind == 1).foldl (fun s o => s.finishSlotset o)
        { s with lap := s.uc / 4096, slotTab := s.slotNext.getD s.slotTab, slotNext := none, asyncs := s.asyncs.filter fun o => o.kind != 1 }) := by
    unfold State.startLap
    rw [if_neg hgo]
  rw [hstart, pacerMoves_eq, finishSlotsets_eq]
  refine ⟨rfl, rfl, rfl, rfl, rfl, fun o ho => ?_⟩
  rw [ho]
  exact finishSlotset_s _ o

/-! ### Telemetry and retraining (R338) -/

/-- Only memory differs, and there only at keys that `P` picks. -/
structure MemOnly (P : Nat → Prop) (s t : State) : Prop where
  rest : t = { s with mem := t.mem }
  bytes : ∀ q, ¬P q → t.byte q = s.byte q

section
variable {P : Nat → Prop} {s t u : State}

theorem MemOnly.refl (P : Nat → Prop) (s : State) : MemOnly P s s := ⟨rfl, fun _ _ => rfl⟩

theorem MemOnly.trans (h : MemOnly P s t) (g : MemOnly P t u) : MemOnly P s u :=
  ⟨by rw [g.rest, h.rest], fun q hq => (g.bytes q hq).trans (h.bytes q hq)⟩

theorem MemOnly.mono {Q : Nat → Prop} (h : MemOnly P s t) (hPQ : ∀ q, P q → Q q) : MemOnly Q s t :=
  ⟨h.rest, fun q hq => h.bytes q fun hp => hq (hPQ q hp)⟩

theorem MemOnly.word (h : MemOnly P s t) {q : Nat} (hq : ∀ i < 8, ¬P (q + i)) : t.word q = s.word q :=
  word_congr fun i hi => h.bytes _ (hq i hi)

theorem MemOnly.setWord (s : State) (k : Nat) (x : BitVec 64) : MemOnly (fun q => k ≤ q ∧ q < k + 8) s (s.setWord k x) :=
  ⟨setWord_eq s k x, fun q hq => by rw [byte_setWord, if_neg hq]⟩

theorem MemOnly.setWords (s : State) (k : Nat) (xs : List (BitVec 64)) :
    MemOnly (fun q => k ≤ q ∧ q < k + 8 * xs.length) s (s.setWords k xs) :=
  ⟨setWords_eq s k xs, fun q hq => byte_setWords_apart s k q xs (by omega)⟩

theorem MemOnly.foldl {α : Type} {F : State → α → State} (xs : List α) (hF : ∀ s, ∀ x ∈ xs, MemOnly P s (F s x)) :
    ∀ s, MemOnly P s (xs.foldl F s) := by
  induction xs with
  | nil => exact MemOnly.refl P
  | cons x xs ih =>
    intro s
    exact (hF s x List.mem_cons_self).trans (ih (fun s y hy => hF s y (List.mem_cons_of_mem _ hy)) (F s x))
end

theorem setBytes_append (bs cs : List Byte) : ∀ (s : State) (k : Nat), s.setBytes k (bs ++ cs) = (s.setBytes k bs).setBytes (k + bs.length) cs := by
  induction bs with
  | nil => intro s k; rfl
  | cons b bs ih =>
    intro s k
    have e : k + (b :: bs).length = k + 1 + bs.length := by rw [List.length_cons]; omega
    rw [e]
    exact ih (s.setByte k b) (k + 1)

theorem setWords_cons (s : State) (k : Nat) (x : BitVec 64) (xs : List (BitVec 64)) :
    s.setWords k (x :: xs) = (s.setWord k x).setWords (k + 8) xs := by
  unfold State.setWords State.setWord
  rw [List.flatMap_cons, setBytes_append, length_toBytes]

theorem word_setWords (xs : List (BitVec 64)) : ∀ (s : State) (k i : Nat) (hi : i < xs.length), (s.setWords k xs).word (k + 8 * i) = xs[i] := by
  induction xs with
  | nil => intro s k i hi; cases hi
  | cons x xs ih =>
    intro s k i hi
    rw [setWords_cons]
    cases i with
    | zero => exact ((MemOnly.setWords _ _ _).word fun j hj => by omega).trans (word_setWord_same s k x)
    | succ i =>
      have e : k + 8 * (i + 1) = k + 8 + 8 * i := by ring
      rw [e]
      exact ih _ _ i (Nat.lt_of_succ_lt_succ hi)

theorem spareStatus_spec (s : State) (stack code : Nat) :
    (s.spareStatus stack code).word (raKey (telemetryRa stack) + 0x200) =
        s.word (raKey (telemetryRa stack) + 0x200) &&& 0x7FFFFFFFFFFFFFFF#64 ∧
      (s.spareStatus stack code).word (raKey (telemetryRa stack) + 0x208) = BitVec.ofNat 64 (2 ^ 63 + code) ∧
      MemOnly (fun q => raKey (telemetryRa stack) + 0x200 ≤ q ∧ q < raKey (telemetryRa stack) + 0x210) s (s.spareStatus stack code) := by
  unfold State.spareStatus
  generalize raKey (telemetryRa stack) = k
  refine ⟨?_, word_setWord_same _ _ _, ?_⟩
  · rw [word_setWord_apart _ _ (by omega), word_setWord_same]
  · exact ((MemOnly.setWord _ _ _).mono fun q hq => by omega).trans ((MemOnly.setWord _ _ _).mono fun q hq => by omega)

theorem groupRetrained_spec {s : State} {g : Nat} (h : s.groups.contains g = true) :
    (s.groupRetrained g).groups = s.groups.filter (· != g) ∧
      (s.groupRetrained g).word (raKey (telemetryRa 0) + 0x200) = s.word (raKey (telemetryRa 0) + 0x200) &&& 0x7FFFFFFFFFFFFFFF ∧
      (s.groupRetrained g).word (raKey (telemetryRa 0) + 0x208) = BitVec.ofNat 64 (2 ^ 63) ∧
      ∀ q, q < raKey (telemetryRa 0) + 0x200 ∨ raKey (telemetryRa 0) + 0x210 ≤ q → (s.groupRetrained g).byte q = s.byte q := by
  obtain ⟨hgo, hstatus, hrest⟩ := spareStatus_spec { s with groups := s.groups.filter (· != g) } 0 0
  unfold State.groupRetrained
  rw [if_pos h]
  exact ⟨by rw [hrest.rest], hgo, hstatus, fun q hq => hrest.bytes q (by omega)⟩

/-- The counts of errors of a stack's telemetry page, and its lap. -/
def State.telemetryCounts (s : State) (stack : Nat) : State :=
  ((s.setWord (raKey (telemetryRa stack)) (BitVec.ofNat 64 s.lap)).setWords (raKey (telemetryRa stack) + 0x008) (s.errWords stack 0 33)).setWords
    (raKey (telemetryRa stack) + 0x118) (s.errWords stack 33 8)

theorem length_errWords (s : State) (stack at_ n : Nat) : (s.errWords stack at_ n).length = n := by simp [State.errWords]

theorem telemetryCounts_spec (s : State) (stack : Nat) :
    let k := raKey (telemetryRa stack)
    (s.telemetryCounts stack).word k = BitVec.ofNat 64 s.lap ∧
      (∀ i < 33, (s.telemetryCounts stack).word (k + 8 + 8 * i) = BitVec.ofNat 64 (dget 0 s.errs (stack * 64 + i))) ∧
      (∀ i < 8, (s.telemetryCounts stack).word (k + 0x118 + 8 * i) = BitVec.ofNat 64 (dget 0 s.errs (stack * 64 + 33 + i))) ∧
      MemOnly (fun q => k ≤ q ∧ q < k + 0x110 ∨ k + 0x118 ≤ q ∧ q < k + 0x158) s (s.telemetryCounts stack) := by
  intro k
  have hlap := MemOnly.setWord s k (BitVec.ofNat 64 s.lap)
  have hchan := MemOnly.setWords (s.setWord k (BitVec.ofNat 64 s.lap)) (k + 8) (s.errWords stack 0 33)
  have hrest := MemOnly.setWords ((s.setWord k (BitVec.ofNat 64 s.lap)).setWords (k + 8) (s.errWords stack 0 33)) (k + 0x118) (s.errWords stack 33 8)
  rw [length_errWords] at hchan hrest
  have hentry : ∀ at_ n i (h : i < (s.errWords stack at_ n).length), (s.errWords stack at_ n)[i] = BitVec.ofNat 64 (dget 0 s.errs (stack * 64 + at_ + i)) := by
    intro at_ n i h; simp [State.errWords]
  refine ⟨?_, fun i hi => ?_, fun i hi => ?_, ?_⟩
  · exact (hrest.word fun j hj => by omega).trans ((hchan.word fun j hj => by omega).trans (word_setWord_same _ _ _))
  · refine (hrest.word fun j hj => by omega).trans ((word_setWords _ _ _ i (by rw [length_errWords]; exact hi)).trans (hentry ..))
  · exact (word_setWords _ _ _ i (by rw [length_errWords]; exact hi)).trans (hentry ..)
  · exact (hlap.mono fun q hq => by omega).trans ((hchan.mono fun q hq => by omega).trans (hrest.mono fun q hq => by omega))

/-- The spares left and the wear of a stack's telemetry page. -/
def State.telemetryStock (s : State) (stack : Nat) : State :=
  let k := raKey (telemetryRa stack)
  let s := s.setWord (k + 0x110) (BitVec.ofNat 64 (s.sparesLeft 4 stack % 2 ^ 32 + s.sparesLeft 5 stack % 256 * 2 ^ 32))
  let s := (List.range 12).foldl (fun s i => s.setWord (k + 0x158 + 8 * i) ((Config.wear s.free (12 * stack + i)).setWidth 64)) s
  s.setWord (k + 0x1B8) (BitVec.ofNat 64 (s.sparesLeft 1 stack % 2 + s.sparesLeft 2 (stack / 4) % 4 * 256 +
    (if stack = 0 then s.sparesLeft 3 0 % 4 * 65536 else 0)))

theorem telemetryStock_memOnly (s : State) (stack : Nat) :
    MemOnly (fun q => raKey (telemetryRa stack) + 0x110 ≤ q ∧ q < raKey (telemetryRa stack) + 0x118 ∨
      raKey (telemetryRa stack) + 0x158 ≤ q ∧ q < raKey (telemetryRa stack) + 0x1C0) s (s.telemetryStock stack) := by
  unfold State.telemetryStock
  generalize raKey (telemetryRa stack) = k
  have hwear : ∀ t : State, MemOnly (fun q => k + 0x158 ≤ q ∧ q < k + 0x1B8) t ((List.range 12).foldl (fun s i =>
      s.setWord (k + 0x158 + 8 * i) ((Config.wear s.free (12 * stack + i)).setWidth 64)) t) :=
    MemOnly.foldl _ fun t i hi => (MemOnly.setWord t _ _).mono fun q hq => by
      have := List.mem_range.1 hi
      omega
  exact ((MemOnly.setWord _ (k + 0x110) _).mono fun q hq => by omega).trans (((hwear _).mono fun q hq => by omega).trans
    ((MemOnly.setWord _ (k + 0x1B8) _).mono fun q hq => by omega))

/-- A telemetry slot stores the page and looks at the page's request. -/
theorem telemetryStep_eq {s : State} {stack : Nat} (h : s.slotDone (240 + stack) = 0) : s.telemetryStep stack =
    ({ ((s.noteSlot (240 + stack) 1).telemetryCounts stack).telemetryStock stack with free := s.free + 1 } : State).spareRequest stack := by
  have herr : ∀ (t : State) (k : Nat) (x : BitVec 64), (t.setWord k x).errWords stack = t.errWords stack := by
    intro t k x; unfold State.errWords; rw [setWord_eq]
  have hfree : (((s.noteSlot (240 + stack) 1).telemetryCounts stack).telemetryStock stack).free = s.free := by
    rw [(telemetryStock_memOnly _ stack).rest, (telemetryCounts_spec _ stack).2.2.2.rest]; rfl
  rw [← hfree]
  unfold State.telemetryStep
  rw [if_neg (not_not.2 h)]
  dsimp only
  rw [herr]
  rfl

theorem spareRequest_none {s : State} {stack : Nat} (h : (s.word (raKey (telemetryRa stack) + 0x200)).getLsbD 63 = false) :
    s.spareRequest stack = s := by
  unfold State.spareRequest
  exact if_pos h

theorem slotDone_noteSlot (s : State) (unit n : Nat) : (s.noteSlot unit n).slotDone unit = s.slotDone unit + n := by
  show (if s.slotNo = s.slotNo then dget 0 (dset 0 _ unit (s.slotDone unit + n)) unit else 0) = _
  rw [if_pos rfl, dget_dset_same]

theorem byte_of_mem {s t : State} (h : t.mem = s.mem) (q : Nat) : t.byte q = s.byte q := by
  unfold State.byte
  rw [h]

theorem word_of_mem {s t : State} (h : t.mem = s.mem) (q : Nat) : t.word q = s.word q :=
  word_congr fun _ _ => byte_of_mem h _

/-- A telemetry slot without a request: the counts stand in the page, and nothing outside the page changes. -/
theorem telemetryStep_spec {s : State} {stack k : Nat} (hk : raKey (telemetryRa stack) = k) (hdone : s.slotDone (240 + stack) = 0)
    (hgo : (s.word (k + 0x200)).getLsbD 63 = false) :
    ∃ t, s.telemetryStep stack = t ∧
      t.word k = BitVec.ofNat 64 s.lap ∧ (∀ i < 33, t.word (k + 8 + 8 * i) = BitVec.ofNat 64 (dget 0 s.errs (stack * 64 + i))) ∧
      (∀ i < 8, t.word (k + 0x118 + 8 * i) = BitVec.ofNat 64 (dget 0 s.errs (stack * 64 + 33 + i))) ∧ t.slotDone (240 + stack) = 1 ∧
      (∀ q, q < k ∨ k + 0x200 ≤ q → t.byte q = s.byte q) ∧
      { t with mem := s.mem, free := s.free, slotAt := s.slotAt, slotUse := s.slotUse } = s := by
  have hslot : (s.noteSlot (240 + stack) 1).slotDone (240 + stack) = 1 := by rw [slotDone_noteSlot, hdone]
  have hstep := telemetryStep_eq hdone
  obtain ⟨hlap, hchan, hother, hcounts⟩ := telemetryCounts_spec (s.noteSlot (240 + stack) 1) stack
  have hstock := telemetryStock_memOnly ((s.noteSlot (240 + stack) 1).telemetryCounts stack) stack
  obtain ⟨c, hc⟩ : ∃ c, c = (s.noteSlot (240 + stack) 1).telemetryCounts stack := ⟨_, rfl⟩
  obtain ⟨u, hu⟩ : ∃ u, u = c.telemetryStock stack := ⟨_, rfl⟩
  rw [← hc] at hstep hlap hchan hother hcounts hstock
  rw [← hu] at hstep hstock
  rw [hk] at hlap hchan hother hcounts hstock
  have hpage : MemOnly (fun q => k ≤ q ∧ q < k + 0x200) (s.noteSlot (240 + stack) 1) u :=
    (hcounts.mono fun q hq => by omega).trans (hstock.mono fun q hq => by omega)
  have hword : ∀ q, ({ u with free := s.free + 1 } : State).word q = u.word q := word_of_mem rfl
  have hrequest : ({ u with free := s.free + 1 } : State).word (k + 0x200) = s.word (k + 0x200) :=
    (hword _).trans ((hpage.word fun i hi => by omega).trans (word_of_mem rfl _))
  have hbyte : ∀ q, q < k ∨ k + 0x200 ≤ q → ({ u with free := s.free + 1 } : State).byte q = s.byte q := fun q hq =>
    (byte_of_mem rfl q).trans ((hpage.bytes q (by omega)).trans (byte_of_mem rfl q))
  have hdone' : ({ u with free := s.free + 1 } : State).slotDone (240 + stack) = 1 := by
    rw [hpage.rest]
    exact hslot
  have hframe : ({ u with mem := s.mem, free := s.free, slotAt := s.slotAt, slotUse := s.slotUse } : State) = s := by
    rw [hpage.rest]
    rfl
  exact ⟨_, hstep.trans (spareRequest_none (by rw [hk, hrequest, hgo])), (hword k).trans ((hstock.word fun i hi => by omega).trans hlap),
    fun i hi => (hword _).trans ((hstock.word fun j hj => by omega).trans (hchan i hi)),
    fun i hi => (hword _).trans ((hstock.word fun j hj => by omega).trans (hother i hi)), hdone', hbyte, hframe⟩

/-! ### Migration slots (R339) -/

theorem migrationStep_idle {s : State} (h : s.pageOp = none ∨ s.slotDone 32 ≠ 0) : s.migrationStep = s := by
  unfold State.migrationStep
  split
  · rfl
  next p hp => exact if_pos (h.resolve_left (by simp [hp]))

theorem migrationStep_moves {s : State} {p : PageOp} (hdone : s.slotDone 32 = 0) (hp : s.pageOp = some p)
    (hmore : p.moved + 2 ^ s.msetLog p.mset < p.size / 65536) :
    s.migrationStep = { s.noteSlot 32 1 with pageOp := some { p with moved := p.moved + 2 ^ s.msetLog p.mset } } := by
  unfold State.migrationStep
  rw [hp]
  dsimp only
  rw [if_neg (not_not.2 hdone)]
  exact if_neg (not_le.2 hmore)
end Sys2Proof.Machine
end

section
/-! PROOF. Snapshots and their drain (R333). -/
namespace Sys2Proof.Machine
open Sys2Proof

/-! ### The drain of a snapshot (R333) -/

theorem markLeaf_eq (s : State) (ctx va : Nat) (on : Bool) : s.markLeaf ctx va on = { s with mem := (s.markLeaf ctx va on).mem } := by
  unfold State.markLeaf
  split
  · exact setWord_eq _ _ _
  · rfl

theorem thaw_eq (s : State) (f : Frozen) : s.thaw f =
    { s with frozen := s.frozen.filter (· != f), asked := (s.thaw f).asked, mem := (s.thaw f).mem } := by
  unfold State.thaw
  rw [markLeaf_eq]

theorem snaps_thaws (fs : List Frozen) : ∀ s : State, (fs.foldl (fun s f => s.thaw f) s).snaps = s.snaps := by
  induction fs with
  | nil => intro s; rfl
  | cons f fs ih => intro s; rw [List.foldl_cons, ih, thaw_eq]

theorem mem_frozen_thaws {g : Frozen} (fs : List Frozen) : ∀ s : State, g ∈ (fs.foldl (fun s f => s.thaw f) s).frozen → g ∈ s.frozen ∧ g ∉ fs := by
  induction fs with
  | nil => intro s h; exact ⟨h, List.not_mem_nil⟩
  | cons f fs ih =>
    intro s h
    obtain ⟨hg, hfs⟩ := ih (s.thaw f) h
    rw [thaw_eq] at hg
    obtain ⟨hs, hne⟩ := List.mem_filter.1 hg
    exact ⟨hs, fun hc => (List.mem_cons.1 hc).elim (by simpa using hne) hfs⟩

theorem noteSlots_eq (n : State → Nat → Nat) (us : List Nat) : ∀ s : State, us.foldl (fun s st => s.noteSlot st (n s st)) s =
    { s with slotAt := (us.foldl (fun s st => s.noteSlot st (n s st)) s).slotAt, slotUse := (us.foldl (fun s st => s.noteSlot st (n s st)) s).slotUse } := by
  induction us with
  | nil => intro s; rfl
  | cons u us ih => intro s; rw [List.foldl_cons, ih]; rfl

theorem noteDrain_eq (s : State) (f : Frozen) : s.noteDrain f = { s with slotAt := (s.noteDrain f).slotAt, slotUse := (s.noteDrain f).slotUse } := by
  exact noteSlots_eq (fun s st => s.granuleShare f st) (List.range 16) s

theorem spoil_eq (ctx va : Nat) (bad : List Nat) : ∀ s : State, s.spoil ctx va bad = { s with lines := (s.spoil ctx va bad).lines } := by
  induction bad with
  | nil => intro s; rfl
  | cons j js ih =>
    intro s
    have hcons : s.spoil ctx va (j :: js) = (s.spoil ctx va [j]).spoil ctx va js := rfl
    have hone : s.spoil ctx va [j] = { s with lines := (s.spoil ctx va [j]).lines } := by
      unfold State.spoil
      dsimp only [List.foldl_cons, List.foldl_nil]
      split <;> rfl
    rw [hcons, ih, hone]

theorem length_entryHeader (num ctx : Nat) (f : Frozen) : (entryHeader num ctx f).length = 128 := by
  simp only [entryHeader, List.length_append, length_toBytes, List.length_replicate]

theorem length_frozenBytes (s : State) (f : Frozen) : (s.frozenBytes f).length = 65536 := by
  have hset : ∀ (cs : List Host.Cell) (bs : List Byte), (cs.foldl (fun bs c => bs.set c.1 c.2) bs).length = bs.length := by
    intro cs
    induction cs with
    | nil => intro bs; rfl
    | cons c cs ih => intro bs; rw [List.foldl_cons, ih, List.length_set]
  unfold State.frozenBytes
  rw [hset, List.length_replicate]

/-- A snapshot's entry replaced. -/
def State.putSnap (s : State) (num : Nat) (sn : Snap) : State := { s with snaps := s.snaps.map fun n => if n.num = num then sn else n }

/-- A drain that ends with an error: its granules are released. -/
def State.failDrain (s : State) (num : Nat) (sn : Snap) (fs : List Frozen) : State :=
  (fs.foldl (fun s f => s.thaw f) s).putSnap num { sn with err := true }

/-- What a drain slot does with the granule `f` of a snapshot whose granules are `fs`. -/
def State.drainOne (s : State) (num : Nat) (sn : Snap) (fs : List Frozen) (f : Frozen) : State :=
  if sn.tlen < (sn.count + 1) * 65664 then s.failDrain num sn fs
  else match s.drainWrite sn (sn.tva + 65664 * sn.count) (entryHeader num (f.win / 4096 % 64) f ++ s.frozenBytes f)
      ((s.frozenBad f).map (16 + ·)) with
    | .ok s ts _ => ((s.noteDrain f).thaw f).putSnap num { sn with count := sn.count + 1, pts := max sn.pts ts }
    | .wait s => s
    | .bad s _ => s.failDrain num sn fs

/-- The granules of a snapshot that are frozen still. -/
def State.frozenOf (s : State) (num : Nat) : List Frozen := s.frozen.filter fun f => f.snap == num

section
variable {s : State} {num : Nat} {sn : Snap}

theorem drainSnap_none (h : s.snaps.find? (fun n => n.num == num) = none) : s.drainSnap num = s := by
  unfold State.drainSnap
  rw [h]

theorem drainSnap_full (hmine : ∃ f ∈ s.frozen, f.snap = num) (hroom : ∀ f ∈ s.frozen, f.snap = num → s.drainRoom f = false) :
    s.drainSnap num = s := by
  have hfull : (s.frozenOf num).filter s.drainRoom = [] := by
    refine List.filter_eq_nil_iff.2 fun f hf => ?_
    obtain ⟨hf, hn⟩ := List.mem_filter.1 hf
    simp [hroom f hf (by simpa using hn)]
  have hsome : (s.frozenOf num).isEmpty = false := by
    obtain ⟨f, hf, hn⟩ := hmine
    exact List.isEmpty_eq_false_iff.2 (List.ne_nil_of_mem (List.mem_filter.2 ⟨hf, by simpa using hn⟩))
  unfold State.drainSnap
  split
  · rfl
  · dsimp only
    rw [show (s.frozen.filter fun f => f.snap == num) = s.frozenOf num from rfl, hsome, hfull]
    rfl

/-- A granule with room in the slot is picked and drained. -/
theorem drainSnap_pick (hfind : s.snaps.find? (fun n => n.num == num) = some sn) (hroom : ∃ f ∈ s.frozen, f.snap = num ∧ s.drainRoom f = true) :
    ∃ f ∈ s.frozen, f.snap = num ∧ s.drainSnap num = ({ s with free := s.free + 1 } : State).drainOne num sn (s.frozenOf num) f := by
  obtain ⟨g, hg, hn, hr⟩ := hroom
  have hmine : g ∈ s.frozenOf num := List.mem_filter.2 ⟨hg, by simpa using hn⟩
  have hfit : 0 < ((s.frozenOf num).filter s.drainRoom).length := List.length_pos_of_mem (List.mem_filter.2 ⟨hmine, hr⟩)
  have hlt := Nat.mod_lt (Config.pick s.free) hfit
  have hpick := List.getElem?_eq_getElem hlt
  have hmem := List.getElem_mem hlt
  generalize ((s.frozenOf num).filter s.drainRoom)[Config.pick s.free % ((s.frozenOf num).filter s.drainRoom).length] = f at hpick hmem
  obtain ⟨hf, hfn⟩ := List.mem_filter.1 (List.mem_filter.1 hmem).1
  refine ⟨f, hf, by simpa using hfn, ?_⟩
  unfold State.drainSnap
  rw [hfind]
  dsimp only
  rw [show (s.frozen.filter fun f => f.snap == num) = s.frozenOf num from rfl,
    List.isEmpty_eq_false_iff.2 (List.ne_nil_of_mem hmine), hpick]
  rfl

theorem drainWrite_bad (s : State) {sn : Snap} {va : Nat} (hpeer : ∀ ep, sn.ep = some ep → s.isPeer ep = false)
    (hhost : sn.ep = none → s.inHost sn.ctx va = false) (bs : List Byte) (bad : List Nat) : s.drainWrite sn va bs bad = .bad s 4 := by
  unfold State.drainWrite
  cases he : sn.ep with
  | none => simp [hhost he]
  | some ep => simp [hpeer ep he]

theorem failDrain_spec (s : State) (num : Nat) (sn : Snap) : (∀ f ∈ (s.failDrain num sn (s.frozenOf num)).frozen, f.snap ≠ num) ∧
    (s.failDrain num sn (s.frozenOf num)).snaps = s.snaps.map fun n => if n.num = num then { sn with err := true } else n := by
  constructor
  · intro f hf hn
    obtain ⟨hs, hnot⟩ := mem_frozen_thaws _ s hf
    exact hnot (List.mem_filter.2 ⟨hs, by simpa using hn⟩)
  · unfold State.failDrain State.putSnap
    rw [snaps_thaws]

/-- One past its target's length, or to a target that is none (R333). -/
theorem drainSnap_fail (hfind : s.snaps.find? (fun n => n.num == num) = some sn) (hroom : ∃ f ∈ s.frozen, f.snap = num ∧ s.drainRoom f = true)
    (hbad : sn.tlen < (sn.count + 1) * 65664 ∨
      (∀ ep, sn.ep = some ep → s.isPeer ep = false) ∧ (sn.ep = none → s.inHost sn.ctx (sn.tva + 65664 * sn.count) = false)) :
    (∀ f ∈ (s.drainSnap num).frozen, f.snap ≠ num) ∧
      (s.drainSnap num).snaps = s.snaps.map fun n => if n.num = num then { sn with err := true } else n := by
  obtain ⟨f, -, -, hdrain⟩ := drainSnap_pick hfind hroom
  have hfail : s.drainSnap num = ({ s with free := s.free + 1 } : State).failDrain num sn (s.frozenOf num) := by
    rw [hdrain]
    unfold State.drainOne
    by_cases hlen : sn.tlen < (sn.count + 1) * 65664
    · rw [if_pos hlen]
    · obtain ⟨hpeer, hhost⟩ := hbad.resolve_left hlen
      rw [if_neg hlen, drainWrite_bad { s with free := s.free + 1 } hpeer hhost]
  rw [hfail]
  exact failDrain_spec { s with free := s.free + 1 } num sn

/-- The agent that drains a snapshot. -/
def Snap.drainer (sn : Snap) : Who := { ctx := sn.ctx, core := 192, super := true }

theorem LineReady.free {ctx : Nat} {r : Req} {win : Win} {l : Line} {wr : Bool} (h : LineReady s ctx r win l wr) (n : Nat) :
    LineReady { s with free := n } ctx r win l wr :=
  ⟨h.there, h.real, h.live, h.gen, h.lost, h.pad, h.inside, h.kind, h.sync, h.line, h.dirty, h.poison, h.merge, h.moves, h.frozen, h.host⟩

/-- An entry goes to a HOST arena all of whose lines are ready for it. -/
theorem drainWrite_host {va : Nat} {bs : List Byte} (hlen : bs.length = 65664) (hep : sn.ep = none) (hhost : s.inHost sn.ctx va = true)
    (hready : ∀ i < 513, ∃ k g win l, s.checkRange sn.drainer (va + 128 * i) 128 1 false true = .ok (k, g) ∧
      LineReady s sn.ctx (agentReq k g (va + 128 * i) 128) win l true) (bad : List Nat) :
    ∃ t ts out, s.drainWrite sn va bs bad = .ok t ts out ∧ t.frozen = s.frozen ∧ t.snaps = s.snaps := by
  obtain ⟨t, ts, out, ht, hk⟩ := agentWrite_pieces (s := s) (a := sn.drainer) (va := va) (step := 128) (bs := bs)
    (fun i hi => hready i (by omega)) sn.pts
  refine ⟨t.spoil sn.ctx va bad, ts, out, ?_, ?_, ?_⟩
  · unfold State.drainWrite
    simp only [hep, hhost, if_true]
    rw [show s.agentWrite { ctx := sn.ctx, core := 192, super := true } sn.pts va 128 bs = _ from ht]
  · rw [spoil_eq, hk.rest]
  · rw [spoil_eq, hk.rest]

/-- One granule written to its target and released (R333). -/
theorem drainSnap_entry (hfind : s.snaps.find? (fun n => n.num == num) = some sn) (hroom : ∃ f ∈ s.frozen, f.snap = num ∧ s.drainRoom f = true)
    (hlen : (sn.count + 1) * 65664 ≤ sn.tlen) (hep : sn.ep = none) (hhost : s.inHost sn.ctx (sn.tva + 65664 * sn.count) = true)
    (hready : ∀ i < 513, ∃ k g win l, s.checkRange sn.drainer (sn.tva + 65664 * sn.count + 128 * i) 128 1 false true = .ok (k, g) ∧
      LineReady s sn.ctx (agentReq k g (sn.tva + 65664 * sn.count + 128 * i) 128) win l true) :
    ∃ f pts, f ∈ s.frozen ∧ f.snap = num ∧ (s.drainSnap num).frozen = s.frozen.filter (· != f) ∧
      (s.drainSnap num).snaps = s.snaps.map fun n => if n.num = num then { sn with count := sn.count + 1, pts := pts } else n := by
  obtain ⟨f, hf, hn, hdrain⟩ := drainSnap_pick hfind hroom
  let s' : State := { s with free := s.free + 1 }
  obtain ⟨t, ts, out, ht, hfrozen, hsnaps⟩ := drainWrite_host (s := s') (bs := entryHeader num (f.win / 4096 % 64) f ++ s'.frozenBytes f)
    (by rw [List.length_append, length_entryHeader, length_frozenBytes]) hep hhost
    (fun i hi => by
      obtain ⟨k, g, win, l, hc, hl⟩ := hready i hi
      exact ⟨k, g, win, l, hc, hl.free _⟩) ((s'.frozenBad f).map (16 + ·))
  refine ⟨f, max sn.pts ts, hf, hn, ?_⟩
  have hone : s'.drainOne num sn (s.frozenOf num) f =
      ((t.noteDrain f).thaw f).putSnap num { sn with count := sn.count + 1, pts := max sn.pts ts } := by
    unfold State.drainOne
    rw [if_neg (not_lt.2 hlen), ht]
  rw [hdrain, show State.drainOne _ num sn (s.frozenOf num) f = _ from hone, State.putSnap, thaw_eq, noteDrain_eq]
  dsimp only
  rw [hfrozen, hsnaps]
  exact ⟨rfl, rfl⟩

/-- The last step: the outcome is written and the snapshot ends (R333). -/
theorem drainSnap_last (hfind : s.snaps.find? (fun n => n.num == num) = some sn) (hdone : ∀ f ∈ s.frozen, f.snap ≠ num)
    {k g : Nat} {win : Win} {l : Line} (hword : (sn.desc + 24) % 128 + 8 ≤ 128)
    (hc : s.checkRange sn.drainer (sn.desc + 24) 8 1 false true = .ok (k, g))
    (hl : LineReady s sn.ctx (agentReq k g (sn.desc + 24) 8) win l true) (hdata : l.data.length = 128) :
    (s.drainSnap num).snaps = s.snaps.filter (fun n => n.num != num) ∧ (s.drainSnap num).frozen = s.frozen ∧
      (s.drainSnap num).lineWord sn.drainer (sn.desc + 24) = 2 ^ 63 + (if sn.err then 2 ^ 62 else 0) + sn.count % 2 ^ 32 := by
  obtain ⟨t, ts, out, ht, hk, y, hy, hyd⟩ := hl.agentWrite_word hc sn.pts (2 ^ 63 + (if sn.err then 2 ^ 62 else 0) + sn.count % 2 ^ 32)
  have hnone : s.frozenOf num = [] := List.filter_eq_nil_iff.2 fun f hf => by simpa using hdone f hf
  have hend : s.drainSnap num = { t with snaps := t.snaps.filter fun n => n.num != num } := by
    unfold State.drainSnap
    rw [hfind]
    dsimp only
    rw [show (s.frozen.filter fun f => f.snap == num) = s.frozenOf num from rfl, hnone]
    dsimp only [List.isEmpty_nil, if_true]
    rw [if_pos rfl, show s.agentWrite { ctx := sn.ctx, core := 192, super := true } _ _ _ _ = _ from ht]
  have hwords : t.lineWord sn.drainer (sn.desc + 24) = 2 ^ 63 + (if sn.err then 2 ^ 62 else 0) + sn.count % 2 ^ 32 := by
    unfold State.lineWord
    rw [hk.checkRange, hc]
    dsimp only
    rw [hy]
    dsimp only
    have htake := take_drop_overlay l.data (toBytes 8 (2 ^ 63 + (if sn.err then 2 ^ 62 else 0) + sn.count % 2 ^ 32))
      (p := (sn.desc + 24) % 128) (by omega)
    rw [length_toBytes] at htake
    rw [hyd, htake, ofBytes_toBytes, Nat.mod_eq_of_lt]
    split <;> omega
  rw [hend]
  exact ⟨by rw [hk.rest], by rw [hk.rest], hwords⟩
end
end Sys2Proof.Machine
end

section
/-! PROOF. Laps and their slots settled. -/
namespace Sys2Proof.Machine
open Sys2Proof

theorem snapshotDrain_idle {s : State} {num : Nat} (h : s.slotNow ≠ 2 ∨ s.snaps.find? (fun n => n.num == num) = none ∨
    ((∃ f ∈ s.frozen, f.snap = num) ∧ ∀ f ∈ s.frozen, f.snap = num → s.drainRoom f = false)) :
    exec (.snapshotDrain num) s = .next s := by
  rw [exec_snapshotDrain, execSnapshotDrain]
  by_cases hslot : s.slotNow = 2
  · rw [if_pos hslot]
    rcases h.resolve_left (not_not.2 hslot) with hnone | ⟨hmine, hroom⟩
    · rw [drainSnap_none hnone]
    · rw [drainSnap_full hmine hroom]
  · rw [if_neg hslot]

theorem snapshotDrain_next {s : State} (num : Nat) (h : s.slotNow = 2) : exec (.snapshotDrain num) s = .next (s.drainSnap num) := by
  rw [exec_snapshotDrain, execSnapshotDrain, if_pos h]

theorem inHost_of_cover {s : State} {ctx va k : Nat} {w : Win} (h : s.cover ctx va = some (k, w)) (hk : attrKind w.attr = 1) :
    s.inHost ctx va = true := by
  unfold State.inHost
  rw [h]
  simpa using hk

theorem migrationSlot_idle {s : State} (h : s.slotNow ≠ 4 ∨ s.pageOp = none ∨ s.slotDone 32 ≠ 0) : exec .migrationSlot s = .next s := by
  rw [exec_migrationSlot, execMigrationSlot]
  by_cases hslot : s.slotNow = 4
  · rw [if_pos hslot, migrationStep_idle (h.resolve_left (not_not.2 hslot))]
  · rw [if_neg hslot]

theorem telemetrySlot_idle {s : State} {stack : Nat} (h : ¬(s.slotNow = 5 ∧ stack < 16 ∧ s.slotDone (240 + stack) = 0)) :
    exec (.telemetrySlot stack) s = .next s := by
  rw [exec_telemetrySlot, execTelemetrySlot]
  by_cases hslot : s.slotNow = 5 ∧ stack < 16
  · have hdone : s.slotDone (240 + stack) ≠ 0 := fun e => h ⟨hslot.1, hslot.2, e⟩
    rw [if_pos hslot, State.telemetryStep, if_pos hdone]
  · rw [if_neg hslot]

/-- Settles O55: each event is the step of its unit in its slot, and the steps are described clause by clause above. -/
theorem lapSlots : Obligations.LapSlots := by
  intro s stack group num
  refine ⟨fun h => ?noLap, fun hlap hboot => ⟨_, rfl, startLap_spec hlap hboot⟩, snapshotDrain_idle, fun sn hslot hfind hroom hbad => ?fail,
    ⟨fun sn k win own hslot hfind hmine hroom hlen hep hcover hhost _ hready => ?entry, fun sn k g win l hslot hfind hdone hword hc hl hdata => ?last⟩,
    migrationSlot_idle, fun p hslot hdone hp hmore => ?moves, telemetrySlot_idle, fun hslot hstack hdone hgo => ?telemetry, fun h => ?noGroup,
    fun h => ?retrained⟩
  case noLap =>
    rw [exec_lapStart, execLapStart, State.startLap, if_pos h]
  case fail =>
    refine ⟨_, snapshotDrain_next num hslot, drainSnap_fail hfind hroom (hbad.imp_right fun hno => ⟨fun ep he => ?_, fun he => ?_⟩)⟩
    · rwa [he] at hno
    · rwa [he] at hno
  case entry =>
    obtain ⟨g, hg, hn⟩ := hmine
    obtain ⟨f, pts, hf, hfn, hfrozen, hsnaps⟩ := drainSnap_entry hfind ⟨g, hg, hn, hroom g hg hn⟩ hlen hep (inHost_of_cover hcover hhost)
      fun i hi => by
        obtain ⟨hc, -, l, hl⟩ := hready i hi
        exact ⟨k, win.gen, own, l, hc, hl⟩
    exact ⟨_, f, pts, snapshotDrain_next num hslot, hf, hfn, hfrozen, hsnaps⟩
  case last =>
    exact ⟨_, snapshotDrain_next num hslot, drainSnap_last hfind hdone hword hc hl hdata⟩
  case moves =>
    rw [exec_migrationSlot, execMigrationSlot, if_pos hslot, migrationStep_moves hdone hp hmore]
  case telemetry =>
    obtain ⟨t, ht, hspec⟩ := telemetryStep_spec rfl hdone hgo
    exact ⟨t, by rw [exec_telemetrySlot, execTelemetrySlot, if_pos ⟨hslot, hstack⟩, ht], hspec⟩
  case noGroup =>
    rw [exec_groupRetrains, execGroupRetrains, State.groupRetrained, h]
    rfl
  case retrained =>
    exact ⟨_, rfl, groupRetrained_spec h⟩
end Sys2Proof.Machine
end

section
/-! PROOF. The floating-point family: one rounding of an exact value in each lane, or in each half of one (R47, R48, R84). -/
namespace Sys2Proof.Machine
open Sys2Proof

/-! ### Codes stay within their format -/

/-- The width in bits of the codes of a format: sign, exponent and fraction (R40). -/
def FloatFmt.width (f : FloatFmt) : Nat := f.expBits + f.fracBits + 1

/-- The codes that Table 2.2 names for a format lie below its sign bit. -/
structure FloatFmt.NamedFit (f : FloatFmt) : Prop where
  greatest : f.maxCode < 2 ^ (f.expBits + f.fracBits)
  infinity : ∀ i, f.infCode = some i → i < 2 ^ (f.expBits + f.fracBits)
  nan : ∀ c, f.nanCode = some c → c < 2 ^ (f.expBits + f.fracBits)

/-- An operation on codes that answers a code of the same format. -/
def StaysInFormat (op : FloatFmt → Nat → Nat → Nat → Nat) : Prop :=
  ∀ f : FloatFmt, f.NamedFit → ∀ x y z, x < 2 ^ f.width → y < 2 ^ f.width → z < 2 ^ f.width → op f x y z < 2 ^ f.width

section
variable {f : FloatFmt}

theorem FloatFmt.two_pow_width (f : FloatFmt) : 2 ^ f.width = 2 ^ (f.expBits + f.fracBits) + 2 ^ (f.expBits + f.fracBits) := by
  rw [width, pow_succ, Nat.mul_two]

theorem FloatFmt.lt_of_magnitude (f : FloatFmt) {mag : Nat} (h : mag < 2 ^ (f.expBits + f.fracBits)) : mag < 2 ^ f.width := by
  rw [f.two_pow_width]; omega

theorem FloatFmt.withSign_lt (f : FloatFmt) (neg : Bool) {mag : Nat} (h : mag < 2 ^ (f.expBits + f.fracBits)) :
    f.withSign neg mag < 2 ^ f.width := by
  rw [f.two_pow_width, withSign]
  split <;> omega

theorem FloatFmt.NamedFit.nanOut_lt (h : f.NamedFit) : f.nanOut < 2 ^ f.width := by
  unfold FloatFmt.nanOut
  cases hn : f.nanCode with
  | some c => exact f.lt_of_magnitude (h.nan c hn)
  | none => exact Nat.two_pow_pos _

theorem FloatFmt.NamedFit.overflow_lt (h : f.NamedFit) (mode : Nat) (sat neg : Bool) : f.overflow mode sat neg < 2 ^ f.width := by
  have hmax : f.withSign neg f.maxCode < 2 ^ f.width := f.withSign_lt neg h.greatest
  unfold overflow
  cases hi : f.infCode with
  | some i =>
    have hinf := f.withSign_lt neg (h.infinity i hi)
    dsimp only
    split_ifs <;> assumption
  | none =>
    cases hn : f.nanCode with
    | some c =>
      have hnan := f.lt_of_magnitude (h.nan c hn)
      dsimp only
      split_ifs <;> assumption
    | none => simpa using hmax

/-- An infinite input has the code that a finite overflow to nearest has (Table 2.7). -/
theorem FloatFmt.infOut_eq_overflow (f : FloatFmt) (sat neg : Bool) : f.infOut sat neg = f.overflow 0 sat neg := by
  unfold infOut overflow
  cases f.infCode <;> simp

theorem FloatFmt.NamedFit.roundFloat_lt (h : f.NamedFit) (mode : Nat) (sat : Bool) (v : Val) : roundFloat f mode sat v < 2 ^ f.width := by
  cases v with
  | nan => exact h.nanOut_lt
  | inf neg =>
    rw [roundFloat, f.infOut_eq_overflow]
    exact h.overflow_lt _ _ _
  | fin neg mag exp =>
    have hzero : f.withSign neg 0 < 2 ^ f.width := f.withSign_lt neg (Nat.two_pow_pos _)
    have hover := h.overflow_lt mode sat neg
    have hcode : ∀ c, ¬ f.maxCode < c → f.withSign neg c < 2 ^ f.width := fun c hc => f.withSign_lt neg (lt_of_le_of_lt (not_lt.1 hc) h.greatest)
    unfold roundFloat
    dsimp only
    split_ifs with h0 h1 h2 h3
    · exact hzero
    · exact hover
    · exact hcode _ h2
    · exact hover
    · exact hcode _ h3

theorem staysInFormat_round (mode : Nat) (sat : Bool) (v : FloatFmt → Nat → Nat → Nat → Val) :
    StaysInFormat fun f x y z => roundFloat f mode sat (v f x y z) :=
  fun _ hf _ _ _ _ _ _ => hf.roundFloat_lt _ _ _

/-- The smaller or larger of two codes is one of the two, or the NaN of the format (R56). -/
theorem minMaxCode_cases (f : FloatFmt) (wantMax : Bool) (x y : Nat) :
    minMaxCode f wantMax x y = x ∨ minMaxCode f wantMax x y = y ∨ minMaxCode f wantMax x y = f.nanOut := by
  unfold minMaxCode
  split
  · exact .inr (.inr rfl)
  · exact .inr (.inl rfl)
  · exact .inl rfl
  · dsimp only
    generalize (_ != wantMax) = c
    cases c
    · exact .inr (.inl rfl)
    · exact .inl rfl

theorem staysInFormat_minMax (wantMax : Bool) : StaysInFormat fun f x y _ => minMaxCode f wantMax x y := by
  intro f hf x y _ hx hy _
  show minMaxCode f wantMax x y < _
  rcases minMaxCode_cases f wantMax x y with e | e | e
  · rwa [e]
  · rwa [e]
  · exact e ▸ hf.nanOut_lt

/-! ### The sign bit cleared and inverted -/

theorem absCode_eq (f : FloatFmt) (x : Nat) :
    absCode f x = if floatVal f x = .nan then f.nanOut else x % 2 ^ (f.expBits + f.fracBits) := by
  unfold absCode
  cases floatVal f x <;> simp

/-- The sign of a value that is a number or an infinity is the sign bit of its code (R40). -/
theorem isNeg_floatVal {x : Nat} (h : floatVal f x ≠ .nan) : (floatVal f x).isNeg = (x / 2 ^ (f.expBits + f.fracBits) % 2 == 1) := by
  rw [Nat.add_comm f.expBits]
  unfold floatVal at h ⊢
  dsimp only at h ⊢
  split_ifs at h ⊢
  · rfl
  · exact absurd rfl h
  · rfl
  · rfl

/-- Inverting bit `n` of a number is adding 2^n modulo 2^(n+1). -/
theorem add_two_pow_mod (x n : Nat) :
    (x + 2 ^ n) % 2 ^ (n + 1) = if x / 2 ^ n % 2 = 1 then x % 2 ^ n else 2 ^ n + x % 2 ^ n := by
  have hmod : (x + 2 ^ n) % 2 ^ (n + 1) = x % 2 ^ n + 2 ^ n * ((x / 2 ^ n + 1) % 2) := by
    rw [pow_succ, Nat.mod_mul, Nat.add_mod_right, Nat.add_div_right _ (Nat.two_pow_pos _)]
  rw [hmod]
  rcases Nat.mod_two_eq_zero_or_one (x / 2 ^ n) with h | h
  · rw [if_neg (by omega), show (x / 2 ^ n + 1) % 2 = 1 by omega, Nat.mul_one, Nat.add_comm]
  · rw [if_pos h, show (x / 2 ^ n + 1) % 2 = 0 by omega, Nat.mul_zero, Nat.add_zero]

theorem negCode_eq (f : FloatFmt) (x : Nat) : negCode f x =
    if floatVal f x = .nan then f.nanOut else (x + 2 ^ (f.expBits + f.fracBits)) % 2 ^ (f.expBits + f.fracBits + 1) := by
  by_cases h : floatVal f x = .nan
  · rw [if_pos h, negCode, h]
  · have hsign : negCode f x = f.withSign (!(floatVal f x).isNeg) (x % 2 ^ (f.expBits + f.fracBits)) := by
      unfold negCode
      split
      · exact absurd ‹_› h
      · rfl
    rw [if_neg h, hsign, isNeg_floatVal h, add_two_pow_mod, FloatFmt.withSign]
    by_cases hbit : x / 2 ^ (f.expBits + f.fracBits) % 2 = 1 <;> simp [hbit]

theorem staysInFormat_abs : StaysInFormat fun f x _ _ => absCode f x := by
  intro f hf x _ _ _ _ _
  show absCode f x < _
  rw [absCode_eq]
  split
  · exact hf.nanOut_lt
  · exact f.lt_of_magnitude (Nat.mod_lt _ (Nat.two_pow_pos _))

theorem staysInFormat_neg : StaysInFormat fun f x _ _ => negCode f x := by
  intro f hf x _ _ _ _ _
  show negCode f x < _
  rw [negCode_eq]
  split
  · exact hf.nanOut_lt
  · exact Nat.mod_lt _ (Nat.two_pow_pos _)
end

/-! ### A lane as one code or as two halves (R84) -/

theorem namedFit_bf16 : bf16.NamedFit := ⟨by decide, by rintro _ ⟨⟩; decide, by rintro _ ⟨⟩; decide⟩
theorem namedFit_f16 : f16.NamedFit := ⟨by decide, by rintro _ ⟨⟩; decide, by rintro _ ⟨⟩; decide⟩

theorem ofNat_halves {lo : Nat} (h : lo < 2 ^ 16) (hi : Nat) :
    BitVec.ofNat 32 (lo + 65536 * hi) = BitVec.ofNat 16 hi ++ BitVec.ofNat 16 lo := by
  apply BitVec.eq_of_toNat_eq
  rw [BitVec.toNat_append, ← Nat.shiftLeft_add_eq_or_of_lt (BitVec.isLt _), Nat.shiftLeft_eq]
  simp only [BitVec.toNat_ofNat]
  omega

theorem toNat_half (x : BitVec 32) (i : Nat) : (x.extractLsb' (16 * i) 16).toNat = x.toNat / 2 ^ (16 * i) % 65536 := by
  rw [BitVec.extractLsb'_toNat, Nat.shiftRight_eq_div_pow]

theorem ofNat_byForm {op : FloatFmt → Nat → Nat → Nat → Nat} (hop : StaysInFormat op) (ft : BitVec 2) (x y z : BitVec 32) :
    BitVec.ofNat 32 (byForm ft op x.toNat y.toNat z.toNat) = floatLane ft op x y z := by
  unfold byForm floatLane
  by_cases h0 : ft = 0
  · rw [if_pos h0, if_pos h0]
  · have hfm : fmtOf (if ft = 1 then 2 else 1) = if ft = 1 then bf16 else f16 := by split <;> rfl
    have hfit : (if ft = 1 then bf16 else f16).NamedFit := by split <;> [exact namedFit_bf16; exact namedFit_f16]
    have hwidth : (if ft = 1 then bf16 else f16).width = 16 := by split <;> rfl
    rw [if_neg h0, if_neg h0, hfm]
    generalize (if ft = 1 then bf16 else f16) = fm at hfit hwidth
    have hlow := hop fm hfit
    rw [hwidth] at hlow
    simp only [← toNat_half]
    exact ofNat_halves (hlow _ _ _ (BitVec.isLt _) (BitVec.isLt _) (BitVec.isLt _)) _

/-! ### The family settled -/

/-- Lane `l` of source `i` of an instruction, zero where it has fewer sources. -/
def sourceLane (s : State) (w : Nat) (f : Sched) (srcs : List Reg) (i l : Nat) : BitVec 32 :=
  srcs[i]?.elim 0 fun q => laneAt s w f (srcs.take i) q l

theorem floatOp_spec {s : State} {w : Nat} {pcb : Bool} {x : Wave} {f : Sched} (h : Turn s w pcb x) (ha : activeAt s w pcb f ≠ 0)
    {op : FloatFmt → Nat → Nat → Nat → Nat} (hop : StaysInFormat op) (ft : BitVec 2) (d : Reg) (srcs : List Reg) :
    ∃ u, floatOp s f ft op d srcs = .next u ∧ Fixed s u w pcb x f 6 ∧ ResultL s u w x d (activeAt s w pcb f)
      (fun l => floatLane ft op (sourceLane s w f srcs 0 l) (sourceLane s w f srcs 1 l) (sourceLane s w f srcs 2 l)) srcs := by
  obtain ⟨u, hu, hfixed, hres⟩ := fixedL_spec h (f := f) (lat := 6) (ty := 0) rfl d srcs _ ha
  refine ⟨u, hu, hfixed, ?_⟩
  convert hres using 2 with l
  rw [← ofNat_byForm hop]
  unfold sourceLane
  dsimp only
  congr 2
  · cases srcs[0]? <;> rfl
  · cases srcs[1]? <;> rfl
  · cases srcs[2]? <;> rfl

/-- Settles O9: each form is its operation on the codes of a lane, and since every operation stays in its format the results
of two halves do not run into each other; VFABS and VFNEG clear and invert the sign bit as arithmetic on codes. -/
theorem floatResults : Obligations.FloatResults := by
  intro s w pcb x f ft rm d a b c h ha
  simp only [floatRows, List.forall_mem_cons, List.not_mem_nil, false_imp_iff, implies_true, and_true, exec_vfadd, exec_vfsub, exec_vfmul,
    exec_vfma, exec_vfmin, exec_vfmax, exec_vfabs, exec_vfneg, ← absCode_eq, ← negCode_eq]
  have round (v : FloatFmt → Nat → Nat → Nat → Val) := floatOp_spec h ha (staysInFormat_round rm.toNat false v) ft d
  exact ⟨round (fun fm p q _ => (floatVal fm p).add rm.toNat (floatVal fm q)) [a, b],
    round (fun fm p q _ => (floatVal fm p).add rm.toNat (floatVal fm q).negate) [a, b],
    round (fun fm p q _ => (floatVal fm p).mul (floatVal fm q)) [a, b],
    round (fun fm p q r => ((floatVal fm p).mul (floatVal fm q)).add rm.toNat (floatVal fm r)) [a, b, c],
    floatOp_spec h ha (staysInFormat_minMax false) ft d [a, b], floatOp_spec h ha (staysInFormat_minMax true) ft d [a, b],
    floatOp_spec h ha staysInFormat_abs ft d [a], floatOp_spec h ha staysInFormat_neg ft d [a]⟩
end Sys2Proof.Machine
end

section
/-! PROOF. The scalar and vector integer results: each exact operation, cut to the width of its type, is the operation on bit strings
(R64 to R69). -/
namespace Sys2Proof.Machine
open Sys2Proof

/-! ### Operations -/

/-- An exact operation on integers, cut to `n` bits, is an operation on bit strings of every width. -/
def Narrows (op : IntOp) (bv : BvOp) : Prop :=
  ∀ n g (x y : BitVec n), 0 < n → BitVec.ofNat n (truncTo n (op n g x.toNat y.toNat)) = bv n g x y

/-- The same for a shift by an amount that is not cut. -/
def NarrowsShift (op : IntOp) (bv : (n : Nat) → BitVec n → Nat → BitVec n) : Prop :=
  ∀ n g (x : BitVec n) k, 0 < n → BitVec.ofNat n (truncTo n (op n g x.toNat k)) = bv n x k

theorem narrows_add : Narrows opAdd fun _ _ p q => p + q := fun _ g x y h => opAdd_bv h g x y
theorem narrows_sub : Narrows opSub fun _ _ p q => p - q := fun _ g x y h => opSub_bv h g x y
theorem narrows_mul : Narrows opMul fun _ _ p q => p * q := fun _ g x y h => opMul_bv h g x y
theorem narrows_mulh : Narrows opMulh bvMulh := fun _ g x y h => opMulh_bv h g x y
theorem narrows_div : Narrows opDiv bvDiv := fun _ g x y h => opDiv_bv h g x y
theorem narrows_min : Narrows opMin bvMin := fun _ g x y h => opMin_bv h g x y
theorem narrows_max : Narrows opMax bvMax := fun _ g x y h => opMax_bv h g x y
theorem narrows_and : Narrows opAnd fun _ _ p q => p &&& q := fun _ g x y _ => opAnd_bv g x y
theorem narrows_or : Narrows opOr fun _ _ p q => p ||| q := fun _ g x y _ => opOr_bv g x y
theorem narrows_xor : Narrows opXor fun _ _ p q => p ^^^ q := fun _ g x y _ => opXor_bv g x y
theorem narrows_shl : NarrowsShift opShl fun _ p k => p <<< k := fun _ g x k _ => opShl_bv g x k
theorem narrows_shr : NarrowsShift opShr fun _ p k => p >>> k := fun _ g x k _ => opShr_bv g x k
theorem narrows_sar : NarrowsShift opSar fun _ p k => p.sshiftRight k := fun _ g x k h => opSar_bv h g x k

section
variable {s : State} {w : Nat} {pcb : Bool} {x : Wave} {f : Sched} (h : Turn s w pcb x) (ha : activeAt s w pcb f ≠ 0)
include h ha

/-! ### The scalar shapes (R65) -/

theorem scalarRR_row {op : IntOp} {bv : BvOp} (hop : Narrows op bv) (lat : Nat) (t : BitVec 2) (d a b : Reg) :
    ∃ u, scalarRR s f lat t false false op d a b = .next u ∧ Fixed s u w pcb x f lat ∧
      ResultU s u w x d (scalarResult t bv (readAt s w f a) (readAt s w f b)) [] :=
  fixedU_row h ha (scalar_bridge t op bv hop _ _)

theorem scalarRI_row {op : IntOp} {bv : BvOp} (hop : Narrows op bv) (lat : Nat) (t : BitVec 2) (d a : Reg) (imm : BitVec 32) :
    ∃ u, scalarRI s f lat t false false op d a imm = .next u ∧ Fixed s u w pcb x f lat ∧
      ResultU s u w x d (scalarResult t bv (readAt s w f a) (scalarImm t imm)) [] := by
  refine fixedU_row h ha ?_
  rw [← scalar_bridge t op bv hop, ← imm_bridge]
  rfl

theorem scalarShiftRR_row {op : IntOp} {bv : (n : Nat) → BitVec n → Nat → BitVec n} (hop : NarrowsShift op bv) (sgn : Bool) (t : BitVec 2)
    (d a b : Reg) : ∃ u, scalarRR s f 2 t true (!sgn) op d a b = .next u ∧ Fixed s u w pcb x f 2 ∧
      ResultU s u w x d (scalarShift t sgn bv (readAt s w f a) (readAt s w f b).toNat) [] :=
  fixedU_row h ha (shift_bridge t sgn op bv hop _ _)

theorem scalarShiftRI_row {op : IntOp} {bv : (n : Nat) → BitVec n → Nat → BitVec n} (hop : NarrowsShift op bv) (sgn : Bool) (t : BitVec 2)
    (d a : Reg) (imm : BitVec 32) : ∃ u, scalarRI s f 2 t true (!sgn) op d a imm = .next u ∧ Fixed s u w pcb x f 2 ∧
      ResultU s u w x d (scalarShift t sgn bv (readAt s w f a) imm.toNat) [] :=
  fixedU_row h ha (shift_bridge t sgn op bv hop _ _)

/-! ### The vector shapes (R68) -/

theorem vectorRR_row {op : IntOp} {bv : BvOp} (hop : Narrows op bv) (lat : Nat) (t : BitVec 2) (d a b : Reg) :
    ∃ u, vectorRR s f lat t op d a b = .next u ∧ Fixed s u w pcb x f lat ∧ ResultV s u w x t d (activeAt s w pcb f)
      (fun l => bv _ (typeSigned t) (laneBitsAt s w f (vectorW t) [] a l) (laneBitsAt s w f (vectorW t) [a] b l)) [a, b] :=
  fixedV_row h ha fun l => by simp only [laneValue, hop _ _ _ _ (vectorW_pos t)]

theorem vectorRI_row {op : IntOp} {bv : BvOp} (hop : Narrows op bv) (lat : Nat) (t : BitVec 2) (d a : Reg) (imm : BitVec 32) :
    ∃ u, vectorRI s f lat t false op d a imm = .next u ∧ Fixed s u w pcb x f lat ∧ ResultV s u w x t d (activeAt s w pcb f)
      (fun l => bv _ (typeSigned t) (laneBitsAt s w f (vectorW t) [] a l)
        (if typeSigned t then imm.signExtend (vectorW t) else imm.setWidth (vectorW t))) [a] :=
  fixedV_row h ha fun l => by simp only [laneValue, Bool.false_eq_true, if_false, immBits_bv, hop _ _ _ _ (vectorW_pos t)]

theorem vectorShiftRR_row {op : IntOp} {bv : (n : Nat) → BitVec n → Nat → BitVec n} (hop : NarrowsShift op bv) (t : BitVec 2) (d a b : Reg) :
    ∃ u, vectorRR s f 4 t op d a b = .next u ∧ Fixed s u w pcb x f 4 ∧ ResultV s u w x t d (activeAt s w pcb f)
      (fun l => bv _ (laneBitsAt s w f (vectorW t) [] a l) (laneBitsAt s w f (vectorW t) [a] b l).toNat) [a, b] :=
  fixedV_row h ha fun l => by simp only [laneValue, hop _ _ _ _ (vectorW_pos t)]

theorem vectorShiftRI_row {op : IntOp} {bv : (n : Nat) → BitVec n → Nat → BitVec n} (hop : NarrowsShift op bv) (t : BitVec 2) (d a : Reg)
    (imm : BitVec 32) : ∃ u, vectorRI s f 4 t true op d a imm = .next u ∧ Fixed s u w pcb x f 4 ∧
      ResultV s u w x t d (activeAt s w pcb f) (fun l => bv _ (laneBitsAt s w f (vectorW t) [] a l) imm.toNat) [a] :=
  fixedV_row h ha fun l => by simp only [laneValue, if_true, hop _ _ _ _ (vectorW_pos t)]
end

/-! ### The families settled -/

/-- Settles O1: each row is its shape with its operation; the bitwise instructions are those of the 64-bit type. -/
theorem scalarResults : Obligations.ScalarResults := by
  intro s w pcb x f t d a b imm h ha
  simp only [scalarRows, List.forall_mem_append, List.forall_mem_cons, List.not_mem_nil, false_imp_iff, implies_true, and_true]
  have rr {op bv} (hop : Narrows op bv) (lat : Nat) (t : BitVec 2) := scalarRR_row h ha hop lat t d a b
  have ri {op bv} (hop : Narrows op bv) (lat : Nat) (t : BitVec 2) := scalarRI_row h ha hop lat t d a imm
  have shrr {op bv} (hop : NarrowsShift op bv) (sgn : Bool) := scalarShiftRR_row h ha hop sgn t d a b
  have shri {op bv} (hop : NarrowsShift op bv) (sgn : Bool) := scalarShiftRI_row h ha hop sgn t d a imm
  refine ⟨⟨?arith, ?bits⟩, ?moves⟩
  case arith =>
    exact ⟨rr narrows_add 2 t, ri narrows_add 2 t, rr narrows_sub 2 t, ri narrows_sub 2 t, rr narrows_mul 4 t, ri narrows_mul 4 t,
      rr narrows_mulh 4 t, ri narrows_mulh 4 t, rr narrows_div 16 t, ri narrows_div 16 t, rr narrows_min 2 t, ri narrows_min 2 t,
      rr narrows_max 2 t, ri narrows_max 2 t⟩
  case bits =>
    exact ⟨rr narrows_and 2 0, ri narrows_and 2 0, rr narrows_or 2 0, ri narrows_or 2 0, rr narrows_xor 2 0, ri narrows_xor 2 0,
      shrr narrows_shl false, shri narrows_shl false, shrr narrows_shr false, shri narrows_shr false, shrr narrows_sar true,
      shri narrows_sar true⟩
  case moves =>
    simp only [exec_snot, exec_smov, exec_slil, exec_slih, execSnot, execSmov, execSlil, execSlih]
    exact ⟨fixedU_row h ha rfl, fixedU_row h ha rfl, fixedU_row h ha rfl, fixedU_row h ha rfl⟩

/-- Settles O2: each row is its shape with its operation. -/
theorem vectorArithmetic : Obligations.VectorArithmetic := by
  intro s w pcb x f t d a b imm h ha
  simp only [vectorArith, List.forall_mem_cons, List.not_mem_nil, false_imp_iff, implies_true, and_true]
  have rr {op bv} (hop : Narrows op bv) (lat : Nat) := vectorRR_row h ha hop lat t d a b
  have ri {op bv} (hop : Narrows op bv) (lat : Nat) := vectorRI_row h ha hop lat t d a imm
  exact ⟨rr narrows_add 4, ri narrows_add 4, rr narrows_sub 4, ri narrows_sub 4, rr narrows_mul 6, ri narrows_mul 6, rr narrows_mulh 6,
    ri narrows_mulh 6, rr narrows_and 4, ri narrows_and 4, rr narrows_or 4, ri narrows_or 4, rr narrows_xor 4, ri narrows_xor 4,
    rr narrows_min 4, ri narrows_min 4, rr narrows_max 4, ri narrows_max 4⟩

/-- A product and a sum, formed exactly and cut once, are those of bit strings. -/
theorem ofNat_mad {n : Nat} (hn : 0 < n) (g : Bool) (x y z : BitVec n) :
    BitVec.ofNat n (truncTo n (opMul n g x.toNat y.toNat + intOf n g z.toNat)) = x * y + z := by
  have hz : BitVec.ofInt n (intOf n g z.toNat) = z := by
    cases g
    · rw [intOf_unsigned, BitVec.ofInt_natCast, BitVec.ofNat_toNat, BitVec.setWidth_eq]
    · rw [intOf_signed hn, BitVec.ofInt_toInt]
  rw [ofNat_truncTo, BitVec.ofInt_add, ← ofNat_truncTo, opMul_bv hn, hz]

theorem ofNat_truncTo_toNat {n : Nat} (x : BitVec n) : BitVec.ofNat n (truncTo n (x.toNat : Int)) = x := by
  rw [ofNat_truncTo, BitVec.ofInt_natCast, BitVec.ofNat_toNat, BitVec.setWidth_eq]

/-- Settles O3: the shifts have the shapes of the arithmetic; VBFI's immediate form keeps the old value of D, or zero. -/
theorem vectorBitsResults : Obligations.VectorBits := by
  intro s w pcb x f t d a b c imm h ha
  have hn := vectorW_pos t
  simp only [vectorBits, List.forall_mem_cons, List.not_mem_nil, false_imp_iff, implies_true, and_true, exec_vmad, exec_vabs, exec_vmov,
    exec_vli, exec_vbfeRR, exec_vbfeRI, exec_vbfiRR, exec_vbfiRI, execVmad, execVabs, execVmov, execVli, execVbfeRR, execVbfeRI,
    execVbfiRR, execVbfiRI, vectorU]
  have shrr {op bv} (hop : NarrowsShift op bv) := vectorShiftRR_row h ha hop t d a b
  have shri {op bv} (hop : NarrowsShift op bv) := vectorShiftRI_row h ha hop t d a imm
  refine ⟨shrr narrows_shl, shri narrows_shl, shrr narrows_shr, shri narrows_shr, shrr narrows_sar, shri narrows_sar,
    fixedV_row h ha fun l => ?mad, fixedV_row h ha fun l => ?abs, fixedV_row h ha fun l => ?mov, fixedV_row h ha fun l => ?li,
    fixedV_row h ha fun l => ?extractRR, fixedV_row h ha fun l => ?extractRI, fixedV_row h ha fun l => ?insertRR,
    fixedV_row h ha fun l => ?insertRI⟩
  case mad => simp only [laneValue, ofNat_mad hn]
  case abs => simp only [laneValue, vabs_bv hn]
  case mov => simp only [laneValue, ofNat_truncTo_toNat]
  case li => rw [immBits_bv, BitVec.ofNat_toNat, BitVec.setWidth_eq]
  case extractRR => simp only [laneValue, ofNat_extract _ hn]
  case extractRI => simp only [laneValue, ofNat_extract _ hn]
  case insertRR => simp only [laneValue, ofNat_insert]
  case insertRI =>
    simp only [laneValue]
    split
    · rw [ofNat_insert]
    · exact ofNat_insert _ _ 0 _
end Sys2Proof.Machine
end

section
/-! PROOF. Selects, compares, counts, addresses and the moves between lanes (R66, R69 to R72). -/
namespace Sys2Proof.Machine
open Sys2Proof

theorem bvOnes_eq {n : Nat} (x : BitVec n) : onesOf n x.toNat = bvOnes n x := by
  simp only [onesOf_eq, bvOnes, BitVec.testBit_toNat]

theorem mul_two_pow_eq_shiftLeft {n : Nat} (x : BitVec n) (k : Nat) : x * BitVec.ofNat n (2 ^ k) = x <<< k := by
  apply BitVec.eq_of_toNat_eq
  rw [BitVec.toNat_mul, BitVec.toNat_ofNat, Nat.mul_mod_mod, BitVec.toNat_shiftLeft, Nat.shiftLeft_eq]

section
variable {s : State} {w : Nat} {pcb : Bool} {x : Wave} {f : Sched} (h : Turn s w pcb x) (ha : activeAt s w pcb f ≠ 0)
include h ha

/-! ### One lemma for each shape -/

/-- A predicate whose 32 bits are all written. -/
theorem fixedP_all {lat : Nat} {d : Reg} {srcs : List Reg} {val : State → Wave → BitVec 32 → BitVec 32} {r : BitVec 32}
    (hv : val (s.atIssue w f) ((s.atIssue w f).wave w) (activeAt s w pcb f) = r) :
    ∃ u, fixedP s f lat d true srcs val = .next u ∧ Fixed s u w pcb x f lat ∧ ResultP s u w x d.toNat r srcs := by
  subst hv; exact fixedP_spec h d true srcs val ha

/-- A predicate of which the bits of the active lanes are written. -/
theorem fixedP_active {lat : Nat} {d : Reg} {srcs : List Reg} {val : State → Wave → BitVec 32 → BitVec 32} {r : BitVec 32}
    (hv : val (s.atIssue w f) ((s.atIssue w f).wave w) (activeAt s w pcb f) = r) :
    ∃ u, fixedP s f lat d false srcs val = .next u ∧ Fixed s u w pcb x f lat ∧
      ResultP s u w x d.toNat (putBits (x.pred d.toNat) (activeAt s w pcb f) r) srcs := by
  subst hv; exact fixedP_spec h d false srcs val ha

/-- A result of 32 bits in each lane, whatever the type of the source. -/
theorem vectorU_lane32 {t : BitVec 2} {d a : Reg} {g : Nat → Nat} {r : Nat → BitVec 32}
    (hg : ∀ l, BitVec.ofNat 32 (g (laneBitsAt s w f (vectorW t) [] a l).toNat) = r l) :
    ∃ u, vectorU s f 4 t 0 d a g = .next u ∧ Fixed s u w pcb x f 4 ∧ ResultL s u w x d (activeAt s w pcb f) r [a] := by
  obtain ⟨u, hu, hfixed, hres⟩ := fixedL_spec h (ty := 0) rfl d [a] (fun r y l => truncTo (vectorW 0) (g (r.lBits y [] t a l))) ha
  simp only [ofNat_toNat_32, laneValue, hg] at hres
  exact ⟨u, hu, hfixed, hres⟩

/-- A result of 64 bits in each lane. -/
theorem fixedL_lane64 {lat : Nat} {d : Reg} {srcs : List Reg} {val : State → Wave → Nat → BitVec 64} :
    ∃ u, (fixedL s f lat 2 d srcs fun r y l => (val r y l).toNat) = .next u ∧ Fixed s u w pcb x f lat ∧
      ResultL64 s u w x d (activeAt s w pcb f) (val (s.atIssue w f) ((s.atIssue w f).wave w)) srcs := by
  obtain ⟨u, hu, hfixed, hres⟩ := fixedL64_spec h (lat := lat) (ty := 2) (by decide) d srcs (fun r y l => (val r y l).toNat) ha
  simp only [BitVec.ofNat_toNat, BitVec.setWidth_eq] at hres
  exact ⟨u, hu, hfixed, hres⟩

/-- One lane's value of type T, in each lane. -/
theorem fixedL_ofLane {t : BitVec 2} {d a : Reg} {srcs : List Reg} {k : State → Wave → Nat → Nat} :
    ∃ u, (fixedL s f 8 t d srcs fun r y l => r.lBits y [] t a (k r y l)) = .next u ∧ Fixed s u w pcb x f 8 ∧
      ResultV s u w x t d (activeAt s w pcb f)
        (fun l => laneBitsAt s w f (vectorW t) [] a (k (s.atIssue w f) ((s.atIssue w f).wave w) l)) srcs :=
  fixedV_row h ha fun l => by rw [laneValue, BitVec.ofNat_toNat, BitVec.setWidth_eq]

/-- A value of the lanes of a source of type T, extended to a uniform result. -/
theorem fixed_widen {lat : Nat} {t : BitVec 2} {d a : Reg} {val : State → Wave → BitVec 32 → Nat} {r : BitVec (vectorW t)}
    (hv : BitVec.ofNat (vectorW t) (val (s.atIssue w f) ((s.atIssue w f).wave w) (activeAt s w pcb f)) = r) :
    ∃ u, (fixed s f lat fun w _ r y act u => (u.popPorts y [a]).writeU w s.uid lat d (widen (vectorW t) (typeSigned t) (val r y act))) = .next u ∧
      Fixed s u w pcb x f lat ∧ ResultU s u w x d (if typeSigned t then r.signExtend 64 else r.setWidth 64) [a] := by
  rw [← widen_lane t _ r hv]
  exact fixedPopU_spec h d [a] (fun r y act => widen (vectorW t) (typeSigned t) (val r y act)) ha

theorem laneToScalar_spec {t : BitVec 2} {d a : Reg} {k : State → Wave → Nat} :
    let y := laneBitsAt s w f (vectorW t) [] a (k (s.atIssue w f) ((s.atIssue w f).wave w))
    ∃ u, laneToScalar s f t d a k = .next u ∧ Fixed s u w pcb x f 8 ∧
      ResultU s u w x d (if typeSigned t then y.signExtend 64 else y.setWidth 64) [a] :=
  fixed_widen h ha (val := fun r y _ => r.lBits y [] t a (k r y)) (by rw [laneValue, BitVec.ofNat_toNat, BitVec.setWidth_eq])
end

/-! ### The families settled -/

/-- Settles O4: the outcome of a compare is that of its condition on bit strings, for a scalar or in each lane. -/
theorem selectCompare : Obligations.SelectCompare := by
  refine ⟨fun s w pcb x f t n cnd neg d a b imm h ha => ?scalar, fun s w pcb x f t n cnd neg d a b imm h ha => ?vector⟩
  case scalar =>
    simp only [exec_ssel, exec_scmpRR, exec_scmpRI, execSsel, execScmpRR, execScmpRI]
    refine ⟨fixedU_row h ha rfl, fixedP_all h ha ?rr, fixedP_all h ha ?ri⟩
    case rr => rw [← scalarCond_eq]; rfl
    case ri => rw [← scalarCond_eq, ← imm_bridge]; rfl
  case vector =>
    have hn := vectorW_pos t
    simp only [exec_vsel, exec_vcmpRR, exec_vcmpRI, execVsel, execVcmpRR, execVcmpRI]
    refine ⟨fixedV_row h ha fun l => ?sel, fixedP_active h ha ?rr, fixedP_active h ha ?ri⟩
    case sel =>
      have hp : negIf neg (((s.atIssue w f).wave w).readPred (s.atIssue w f).free n.toNat) = predAt s w f n neg := rfl
      rw [hp]
      split <;> rw [laneValue, BitVec.ofNat_toNat, BitVec.setWidth_eq]
    case rr => simp only [laneValue, bvCond_eq hn]
    case ri => simp only [laneValue, immBits_bv, bvCond_eq hn]

/-- Settles O5: the counts have 32 bits for either type; a scaled index is one shifted left. -/
theorem vectorCountAddress : Obligations.VectorCountAddress := by
  intro s w pcb x f t scl uns d a b imm h ha
  simp only [exec_vpopc, exec_vclz, exec_vaddrRR, exec_vaddrRI, execVpopc, execVclz, execVaddrRR, execVaddrRI, mul_two_pow_eq_shiftLeft]
  exact ⟨vectorU_lane32 h ha fun l => by rw [bvOnes_eq], vectorU_lane32 h ha fun l => by rw [leadZeros_eq], fixedL_lane64 h ha,
    fixedL_lane64 h ha⟩

/-- Settles O6: a lane number is cut to five bits, and a reduction takes the active lanes in ascending order. -/
theorem laneResults : Obligations.LaneResults := by
  intro s w pcb x f t op d a b imm h ha
  simp only [exec_vbcastRR, exec_vbcastRI, exec_v2sRR, exec_v2sRI, exec_vshflRR, exec_vshflRI, exec_vred, execVbcastRR, execVbcastRI,
    execV2sRR, execV2sRI, execVshflRR, execVshflRI, execVred]
  refine ⟨fixedL_ofLane h ha, fixedL_ofLane h ha, laneToScalar_spec h ha, laneToScalar_spec h ha, fixedL_ofLane h ha, fun mode hm => ?shuffle,
    fun mode => fixedL_ofLane h ha, fixed_widen h ha ?reduce⟩
  case shuffle =>
    simp only [if_neg hm]
    exact fixedL_ofLane h ha
  case reduce =>
    rw [← redLanes_eq (vectorW_pos t) _ _ op.isLt, List.map_map]
    simp only [Function.comp_def, ← laneValue]
end Sys2Proof.Machine
end

section
/-! PROOF. The predicate family: its words and those that fail a check, and what each instruction writes (R38, R73). -/
namespace Sys2Proof
open Sys2Proof.Machine

/-! ### Words that fail checks 5 and 6 (Table 1.11) -/

/-- Check 2: the counter of SIG exists, or there is none. -/
theorem sig_passes {f : Sched} (h : f.sig.toNat < 12 ∨ f.sig = 15) : ¬(12 ≤ f.sig.toNat ∧ f.sig.toNat ≤ 14) := by
  rcases h with h | h
  · omega
  · rw [h]; decide

/-- Check 5: a word of an assigned form with a bit set where the form has none. -/
theorem decodeRaw_unused {r : Raw} {i : Instr} (hfmt : r.fmt.toNat < 6) (hsig : r.sched.sig.toNat < 12 ∨ r.sched.sig = 15)
    (hassigned : opcodeAssigned r.opc.toNat = true) (hform : buildForm r = some i) (hbits : r.body &&& r.reserved ≠ 0) :
    decodeRaw r = .error 5 := by
  rw [decodeRaw]
  simp [Nat.not_le.2 hfmt, sig_passes hsig, hassigned, hform, hbits]

/-- A register form whose reserved bits `res` cover the middle word has no bit of it. -/
theorem decode_join_mid {res : Nat} (hcover : res / 2 ^ 8 / 2 ^ 8 / 2 ^ 8 = 2 ^ 32 - 1) {f : Sched} {mid : BitVec 32}
    (hsig : f.sig.toNat < 12 ∨ f.sig = 15) {b a d opc : BitVec 8} {i : Instr} (hassigned : opcodeAssigned opc.toNat = true)
    (hform : buildForm ⟨0, f, mid, b, a, d, opc⟩ = some i) (hres : Raw.reserved ⟨0, f, mid, b, a, d, opc⟩ = res) (hmid : mid ≠ 0) :
    decode (join 0 f mid b a d opc) = .error 5 := by
  rw [decode_join]
  refine decodeRaw_unused (by dsimp only; decide) hsig hassigned hform ?_
  rw [Raw.body_eq, hres, ne_eq, append_and_mask, append_and_mask, append_and_mask, hcover, Nat.and_two_pow_sub_one_eq_mod,
    Nat.mod_eq_of_lt mid.isLt]
  rintro ⟨⟨⟨h, -⟩, -⟩, -⟩
  exact hmid (BitVec.eq_of_toNat_eq h)

/-- An instruction whose operand fields alone are ill-formed has a word that fails check 6. -/
theorem decode_encode_operands {i : Instr} {f : Sched} (hs : schedOf i = some f) (hsig : f.sig.toNat < 12 ∨ f.sig = 15) (hmod : modOk i = true)
    (hops : opsOk i = false) : decode (encode i) = .error 6 := by
  have h := reads_encode hmod hs
  obtain rfl : (rawOf (encode i)).sched = f := Option.some.inj (h.sched.symm.trans hs)
  rw [decode, decodeRaw]
  simp only [if_neg (Nat.not_le.2 h.fmt), if_neg (sig_passes hsig), h.assigned, h.form, h.unused, hmod, hops]
  simp

theorem predOk_eq_false {r : Reg} : predOk r = false ↔ 8 ≤ r.toNat := by
  simp [predOk]
end Sys2Proof

namespace Sys2Proof.Machine
open Sys2Proof

/-- PALL's test that no active lane is outside the predicate, as the test that the active lanes in it are all of them. -/
theorem and_not_eq_zero_iff (act p : BitVec 32) : act &&& ~~~p = 0 ↔ p &&& act = act := by
  simp only [BitVec.eq_of_getLsbD_eq_iff, BitVec.getLsbD_and, BitVec.getLsbD_not]
  refine forall₂_congr fun i hi => ?_
  cases act.getLsbD i <;> cases p.getLsbD i <;> simp [hi]

/-- Settles O7: the words by the form of the family, and the values by the two ways of writing a predicate. -/
theorem predicateResults : Obligations.PredicateResults := by
  refine ⟨fun s w pcb x f d a b h ha => ?values, fun f d a b mid hsig => ⟨?words, ?three, ?two, ?pset⟩⟩
  case values =>
    simp only [List.forall_mem_cons, List.not_mem_nil, false_imp_iff, implies_true, and_true, exec_pand, exec_por, exec_pxor, exec_pnot, exec_pmov,
      exec_pany, exec_pall, exec_pset, execPand, execPor, execPxor, execPnot, execPmov, execPany, execPall, execPset]
    refine ⟨fixedP_active h ha rfl, fixedP_active h ha rfl, fixedP_active h ha rfl, fixedP_active h ha rfl, fixedP_active h ha rfl,
      fixedP_all h ha rfl, fixedP_all h ha ?all, fixedP_all h ha rfl⟩
    case all =>
      have key := and_not_eq_zero_iff (activeAt s w pcb f) (predOf s w f a)
      unfold allBits
      exact if_congr (by rw [beq_iff_eq, beq_iff_eq]; exact key) rfl rfl
  case words =>
    simp only [List.forall_mem_cons, List.not_mem_nil, false_imp_iff, implies_true, and_true]
    have withB := @decode_join_mid 0xFFFFFFFF000000 (by decide) f mid hsig
    have withoutB := @decode_join_mid 0xFFFFFFFFFF0000 (by decide) f mid hsig
    exact ⟨⟨rfl, withB rfl rfl rfl⟩, ⟨rfl, withB rfl rfl rfl⟩, ⟨rfl, withB rfl rfl rfl⟩, ⟨rfl, withoutB rfl rfl rfl⟩,
      ⟨rfl, withoutB rfl rfl rfl⟩, ⟨rfl, withoutB rfl rfl rfl⟩, ⟨rfl, withoutB rfl rfl rfl⟩, ⟨rfl, withoutB rfl rfl rfl⟩⟩
  case three =>
    intro hbig
    have hops : (predOk d && predOk a && predOk b) = false := by
      simpa only [Bool.and_eq_false_iff, predOk_eq_false, or_assoc] using hbig
    simp only [List.forall_mem_cons, List.not_mem_nil, false_imp_iff, implies_true, and_true]
    exact ⟨decode_encode_operands rfl hsig rfl hops, decode_encode_operands rfl hsig rfl hops, decode_encode_operands rfl hsig rfl hops⟩
  case two =>
    intro hbig
    have hops : (predOk d && predOk a) = false := by
      simpa only [Bool.and_eq_false_iff, predOk_eq_false] using hbig
    simp only [List.forall_mem_cons, List.not_mem_nil, false_imp_iff, implies_true, and_true]
    exact ⟨decode_encode_operands rfl hsig rfl hops, decode_encode_operands rfl hsig rfl hops, decode_encode_operands rfl hsig rfl hops,
      decode_encode_operands rfl hsig rfl hops⟩
  case pset =>
    intro hbig
    have hops : (predOk d && uSrc a) = false := by
      simpa only [Bool.and_eq_false_iff, predOk_eq_false] using hbig
    exact decode_encode_operands rfl hsig rfl hops
end Sys2Proof.Machine
end

section
/-! PROOF. Refill: what one pop does, and where the pops stop (R79). -/
namespace Sys2Proof.Machine
open Sys2Proof

/-! ### One pop -/

/-- What a pop can be: a PATH into the dead slot beside a live one of its join, a PATH into PCA when both slots are dead, or a FRAME
discarded when both are. -/
inductive Popped (x : Wave) : Wave → Prop where
  | toB (p : Path) (st : List DivRec) (hst : x.stack = .path p :: st) (ha : x.pca.live = true) (hb : x.pcb.live = false)
      (hj : p.join = x.pca.join) : Popped x { x with pcb := p, stack := st }
  | toA (p : Path) (st : List DivRec) (hst : x.stack = .path p :: st) (ha : x.pca.live = false) (hb : x.pcb.live = true)
      (hj : p.join = x.pcb.join) : Popped x { x with pca := p, stack := st }
  | first (p : Path) (st : List DivRec) (hst : x.stack = .path p :: st) (ha : x.pca.live = false) (hb : x.pcb.live = false) :
      Popped x { x with pca := p, stack := st }
  | frame (jc outer : Addr) (st : List DivRec) (hst : x.stack = .frame jc outer :: st) (ha : x.pca.live = false) (hb : x.pcb.live = false) :
      Popped x { x with stack := st }

/-- Where no pop is possible (R79). -/
structure Stopped (x : Wave) : Prop where
  path : ∀ p st, x.stack = .path p :: st → (x.pca.live = true ∨ x.pcb.live = true) ∧
    (x.pca.live = false → p.join ≠ x.pcb.join) ∧ (x.pcb.live = false → p.join ≠ x.pca.join)
  frame : ∀ jc outer st, x.stack = .frame jc outer :: st → x.pca.live = true ∨ x.pcb.live = true

theorem Wave.refillOnce_some {x y : Wave} (h : x.refillOnce = some y) : Popped x y := by
  unfold refillOnce at h
  split at h
  · next p st ha hb hst =>
    split at h
    · next hj => cases h; exact .toB p st hst ha hb hj
    · cases h
  · next p st ha hb hst =>
    split at h
    · next hj => cases h; exact .toA p st hst ha hb hj
    · cases h
  · next p st ha hb hst => cases h; exact .first p st hst ha hb
  · next jc outer st ha hb hst => cases h; exact .frame jc outer st hst ha hb
  · cases h

theorem Wave.refillOnce_none {x : Wave} (h : x.refillOnce = none) : Stopped x := by
  unfold refillOnce at h
  have live (r : DivRec) (st : List DivRec) (hst : x.stack = r :: st) : x.pca.live = true ∨ x.pcb.live = true := by
    by_contra hdead
    simp only [not_or, Bool.not_eq_true] at hdead
    rw [hst, hdead.1, hdead.2] at h
    cases r <;> cases h
  refine ⟨fun p st hst => ⟨live _ st hst, fun ha hj => ?_, fun hb hj => ?_⟩, fun jc outer st hst => live _ st hst⟩
  · have hb : x.pcb.live = true := (live _ st hst).resolve_left (by rw [ha]; decide)
    simp [hst, ha, hb, hj] at h
  · have ha : x.pca.live = true := (live _ st hst).resolve_right (by rw [hb]; decide)
    simp [hst, ha, hb, hj] at h

theorem Wave.refillOnce_live {x : Wave} (ha : x.pca.live = true) (hb : x.pcb.live = true) : x.refillOnce = none := by
  unfold refillOnce
  rw [ha, hb]

/-- A pop takes one record, and the end of a wave is no matter of it. -/
theorem Popped.stack {x y : Wave} (h : Popped x y) : ∃ r, x.stack = r :: y.stack := by
  cases h with
  | toB p _ hst | toA p _ hst | first p _ hst => exact ⟨.path p, hst⟩
  | frame jc outer _ hst => exact ⟨.frame jc outer, hst⟩

theorem Popped.ended {x y : Wave} (h : Popped x y) : y.ended = x.ended := by cases h <;> rfl

/-! ### Pops until they stop -/

/-- Records are only ever popped from the top. -/
theorem Wave.refillN_stack (n : Nat) : ∀ x : Wave, ∃ gone, x.stack = gone ++ (refillN n x).stack := by
  induction n with
  | zero => exact fun x => ⟨[], rfl⟩
  | succ n ih =>
    intro x
    rw [refillN]
    split
    · next y hy =>
      obtain ⟨r, hr⟩ := (refillOnce_some hy).stack
      obtain ⟨gone, hg⟩ := ih y
      exact ⟨r :: gone, by rw [hr, hg, List.cons_append]⟩
    · exact ⟨[], rfl⟩

theorem Wave.refillN_ended (n : Nat) : ∀ x : Wave, (refillN n x).ended = x.ended := by
  induction n with
  | zero => exact fun _ => rfl
  | succ n ih =>
    intro x
    rw [refillN]
    split
    · next y hy => rw [ih, (refillOnce_some hy).ended]
    · rfl

/-- As many pops as there are records, and one more, are enough. -/
theorem Wave.refillN_stopped (n : Nat) : ∀ x : Wave, x.stack.length < n → Stopped (refillN n x) := by
  induction n with
  | zero => exact fun x h => absurd h (Nat.not_lt_zero _)
  | succ n ih =>
    intro x hx
    rw [refillN]
    split
    · next y hy =>
      obtain ⟨r, hr⟩ := (refillOnce_some hy).stack
      rw [hr, List.length_cons] at hx
      exact ih y (Nat.lt_of_succ_lt_succ hx)
    · next hno => exact refillOnce_none hno

/-! ### The whole refill -/

/-- The records left and the slots are those of the pops; only the end of the wave is set after them. -/
theorem Wave.refill_eq (x : Wave) : x.refill = { refillN (x.stack.length + 1) x with
    ended := x.ended || (!(x.refill.pca.live) && !(x.refill.pcb.live) && x.refill.stack.isEmpty) } := by
  rw [← refillN_ended (x.stack.length + 1) x]
  rfl

theorem Wave.refill_stopped (x : Wave) : Stopped x.refill := by
  obtain ⟨hpath, hframe⟩ := refillN_stopped _ x (Nat.lt_succ_self _)
  exact ⟨hpath, hframe⟩

theorem Wave.refill_ended (x : Wave) :
    x.refill.ended = true ↔ x.ended = true ∨ (x.refill.pca.live = false ∧ x.refill.pcb.live = false ∧ x.refill.stack = []) := by
  rw [show x.refill.ended = _ from congrArg ended x.refill_eq]
  simp only [Bool.or_eq_true, Bool.and_eq_true, Bool.not_eq_true', List.isEmpty_iff, and_assoc]

/-- Two live slots stay as they are. -/
theorem Wave.refill_live {x : Wave} (ha : x.pca.live = true) (hb : x.pcb.live = true) : x.refill = x := by
  have hpops : refillN (x.stack.length + 1) x = x := by rw [refillN, refillOnce_live ha hb]
  unfold refill
  rw [hpops]
  simp [ha]

/-- Settles O21: a refill pops until it stops, and every pop takes the top record. -/
theorem refillRules : Obligations.RefillRules := by
  intro x
  obtain ⟨hpath, hframe⟩ := x.refill_stopped
  exact ⟨hpath, hframe, x.refill_ended, Wave.refillN_stack _ x, fun h => Wave.refill_live h.1 h.2⟩
end Sys2Proof.Machine
end

section
/-! PROOF. The control instructions: an issue, then a change of the paths, the stack and the end of one wave (R75 to R80). -/
namespace Sys2Proof.Machine
open Sys2Proof

/-! ### Waves with the same divergence state -/

/-- The divergence state of two waves is the same (R76). -/
structure SameSlots (x y : Wave) : Prop where
  pca : x.pca = y.pca
  pcb : x.pcb = y.pcb
  stack : x.stack = y.stack
  ended : x.ended = y.ended

theorem SameSlots.trans {x y z : Wave} (h : SameSlots x y) (g : SameSlots y z) : SameSlots x z :=
  ⟨h.pca.trans g.pca, h.pcb.trans g.pcb, h.stack.trans g.stack, h.ended.trans g.ended⟩

theorem SameSlots.path {x y : Wave} (h : SameSlots x y) (q : Bool) : x.path q = y.path q := Wave.path_eq x y h.pca h.pcb q

theorem SameSlots.setPath {x y : Wave} (h : SameSlots x y) (q : Bool) (p : Path) : SameSlots (x.setPath q p) (y.setPath q p) := by
  obtain ⟨ha, hb, hst, he⟩ := h
  cases q
  · exact ⟨rfl, hb, hst, he⟩
  · exact ⟨ha, rfl, hst, he⟩

theorem SameSlots.refillOnce {x y : Wave} (h : SameSlots x y) : Option.Rel SameSlots x.refillOnce y.refillOnce := by
  obtain ⟨ha, hb, hst, he⟩ := h
  unfold Wave.refillOnce
  rw [ha, hb, hst]
  split
  · split
    · exact .some ⟨rfl, rfl, rfl, he⟩
    · exact .none
  · split
    · exact .some ⟨rfl, rfl, rfl, he⟩
    · exact .none
  · exact .some ⟨rfl, rfl, rfl, he⟩
  · exact .some ⟨rfl, rfl, rfl, he⟩
  · exact .none

theorem SameSlots.refillN (n : Nat) : ∀ {x y : Wave}, SameSlots x y → SameSlots (Wave.refillN n x) (Wave.refillN n y) := by
  induction n with
  | zero => exact id
  | succ n ih =>
    intro x y h
    have hone := h.refillOnce
    rw [Wave.refillN, Wave.refillN]
    cases hx : x.refillOnce <;> cases hy : y.refillOnce <;> rw [hx, hy] at hone
    · exact h
    · cases hone
    · cases hone
    · cases hone with
      | some hone => exact ih hone

theorem SameSlots.refill {x y : Wave} (h : SameSlots x y) : SameSlots x.refill y.refill := by
  obtain ⟨ha, hb, hst, he⟩ := h.refillN (x.stack.length + 1)
  unfold Wave.refill
  rw [← h.stack]
  exact ⟨ha, hb, hst, by dsimp only; rw [ha, hb, hst, he]⟩

/-! ### Changes of the divergence state -/

/-- Nothing of a wave differs but its slots, its stack, its end and the note of the path that issued last. -/
def Diverges (x y : Wave) : Prop :=
  y = { x with pca := y.pca, pcb := y.pcb, stack := y.stack, lastPcb := y.lastPcb, ended := y.ended }

theorem Diverges.trans {x y z : Wave} (h : Diverges x y) (g : Diverges y z) : Diverges x z := by
  unfold Diverges at h g ⊢
  rw [h] at g
  exact g

theorem diverges_setPath (x : Wave) (q : Bool) (p : Path) : Diverges x (x.setPath q p) := by cases q <;> rfl

theorem diverges_goto (x : Wave) (q : Bool) (pc : Addr) : Diverges x (x.goto q pc) := diverges_setPath ..

theorem diverges_refillN (n : Nat) : ∀ x : Wave, Diverges x (Wave.refillN n x) := by
  induction n with
  | zero => exact fun _ => rfl
  | succ n ih =>
    intro x
    rw [Wave.refillN]
    split
    · next y hy => exact Diverges.trans (by cases Wave.refillOnce_some hy <;> rfl) (ih y)
    · rfl

theorem diverges_refill (x : Wave) : Diverges x x.refill := (diverges_refillN _ x).trans rfl

theorem diverges_merge (x : Wave) (q : Bool) (j : Addr) (now : Nat) : Diverges x (x.merge q j now) := by
  unfold Wave.merge
  exact Diverges.trans (by rfl) (diverges_refill _)

theorem diverges_split (x : Wave) (q : Bool) (next target join : Addr) (t f : BitVec 32) (now : Nat) :
    Diverges x ((x.split q next target join t f now).getD x) := by
  unfold Wave.split
  dsimp only
  split_ifs <;> rfl

theorem Diverges.regs {x y : Wave} (h : Diverges x y) : y.s = x.s ∧ y.v = x.v ∧ y.p = x.p ∧ y.lfsr = x.lfsr := by
  rw [h]; exact ⟨rfl, rfl, rfl, rfl⟩

/-! ### The wave as a control instruction changes it -/

theorem Effect.slots {t u : State} {w : Nat} (h : Effect t u w) : SameSlots (u.wave w) (t.wave w) := by
  obtain ⟨_, _, _, h⟩ := h.wave_eq
  rw [h]; exact ⟨rfl, rfl, rfl, rfl⟩

/-- The wave with the time of an issue noted in its path (R26). -/
def Wave.issuedAt (x : Wave) (pcb : Bool) (now : Nat) : Wave := x.setPath pcb { x.path pcb with last := now, since := now }

@[simp] theorem Wave.issuedAt_path (x : Wave) (pcb : Bool) (now : Nat) :
    (x.issuedAt pcb now).path pcb = { x.path pcb with last := now, since := now } := Wave.path_setPath ..

@[simp] theorem Wave.issuedAt_path_other (x : Wave) (pcb : Bool) (now : Nat) : (x.issuedAt pcb now).path (!pcb) = x.path (!pcb) :=
  Wave.path_setPath_other ..

@[simp] theorem Wave.issuedAt_stack (x : Wave) (pcb : Bool) (now : Nat) : (x.issuedAt pcb now).stack = x.stack := Wave.setPath_stack ..

@[simp] theorem Wave.issuedAt_ended (x : Wave) (pcb : Bool) (now : Nat) : (x.issuedAt pcb now).ended = x.ended := Wave.setPath_ended ..

theorem Wave.issuedAt_setPath (x : Wave) (pcb : Bool) (now : Nat) (p : Path) : (x.issuedAt pcb now).setPath pcb p = x.setPath pcb p := by
  cases pcb <;> rfl

/-- An issue changes of the divergence state the times of its path alone. -/
theorem Begun.slots {s t : State} {w : Nat} {pcb : Bool} {x : Wave} {f : Sched} {lat : Option Nat} (h : Begun s t w pcb x f lat) :
    SameSlots (t.wave w) (x.issuedAt pcb (s.issueTime w f)) := by
  rw [← h.clk]
  obtain ⟨_, _, _, _, h⟩ := h.wave
  rw [h]; exact ⟨rfl, rfl, rfl, rfl⟩

theorem State.logCtl_effect {t : State} {w : Nat} (n : Nat) : Effect t (t.logCtl w n) w :=
  Effect.ofWave _ fun y => by unfold Wave.log; split <;> rfl

theorem State.logCtl_regs (t : State) (w n : Nat) : ((t.logCtl w n).wave w).s = (t.wave w).s ∧ ((t.logCtl w n).wave w).v = (t.wave w).v ∧
    ((t.logCtl w n).wave w).p = (t.wave w).p ∧ ((t.logCtl w n).wave w).lfsr = (t.wave w).lfsr := by
  unfold State.logCtl
  rw [State.wave_modWave_same]
  simp

/-- The state of an issue whose divergence state is logged (R81): what a control instruction changes. -/
def ctlBegun (s : State) (w : Nat) (pcb : Bool) (f : Sched) (lat : Nat) : State := (s.beginIssue w pcb f (some lat)).logCtl w s.uid

section
variable {s u : State} {w : Nat} {pcb : Bool} {x : Wave} {f : Sched} {lat : Nat}

theorem ctlBegun_effect : Effect (s.beginIssue w pcb f (some lat)) (ctlBegun s w pcb f lat) w := State.logCtl_effect _

theorem ctlBegun_present : ∃ y, kget (ctlBegun s w pcb f lat).waves w = some y := by
  obtain ⟨_, _, _, _, _, _, _, h⟩ := (ctlBegun_effect : Effect (s.beginIssue w pcb f (some lat)) (ctlBegun s w pcb f lat) w).wave
  exact ⟨_, h⟩

variable (hw : kget s.waves w = some x)
include hw

theorem ctlBegun_slots : SameSlots ((ctlBegun s w pcb f lat).wave w) (x.issuedAt pcb (s.issueTime w f)) :=
  ctlBegun_effect.slots.trans (State.beginIssue_begun hw pcb f (some lat)).slots

theorem ctlBegun_regs : ((ctlBegun s w pcb f lat).wave w).s = x.s ∧ ((ctlBegun s w pcb f lat).wave w).v = x.v ∧
    ((ctlBegun s w pcb f lat).wave w).p = x.p ∧ ((ctlBegun s w pcb f lat).wave w).lfsr = x.lfsr := by
  obtain ⟨hs, hv, hp, hl⟩ := (State.beginIssue_begun hw pcb f (some lat)).regs
  obtain ⟨gs, gv, gp, gl⟩ := (s.beginIssue w pcb f (some lat)).logCtl_regs w s.uid
  exact ⟨gs.trans hs, gv.trans hv, gp.trans hp, gl.trans hl⟩

/-- An issue leaves the queues, where nothing touches the blocks after it. -/
theorem queues_untouched (hb : u.blocks = (s.beginIssue w pcb f (some lat)).blocks) : Queues s u x [] none [] := by
  obtain ⟨habsent, hpresent⟩ := Queues.of (State.beginIssue_begun hw pcb f (some lat)) (srcs := []) (d := none) (entry := []) id
    fun k hk => ⟨k, hk, rfl, fun q => by simp [portsOn]⟩
  exact ⟨by rwa [hb], by rwa [hb]⟩

/-- An issue, effects on registers and queues, and a change of the divergence state. -/
theorem issued_diverged (e : Effect (s.beginIssue w pcb f (some lat)) u w) {g : Wave → Wave} (hg : ∀ y, Diverges y (g y)) :
    Issued s (u.modWave w g) w x f ∧ Counted s (u.modWave w g) w x f (some lat) ∧ ((u.modWave w g).wave w).pend = x.pend := by
  obtain ⟨⟨hrest, hbytes, hwaves, hblocks, -, hclk, huid, hkept⟩, -, hpend, hothers, hsig⟩ := issued_advance hw e
  have hto : (u.modWave w g).wave w = g (u.wave w) := State.wave_modWave_same ..
  have hadv : (u.advance w pcb).wave w = (u.wave w).goto pcb (((u.wave w).path pcb).pc + 12) := State.wave_modWave_same ..
  have hctr : ∀ n, ((u.modWave w g).wave w).ctr n = ((u.advance w pcb).wave w).ctr n := by
    intro n
    rw [hto, hadv, hg, diverges_goto (u.wave w) pcb _]
    rfl
  rw [hadv, diverges_goto (u.wave w) pcb _] at hkept hpend
  refine ⟨⟨hrest, hbytes, fun v hv => ?_, hblocks, ?_, hclk, huid, ?_⟩, ⟨fun n hn => ?_, fun hs => ?_⟩, ?_⟩
  · rw [← hwaves v hv, State.advance, State.kget_modWave, State.kget_modWave, if_neg hv, if_neg hv]
  · rw [State.kget_modWave, if_pos rfl, hto]
  · rw [hto, hg]; exact hkept
  · rw [hctr]; exact hothers n hn
  · rw [hctr]; exact hsig hs
  · rw [hto, hg]; exact hpend

/-- A control instruction that writes no register. -/
theorem noResult_ctl {g : Wave → Wave} (hg : ∀ y, Diverges y (g y)) : NoResult s ((ctlBegun s w pcb f lat).modWave w g) w x := by
  obtain ⟨hs, hv, hp, hl⟩ := ctlBegun_regs (pcb := pcb) (f := f) (lat := lat) hw
  obtain ⟨gs, gv, gp, gl⟩ := (hg ((ctlBegun s w pcb f lat).wave w)).regs
  rw [← State.wave_modWave_same (ctlBegun s w pcb f lat) w g] at gs gv gp gl
  exact ⟨gs.trans hs, gv.trans hv, gp.trans hp, gl.trans hl, queues_untouched (pcb := pcb) (f := f) (lat := lat) hw rfl⟩

/-- A control instruction that writes no register and changes the divergence state in its own way. -/
theorem ctl_diverged {g : Wave → Wave} (hg : ∀ y, Diverges y (g y)) :
    let t := (ctlBegun s w pcb f lat).modWave w g
    Issued s t w x f ∧ Counted s t w x f (some lat) ∧ NoResult s t w x ∧ (t.wave w).pend = x.pend := by
  obtain ⟨hi, hc, hp⟩ := issued_diverged hw (ctlBegun_effect (s := s) (pcb := pcb) (f := f) (lat := lat)) hg
  exact ⟨hi, hc, noResult_ctl hw hg, hp⟩

/-- A control instruction with a uniform result. -/
theorem resultU_ctl (n l : Nat) (d : Reg) (v : BitVec 64) {g : Wave → Wave} (hg : ∀ y, Diverges y (g y)) :
    ResultU s (((ctlBegun s w pcb f lat).writeU w n l d v).modWave w g) w x d v [] := by
  obtain ⟨hs, hv, hp, hl⟩ := ctlBegun_regs (pcb := pcb) (f := f) (lat := lat) hw
  obtain ⟨es, ev, ep, el, eb⟩ := State.writeU_wave (t := ctlBegun s w pcb f lat) (w := w) n l d v
  obtain ⟨gs, gv, gp, gl⟩ := (hg (((ctlBegun s w pcb f lat).writeU w n l d v).wave w)).regs
  rw [← State.wave_modWave_same ((ctlBegun s w pcb f lat).writeU w n l d v) w g] at gs gv gp gl
  refine ⟨fun k => ?_, gv.trans (ev.trans hv), gp.trans (ep.trans hp), gl.trans (el.trans hl),
    queues_untouched (pcb := pcb) (f := f) (lat := lat) hw eb⟩
  rw [gs, es k, hs]

/-- A path that goes to an address after its issue. -/
theorem goes_jump (e : Effect (s.beginIssue w pcb f (some lat)) u w) (a : Addr) : Goes s (u.jump w pcb a) w pcb x f lat a := by
  obtain ⟨hi, hc, hp⟩ := issued_diverged hw e fun y => diverges_goto y pcb a
  have hslots := e.slots.trans (State.beginIssue_begun hw pcb f (some lat)).slots
  have hto : (u.jump w pcb a).wave w = (u.wave w).goto pcb a := State.wave_modWave_same ..
  refine ⟨hi, ⟨?_, ?_, ?_, ?_⟩, hp, hc⟩
  · rw [hto, Wave.path_goto_other, hslots.path, Wave.issuedAt_path_other]
  · rw [hto, Wave.path_goto, hslots.path, Wave.issuedAt_path, show (u.jump w pcb a).clk = s.issueTime w f from hi.clk]
  · rw [hto, Wave.goto_stack, hslots.stack, Wave.issuedAt_stack]
  · rw [hto, Wave.goto_ended, hslots.ended, Wave.issuedAt_ended]

theorem ctl_jump (a : Addr) : Goes s ((ctlBegun s w pcb f lat).jump w pcb a) w pcb x f lat a ∧
    NoResult s ((ctlBegun s w pcb f lat).jump w pcb a) w x :=
  ⟨goes_jump hw ctlBegun_effect a, noResult_ctl hw fun y => diverges_goto y pcb a⟩

theorem ctl_advance : Fixed s ((ctlBegun s w pcb f lat).advance w pcb) w pcb x f lat ∧ NoResult s ((ctlBegun s w pcb f lat).advance w pcb) w x :=
  ⟨Fixed.of hw ctlBegun_effect, noResult_ctl hw fun y => diverges_goto y pcb _⟩

theorem ctl_writeU_jump (d : Reg) (v : BitVec 64) (a : Addr) :
    let t := ((ctlBegun s w pcb f lat).writeU w s.uid 2 d v).jump w pcb a
    Goes s t w pcb x f lat a ∧ ResultU s t w x d v [] := by
  obtain ⟨y, hy⟩ := ctlBegun_present (s := s) (w := w) (pcb := pcb) (f := f) (lat := lat)
  exact ⟨goes_jump hw (ctlBegun_effect.trans (State.writeU_effect hy _ _ _ _)) a, resultU_ctl hw _ _ d v fun y => diverges_goto y pcb a⟩

theorem ctl_writeU_advance (d : Reg) (v : BitVec 64) :
    let t := ((ctlBegun s w pcb f lat).writeU w s.uid 2 d v).advance w pcb
    Fixed s t w pcb x f lat ∧ ResultU s t w x d v [] := by
  obtain ⟨y, hy⟩ := ctlBegun_present (s := s) (w := w) (pcb := pcb) (f := f) (lat := lat)
  exact ⟨Fixed.of hw (ctlBegun_effect.trans (State.writeU_effect hy _ _ _ _)), resultU_ctl hw _ _ d v fun y => diverges_goto y pcb _⟩

theorem State.atIssue_path (q : Bool) : ((s.atIssue w f).wave w).path q = x.path q := by
  obtain ⟨l, hl⟩ := s.wave_atIssue w f
  rw [hl, State.wave_of_kget hw, ← Wave.retire_path x (s.issueTime w f) q]
  cases q <;> rfl
end

/-! ### The shape of the control instructions -/

theorem misplaced_eq_true {a : Addr} (h : a.toNat % 12 ≠ 0) : misplaced a = true := decide_eq_true h

theorem misplaced_eq_false {a : Addr} (h : a.toNat % 12 = 0) : misplaced a = false := decide_eq_false (not_not.2 h)

section
variable {s : State} {w : Nat} {pcb : Bool} {x : Wave} {f : Sched} {lat : Nat} {target : State → Wave → Addr → Option Addr}
  {k : Nat → Bool → State → Wave → BitVec 32 → Addr → State → State} (h : Turn s w pcb x) (ha : activeAt s w pcb f ≠ 0)
include h ha

theorem control_eq : control s f lat target k = .next (match target (s.atIssue w f) ((s.atIssue w f).wave w) (x.path pcb).pc with
    | some a => if misplaced a then s.raiseIssue w pcb f (Trap.of 3 (activeAt s w pcb f))
      else k w pcb (s.atIssue w f) ((s.atIssue w f).wave w) (activeAt s w pcb f) a (ctlBegun s w pcb f lat)
    | none => k w pcb (s.atIssue w f) ((s.atIssue w f).wave w) (activeAt s w pcb f) (x.path pcb).pc (ctlBegun s w pcb f lat)) := by
  rw [control, onTurn_eq h, ← State.atIssue_path (f := f) h.wave pcb]
  exact congrArg _ (if_neg ha)

theorem control_target {a : Addr} (ht : target (s.atIssue w f) ((s.atIssue w f).wave w) (x.path pcb).pc = some a) (hm : a.toNat % 12 = 0) :
    control s f lat target k =
      .next (k w pcb (s.atIssue w f) ((s.atIssue w f).wave w) (activeAt s w pcb f) a (ctlBegun s w pcb f lat)) := by
  simp only [control_eq h ha, ht, misplaced_eq_false hm, Bool.false_eq_true, if_false]

/-- R16: a misplaced target raises ALIGN, whatever the instruction would do. -/
theorem control_misplaced {a : Addr} (ht : target (s.atIssue w f) ((s.atIssue w f).wave w) (x.path pcb).pc = some a)
    (hm : a.toNat % 12 ≠ 0) : control s f lat target k = .next (s.raiseIssue w pcb f (Trap.of 3 (activeAt s w pcb f))) := by
  simp only [control_eq h ha, ht, misplaced_eq_true hm, if_true]
end

theorem negIf_readPred (s : State) (w : Nat) (f : Sched) (n : BitVec 3) (neg : Bool) :
    negIf neg (((s.atIssue w f).wave w).readPred (s.atIssue w f).free n.toNat) = predAt s w f n neg := rfl

/-! ### BRD (R77) -/

/-- The stack after a split: the live sibling spilled, and a frame for the join that the path had. -/
def spilled (x : Wave) (pcb : Bool) (join : Addr) : List DivRec :=
  (match (x.path pcb).join with
    | some j => [.frame join j]
    | none => []) ++ (if (x.path (!pcb)).live then [.path (x.path (!pcb))] else []) ++ x.stack

theorem SameSlots.spilled {x y : Wave} (h : SameSlots x y) (pcb : Bool) (join : Addr) : spilled x pcb join = spilled y pcb join := by
  unfold Machine.spilled
  rw [h.path, h.path, h.stack]

theorem spilled_issuedAt (x : Wave) (pcb : Bool) (now : Nat) (join : Addr) : spilled (x.issuedAt pcb now) pcb join = spilled x pcb join := by
  unfold spilled
  rw [Wave.issuedAt_path, Wave.issuedAt_path_other, Wave.issuedAt_stack]

theorem Wave.split_eq (x : Wave) (pcb : Bool) (next target join : Addr) (t f : BitVec 32) (now : Nat) : x.split pcb next target join t f now =
    if 16 < (spilled x pcb join).length then none
    else some { x with
      pca := { live := true, pc := next, mask := f, join := some join, last := now, hold := .none }
      pcb := { live := true, pc := target, mask := t, join := some join, last := now, hold := .none }
      stack := spilled x pcb join } := by
  have hst : spilled x pcb join = (match (x.path pcb).join with
      | some j => .frame join j :: (if (x.path (!pcb)).live then .path (x.path (!pcb)) :: x.stack else x.stack)
      | none => if (x.path (!pcb)).live then .path (x.path (!pcb)) :: x.stack else x.stack) := by
    unfold spilled
    cases (x.path pcb).join <;> cases (x.path (!pcb)).live <;> rfl
  rw [hst]
  rfl

section
variable {x y : Wave} {pcb : Bool} {now : Nat} {join : Addr} (h : SameSlots y (x.issuedAt pcb now))
include h

theorem split_of_room (hroom : (spilled x pcb join).length ≤ 16) (next target : Addr) (t f : BitVec 32) :
    y.split pcb next target join t f now = some { y with
      pca := { live := true, pc := next, mask := f, join := some join, last := now, hold := .none }
      pcb := { live := true, pc := target, mask := t, join := some join, last := now, hold := .none }
      stack := spilled x pcb join } := by
  rw [Wave.split_eq, h.spilled, spilled_issuedAt, if_neg (not_lt.2 hroom)]

theorem split_of_full (hfull : 16 < (spilled x pcb join).length) (next target : Addr) (t f : BitVec 32) :
    y.split pcb next target join t f now = none := by
  rw [Wave.split_eq, h.spilled, spilled_issuedAt, if_pos hfull]
end

/-- The join that a BRD names, as a number of instructions from it. -/
theorem ofInt_mul_toInt (k : Int) (v : BitVec 16) : BitVec.ofInt 56 (k * v.toInt) = BitVec.ofInt 56 k * v.signExtend 56 :=
  BitVec.ofInt_mul ..

section
variable {s : State} {w : Nat} {pcb : Bool} {x : Wave} {f : Sched} {n : BitVec 3} {neg : Bool} {jlo jhi : Reg} {disp : BitVec 32}
  (h : Turn s w pcb x) (ha : activeAt s w pcb f ≠ 0)
include h ha

theorem execBrd_eq : exec (.brd f n neg jlo jhi disp) s = .next (
    let pc := (x.path pcb).pc
    let tgt := pc + disp.signExtend 56
    let join := pc + (12 * (jhi ++ jlo : BitVec 16).signExtend 56 : Addr)
    let yes := (x.path pcb).mask &&& predAt s w f n neg
    let no := (x.path pcb).mask &&& ~~~(predAt s w f n neg)
    let split (y : Wave) := y.split pcb (pc + 12) tgt join yes no (s.issueTime w f)
    if misplaced tgt then s.raiseIssue w pcb f (Trap.of 3 (activeAt s w pcb f))
    else if yes = 0 then (ctlBegun s w pcb f 0).advance w pcb
    else if no = 0 then (ctlBegun s w pcb f 0).jump w pcb tgt
    else match split ((s.beginIssue w pcb f (some 0)).wave w) with
      | some _ => (ctlBegun s w pcb f 0).modWave w fun y => (split y).getD y
      | none => s.raiseIssue w pcb f (Trap.of 12 (activeAt s w pcb f))) := by
  rw [exec_brd, execBrd, onTurn_eq h, ← State.atIssue_path (f := f) h.wave pcb]
  simp only [ofInt_mul_toInt]
  exact congrArg _ (if_neg ha)

theorem execBrd_misplaced (hm : ((x.path pcb).pc + disp.signExtend 56).toNat % 12 ≠ 0) :
    exec (.brd f n neg jlo jhi disp) s = .next (s.raiseIssue w pcb f (Trap.of 3 (activeAt s w pcb f))) := by
  simp only [execBrd_eq h ha, misplaced_eq_true hm, if_true]
end

/-- A mask of one lane has no two halves. -/
theorem one_and_halves (p : BitVec 32) : 1 &&& p = 0 ∨ 1 &&& ~~~p = 0 := by
  have hone : ∀ q : BitVec 32, q.toNat % 2 = 0 → 1 &&& q = 0 := fun q hq =>
    BitVec.eq_of_toNat_eq ((BitVec.toNat_and 1 q).trans ((Nat.one_and_eq_mod_two _).trans hq))
  rcases Nat.mod_two_eq_zero_or_one p.toNat with h | h
  · exact .inl (hone p h)
  · exact .inr (hone _ (by rw [BitVec.toNat_not]; omega))

/-- Settles O18: the four ends of a BRD by its lanes and the room in the stack. -/
theorem splitResult : Obligations.SplitResult := by
  intro s w pcb x f n neg jlo jhi disp ht ha
  dsimp only
  refine ⟨execBrd_misplaced ht ha, fun _ hm => ?oneLane, fun hm => ⟨fun hyes => ?stays, fun hyes hno => ?jumps, fun hyes hno hroom => ?splits,
    fun hyes hno hfull => ?full⟩⟩
  case oneLane =>
    rw [hm]; exact one_and_halves _
  all_goals
    simp only [execBrd_eq ht ha, misplaced_eq_false hm, Bool.false_eq_true, if_false]
  case stays =>
    rw [if_pos hyes]
    exact ⟨_, rfl, ctl_advance ht.wave⟩
  case jumps =>
    rw [if_neg hyes, if_pos hno]
    exact ⟨_, rfl, ctl_jump ht.wave _⟩
  case splits =>
    have hslots := ctlBegun_slots (pcb := pcb) (f := f) (lat := 0) ht.wave
    have hg := fun y : Wave => diverges_split y pcb ((x.path pcb).pc + 12) ((x.path pcb).pc + disp.signExtend 56)
      ((x.path pcb).pc + (12 * (jhi ++ jlo : BitVec 16).signExtend 56 : Addr)) ((x.path pcb).mask &&& predAt s w f n neg)
      ((x.path pcb).mask &&& ~~~(predAt s w f n neg)) (s.issueTime w f)
    obtain ⟨hi, hc, hn, hp⟩ := ctl_diverged (pcb := pcb) (f := f) (lat := 0) ht.wave hg
    rw [if_neg hyes, if_neg hno, split_of_room (State.beginIssue_begun ht.wave pcb f (some 0)).slots hroom]
    refine ⟨_, rfl, hi, hc, hn, ?_, ?_, ?_, hp, ?_⟩ <;>
      rw [State.wave_modWave_same, split_of_room hslots hroom]
    · rfl
    · rfl
    · rfl
    · exact hslots.ended.trans (Wave.issuedAt_ended ..)
  case full =>
    rw [if_neg hyes, if_neg hno, split_of_full (State.beginIssue_begun ht.wave pcb f (some 0)).slots hfull]

/-! ### BRA, BRC, CALL, RET and LOOP (R75) -/

theorem brcTaken_iff (mode : Reg) (p act : BitVec 32) : brcTaken mode p act = true ↔
    if mode = 0 then p &&& act ≠ 0 else if mode = 1 then act &&& ~~~p = 0 else p &&& act = 0 := by
  unfold brcTaken
  by_cases h0 : mode = 0
  · subst h0; simp
  · by_cases h1 : mode = 1
    · subst h1; simp
    · have n0 : mode.toNat ≠ 0 := fun e => h0 (BitVec.eq_of_toNat_eq e)
      have n1 : mode.toNat ≠ 1 := fun e => h1 (BitVec.eq_of_toNat_eq e)
      rw [if_neg h0, if_neg h1]
      split <;> simp_all

/-- Settles O17: a branch with a placed target has one of the two ends, at the target or on; a misplaced one raises first. -/
theorem branchResults : Obligations.BranchResults := by
  refine ⟨fun s w pcb x f n neg mode d disp h ha => ?placed, fun s w pcb x f a h ha hm => ?ret,
    fun s w pcb x f n neg mode d a jlo jhi disp h ha => ⟨fun hm => ?misplaced, fun hm => ?retMisplaced⟩⟩
  case placed =>
    dsimp only
    intro hm
    simp only [exec_bra, exec_brc, exec_call, exec_loop, execBra, execBrc, execCall, execLoop]
    refine ⟨⟨_, control_target h ha rfl hm, ctl_jump h.wave _⟩, ⟨_, control_target h ha rfl hm, ?brc⟩,
      ⟨_, control_target h ha rfl hm, ?call⟩, ⟨_, control_target h ha rfl hm, ?loop⟩⟩
    case brc =>
      have htaken := brcTaken_iff mode (predAt s w f n neg) (activeAt s w pcb f)
      rw [negIf_readPred]
      by_cases ht : brcTaken mode (predAt s w f n neg) (activeAt s w pcb f) = true
      · rw [if_pos ht, if_pos (htaken.1 ht)]
        exact ctl_jump h.wave _
      · rw [if_neg ht, if_neg fun e => ht (htaken.2 e)]
        exact ctl_advance h.wave
    case call =>
      rw [State.atIssue_path h.wave]
      exact ctl_writeU_jump h.wave d _ _
    case loop =>
      have hv : (s.atIssue w f).readU ((s.atIssue w f).wave w) d = readAt s w f d := rfl
      rw [hv]
      by_cases h0 : readAt s w f d - 1 ≠ 0
      · rw [if_pos h0, if_pos h0]
        exact ctl_writeU_jump h.wave d _ _
      · rw [if_neg h0, if_neg h0]
        exact ctl_writeU_advance h.wave d _
  case ret =>
    rw [exec_ret, execRet]
    exact ⟨_, control_target h ha rfl hm, ctl_jump h.wave _⟩
  case misplaced =>
    simp only [List.forall_mem_cons, List.not_mem_nil, false_imp_iff, implies_true, and_true, exec_bra, exec_brc, exec_call, exec_loop,
      execBra, execBrc, execCall, execLoop]
    exact ⟨control_misplaced h ha rfl hm, control_misplaced h ha rfl hm, execBrd_misplaced h ha hm,
      control_misplaced h ha rfl hm, control_misplaced h ha rfl hm⟩
  case retMisplaced =>
    rw [exec_ret, execRet]
    exact control_misplaced h ha rfl hm
end Sys2Proof.Machine
end

section
/-! PROOF. JOIN and EXIT: paths that merge or end, and the refill after them (R78 to R80). -/
namespace Sys2Proof.Machine
open Sys2Proof

/-! ### JOIN (R78) -/

theorem SameSlots.merge {x y : Wave} (h : SameSlots x y) (pcb : Bool) (j : Addr) (now : Nat) :
    SameSlots (x.merge pcb j now) (y.merge pcb j now) := by
  unfold Wave.merge
  rw [h.path, h.path, h.stack]
  exact SameSlots.refill ⟨rfl, rfl, rfl, h.ended⟩

/-- The frame on top of the stack that names the join: the outer join, and the records under it. -/
def topFrame (x : Wave) (j : Addr) : Option (Addr × List DivRec) :=
  match x.stack with
  | .frame jc outer :: rest => if jc = j then some (outer, rest) else none
  | _ => none

/-- The slots after a merge, before they are refilled. -/
def joined (x : Wave) (pcb : Bool) (j : Addr) (now : Nat) : Wave := { x with
  pca := { live := true, pc := j + 12
           mask := if (x.path (!pcb)).live = true ∧ (x.path (!pcb)).join = (x.path pcb).join then (x.path pcb).mask ||| (x.path (!pcb)).mask
             else (x.path pcb).mask
           join := (topFrame x j).map (·.1), last := now, hold := .none }
  pcb := Path.dead, stack := ((topFrame x j).map (·.2)).getD x.stack }

theorem merge_eq (x : Wave) (pcb : Bool) (j : Addr) (now : Nat) :
    x.merge pcb j now = Wave.refill { joined x pcb j now with lastPcb := false } := by
  unfold Wave.merge joined topFrame
  rcases hst : x.stack with _ | ⟨p | ⟨jc, outer⟩, rest⟩
  · rfl
  · rfl
  · by_cases hjc : jc = j
    · simp only [if_pos hjc]; rfl
    · simp only [if_neg hjc]; rfl

theorem merge_joined (x : Wave) (pcb : Bool) (j : Addr) (now : Nat) : SameSlots (x.merge pcb j now) (joined x pcb j now).refill := by
  rw [merge_eq]
  exact SameSlots.refill ⟨rfl, rfl, rfl, rfl⟩

theorem joined_issuedAt (x : Wave) (pcb : Bool) (j : Addr) (now : Nat) : SameSlots (joined (x.issuedAt pcb now) pcb j now) (joined x pcb j now) := by
  unfold joined topFrame
  rw [Wave.issuedAt_path, Wave.issuedAt_path_other, Wave.issuedAt_stack]
  exact ⟨rfl, rfl, rfl, Wave.issuedAt_ended ..⟩

section
variable {s : State} {w : Nat} {pcb : Bool} {x : Wave} {f : Sched} (h : Turn s w pcb x) (ha : activeAt s w pcb f ≠ 0)
include h ha

theorem execJoin_eq : exec (.join f) s = .next (if (x.path pcb).join = some (x.path pcb).pc
    then (ctlBegun s w pcb f 0).modWave w fun y => y.merge pcb (x.path pcb).pc (s.issueTime w f)
    else (ctlBegun s w pcb f 0).advance w pcb) := by
  rw [exec_join, execJoin, control_eq h ha, ← State.atIssue_path (f := f) h.wave pcb]
  rfl
end

/-- A JOIN waits for a live sibling that stands elsewhere. -/
theorem eligible_join {s : State} {w : Nat} {pcb : Bool} {x : Wave} {f : Sched} (hj : (x.path pcb).join = some (x.path pcb).pc)
    (ho : (x.path (!pcb)).live = true) (hs : (x.path (!pcb)).standing ≠ (x.path pcb).pc) (r : Raw) :
    s.eligible w pcb x r (.join f) = false := by
  have hown : s.ownReady w pcb x (.join f) = false := by
    unfold State.ownReady
    simp [hj, ho, hs]
  unfold State.eligible
  rw [hown, Bool.and_false]

/-- Settles O19: at its join the path takes the slots that a merge leaves, refilled; elsewhere it only moves on. -/
theorem joinResult : Obligations.JoinResult := by
  intro s w pcb x f ht ha
  dsimp only
  refine ⟨fun hj => ?_, fun hj ho hs word => eligible_join hj ho hs _, fun hj => ?_⟩ <;> rw [execJoin_eq ht ha]
  · rw [if_neg hj]
    exact ⟨_, rfl, ctl_advance ht.wave⟩
  · rw [if_pos hj]
    obtain ⟨hi, hc, hn, hp⟩ := ctl_diverged (pcb := pcb) (f := f) (lat := 0) ht.wave
      fun y => diverges_merge y pcb (x.path pcb).pc (s.issueTime w f)
    refine ⟨_, rfl, hi, hc, hn, hp, ?_⟩
    rw [hi.clk, State.wave_modWave_same]
    obtain ⟨hpca, hpcb, hst, he⟩ := (((ctlBegun_slots (pcb := pcb) (f := f) (lat := 0) ht.wave).merge pcb (x.path pcb).pc (s.issueTime w f)).trans
      (merge_joined ..)).trans (joined_issuedAt ..).refill
    exact ⟨hpca, hpcb, hst, he⟩

/-! ### EXIT (R80) -/

/-- A path whose active lanes end. -/
def Wave.exitLanes (x : Wave) (pcb : Bool) (act : BitVec 32) (pc : Addr) : Wave :=
  let m := (x.path pcb).mask &&& ~~~act
  if m = 0 then Wave.refill (x.setPath pcb { x.path pcb with mask := 0, live := false })
  else x.setPath pcb { x.path pcb with mask := m, pc := pc + 12 }

theorem diverges_exitLanes (x : Wave) (pcb : Bool) (act : BitVec 32) (pc : Addr) : Diverges x (x.exitLanes pcb act pc) := by
  unfold Wave.exitLanes
  dsimp only
  split
  · exact (diverges_setPath ..).trans (diverges_refill _)
  · exact diverges_setPath ..

theorem SameSlots.exitLanes {x y : Wave} (h : SameSlots x y) (pcb : Bool) (act : BitVec 32) (pc : Addr) :
    SameSlots (x.exitLanes pcb act pc) (y.exitLanes pcb act pc) := by
  unfold Wave.exitLanes
  rw [h.path]
  dsimp only
  split
  · exact (h.setPath ..).refill
  · exact h.setPath ..

theorem exitLanes_issuedAt (x : Wave) (pcb : Bool) (now : Nat) (act : BitVec 32) (pc : Addr) : (x.issuedAt pcb now).exitLanes pcb act pc =
    if (x.path pcb).mask &&& ~~~act = 0 then Wave.refill (x.setPath pcb { x.path pcb with mask := 0, live := false, last := now, since := now })
    else x.setPath pcb { x.path pcb with mask := (x.path pcb).mask &&& ~~~act, pc := pc + 12, last := now, since := now } := by
  unfold Wave.exitLanes
  simp only [Wave.issuedAt_path, Wave.issuedAt_setPath]

theorem execExit_eq {s : State} {w : Nat} {pcb : Bool} {x : Wave} {f : Sched} (h : Turn s w pcb x) (ha : activeAt s w pcb f ≠ 0) :
    exec (.exit f) s = .next (
      let t := (ctlBegun s w pcb f 0).modWave w fun y => y.exitLanes pcb (activeAt s w pcb f) (x.path pcb).pc
      if (t.wave w).ended then t.completeBars (t.wave w).block else t) := by
  rw [exec_exit, execExit, control_eq h ha]
  rfl

/-- Settles O20: the active lanes leave the path whose time of issue is noted; the wave's end is read off its slots. -/
theorem exitResult : Obligations.ExitResult := by
  intro s w pcb x f ht ha
  dsimp only
  obtain ⟨hi, hc, hn, hp⟩ := ctl_diverged (pcb := pcb) (f := f) (lat := 0) ht.wave
    fun y => diverges_exitLanes y pcb (activeAt s w pcb f) (x.path pcb).pc
  have hslots := (ctlBegun_slots (pcb := pcb) (f := f) (lat := 0) ht.wave).exitLanes pcb (activeAt s w pcb f) (x.path pcb).pc
  rw [exitLanes_issuedAt, ← State.wave_modWave_same (ctlBegun s w pcb f 0) w
    fun y => y.exitLanes pcb (activeAt s w pcb f) (x.path pcb).pc] at hslots
  obtain ⟨hpca, hpcb, hst, he⟩ := hslots
  refine ⟨_, hi, hc, hn, hp, hpca, hpcb, hst, he, ?_⟩
  rw [execExit_eq ht ha, ← he, ← congrArg Wave.block hi.kept]
end Sys2Proof.Machine
end

section
/-! PROOF. VFCMP and the draws of stochastic rounding (R49, R85). -/
namespace Sys2Proof.Machine
open Sys2Proof

/-! ### VFCMP (R85) -/

/-- An order that is not greater is less or equal, and so on: the comparisons of two values that are numbers or infinities. -/
theorem cmpCode_eq_floatCond (cnd : BitVec 3) (x y : BitVec 32) : cmpCode f32 cnd.toNat x.toNat y.toNat = floatCond cnd x y := by
  have hcnd (n : Nat) (h : n < 8) : decide (cnd.toNat = n) = (cnd == BitVec.ofNat 3 n) := by
    rw [Bool.eq_iff_iff, decide_eq_true_eq, beq_iff_eq, ← BitVec.toNat_inj, BitVec.toNat_ofNat, Nat.mod_eq_of_lt h]
  unfold cmpCode floatCond
  dsimp only
  split
  · next hx => rw [if_pos (.inl hx), hcnd 1 (by decide), hcnd 6 (by decide)]; rfl
  · next hy _ => rw [if_pos (.inr hy), hcnd 1 (by decide), hcnd 6 (by decide)]; rfl
  · next hx hy =>
    rw [if_neg (not_or.2 ⟨hx, hy⟩)]
    generalize (floatVal f32 x.toNat).cmp (floatVal f32 y.toNat) = o
    cases o <;> rfl

/-- Settles O10: the comparison of codes is that of their values, and the destination alone makes the word fail check 6. -/
theorem floatCompareResult : Obligations.FloatCompareResult := by
  intro s w pcb x f cnd d a b h ha
  obtain ⟨u, hu, hfixed, hres⟩ := fixedP_active h ha (lat := 6) (d := d) (srcs := [a, b])
    (val := fun r x _ => laneBits fun l => cmpCode f32 cnd.toNat (r.readL x [] a l).toNat (r.readL x [a] b l).toNat)
    (r := laneBits fun l => floatCond cnd (laneAt s w f [] a l) (laneAt s w f [a] b l)) (by simp only [cmpCode_eq_floatCond]; rfl)
  exact ⟨u, hu, hfixed, hres, fun hd hsig => decode_encode_operands rfl hsig rfl (predOk_eq_false.2 hd)⟩

/-! ### Draws (R49) -/

theorem lfsrAfter_succ (n : Nat) (v : BitVec 64) : lfsrAfter (n + 1) v = lfsrAfter n (lfsrStep v).1 := rfl

theorem lfsrAfter_add (m n : Nat) (v : BitVec 64) : lfsrAfter (m + n) v = lfsrAfter n (lfsrAfter m v) := by
  rw [Nat.add_comm]; exact Function.iterate_add_apply _ n m v

/-- The bit fed back by step `i`. -/
def fedBack (v : BitVec 64) (i : Nat) : Bool := (lfsrStep (lfsrAfter i v)).2

theorem fedBack_lfsrAfter (v : BitVec 64) (m i : Nat) : fedBack (lfsrAfter m v) i = fedBack v (m + i) := by
  rw [fedBack, ← lfsrAfter_add]; rfl

theorem fedBack_step (v : BitVec 64) (i : Nat) : fedBack (lfsrStep v).1 i = fedBack v (i + 1) :=
  (fedBack_lfsrAfter v 1 i).trans (by rw [Nat.add_comm])

theorem lfsrDraw_eq (n : Nat) : ∀ (v : BitVec 64) (acc : Nat), lfsrDraw n v acc =
    (acc * 2 ^ n + ((List.range n).map fun i => if fedBack v i then 2 ^ (n - 1 - i) else 0).sum, lfsrAfter n v) := by
  induction n with
  | zero => intro v acc; simp [lfsrDraw, lfsrAfter]
  | succ n ih =>
    intro v acc
    have htail : ((List.range n).map Nat.succ).map (fun i => if fedBack v i then 2 ^ (n + 1 - 1 - i) else 0) =
        (List.range n).map fun i => if fedBack (lfsrStep v).1 i then 2 ^ (n - 1 - i) else 0 := by
      rw [List.map_map]
      refine List.map_congr_left fun i _ => ?_
      rw [fedBack_step, show n - 1 - i = n + 1 - 1 - (i + 1) by omega]
      rfl
    rw [show lfsrDraw (n + 1) v acc = lfsrDraw n (lfsrStep v).1 (acc * 2 + if fedBack v 0 then 1 else 0) from rfl, ih, lfsrAfter_succ,
      List.range_succ_eq_map, List.map_cons, List.sum_cons, htail, Nat.add_sub_cancel, Nat.sub_zero]
    congr 1
    split <;> ring

theorem draw24_eq (v : BitVec 64) : draw24 v = (drawAt v 0, lfsrAfter 24 v) := by
  rw [draw24, lfsrDraw_eq, Nat.zero_mul, Nat.zero_add]
  simp only [drawAt, fedBack, Nat.mul_zero, Nat.zero_add]
  rfl

theorem drawAt_eq (v : BitVec 64) (k : Nat) : drawAt v k = ((List.range 24).map fun i => if fedBack v (24 * k + i) then 2 ^ (23 - i) else 0).sum :=
  rfl

theorem drawAt_succ (v : BitVec 64) (k : Nat) : drawAt v (k + 1) = drawAt (lfsrAfter 24 v) k := by
  have hstep (i : Nat) : 24 * (k + 1) + i = 24 + (24 * k + i) := by ring
  simp only [drawAt_eq, fedBack_lfsrAfter, hstep]

theorem drawMany_eq (n : Nat) : ∀ v : BitVec 64, drawMany n v = ((List.range n).map (drawAt v), lfsrAfter (24 * n) v) := by
  induction n with
  | zero => intro v; rfl
  | succ n ih =>
    intro v
    simp only [drawMany, draw24_eq, ih]
    rw [← lfsrAfter_add, List.range_succ_eq_map, List.map_cons, List.map_map, Nat.mul_add, Nat.mul_one, Nat.add_comm 24]
    simp only [Function.comp_def, Nat.succ_eq_add_one, drawAt_succ]

theorem getD_drawMany {n k : Nat} (hk : k < n) (v : BitVec 64) : (drawMany n v).1.getD k 0 = drawAt v k := by
  rw [drawMany_eq, List.getD_eq_getElem _ _ (by simpa using hk), List.getElem_map, List.getElem_range]

theorem drawMany_lfsr (n : Nat) (v : BitVec 64) : (drawMany n v).2 = lfsrAfter (24 * n) v := by rw [drawMany_eq]

theorem rankOf_succ (act : BitVec 32) (l : Nat) : rankOf act (l + 1) = rankOf act l + if act.getLsbD l then 1 else 0 := by
  rw [rankOf, List.range_succ, List.filter_append, List.length_append, rankOf]
  cases h : act.getLsbD l <;> simp [h]

theorem rankOf_mono (act : BitVec 32) : Monotone (rankOf act) :=
  monotone_nat_of_le_succ fun l => by rw [rankOf_succ]; exact Nat.le_add_right _ _

theorem rankOf_lt_countLanes {act : BitVec 32} {l : Nat} (hl : l < 32) (h : act.getLsbD l = true) : rankOf act l < countLanes act :=
  calc rankOf act l < rankOf act (l + 1) := by rw [rankOf_succ, if_pos h]; exact Nat.lt_succ_self _
    _ ≤ countLanes act := rankOf_mono act hl

/-- Draw `i` of an active lane, in lane-major order. -/
theorem drawsFor_draw {act : BitVec 32} {l i per : Nat} (hl : l < 32) (h : act.getLsbD l = true) (hi : i < per) (v : BitVec 64) :
    (drawsFor v act per).1 l i = drawAt v (rankOf act l * per + i) := by
  have hbound : rankOf act l * per + i < countLanes act * per :=
    calc rankOf act l * per + i < (rankOf act l + 1) * per := by rw [Nat.succ_mul]; exact Nat.add_lt_add_left hi _
      _ ≤ countLanes act * per := Nat.mul_le_mul_right _ (rankOf_lt_countLanes hl h)
  exact getD_drawMany hbound v

theorem drawsFor_lfsr (v : BitVec 64) (act : BitVec 32) (per : Nat) : (drawsFor v act per).2 = lfsrAfter (24 * (countLanes act * per)) v :=
  drawMany_lfsr _ v
end Sys2Proof.Machine
end

section
/-! PROOF. Conversions that move the LFSR: CVT, VPACK and SEED (R91, R92, R95, R96). -/
namespace Sys2Proof.Machine
open Sys2Proof

/-! ### An issue before its results -/

/-- An instruction has issued, its source ports have popped and the LFSR is `lf`; no result is written yet. -/
structure Staged (s t : State) (w : Nat) (pcb : Bool) (x : Wave) (f : Sched) (lat : Nat) (lf : BitVec 64) (srcs : List Reg) : Prop where
  effect : Effect (s.beginIssue w pcb f (some lat)) t w
  block : (t.wave w).block = x.block
  sRegs : (t.wave w).s = x.s
  vRegs : (t.wave w).v = x.v
  preds : (t.wave w).p = x.p
  lfsr : (t.wave w).lfsr = lf
  queues : Queues s t x srcs none []

theorem Effect.present {t u : State} {w : Nat} (h : Effect t u w) : kget u.waves w = some (u.wave w) := by
  obtain ⟨_, _, _, _, _, _, _, h⟩ := h.wave
  rw [h, State.wave_of_kget h]

/-- The queues are read off the blocks alone. -/
theorem Queues.congr {s t u : State} {x : Wave} {srcs : List Reg} {d : Option Reg} {entry : List (BitVec 32)} (h : Queues s t x srcs d entry)
    (hb : u.blocks = t.blocks) : Queues s u x srcs d entry :=
  ⟨hb ▸ h.absent, hb ▸ h.present⟩

theorem Staged.of_issue {s : State} {w : Nat} {x : Wave} (hw : kget s.waves w = some x) (pcb : Bool) (f : Sched) (lat : Nat) :
    Staged s (s.beginIssue w pcb f (some lat)) w pcb x f lat x.lfsr [] := by
  have b := State.beginIssue_begun hw pcb f (some lat)
  obtain ⟨hs, hv, hp, hl⟩ := b.regs
  exact ⟨Effect.refl b.present, b.wave_block, hs, hv, hp, hl, (Queues.of (d := none) b id fun k hk =>
    ⟨k, hk, rfl, fun q => by simp [portsOn]⟩).congr rfl⟩

theorem State.setLfsr_effect (t : State) (w uid : Nat) (v : BitVec 64) : Effect t (t.setLfsr w uid v) w :=
  Effect.ofWave _ fun y => by unfold Wave.log; split <;> rfl

theorem State.setLfsr_regs (t : State) (w uid : Nat) (v : BitVec 64) : ((t.setLfsr w uid v).wave w).s = (t.wave w).s ∧
    ((t.setLfsr w uid v).wave w).v = (t.wave w).v ∧ ((t.setLfsr w uid v).wave w).p = (t.wave w).p ∧
    ((t.setLfsr w uid v).wave w).lfsr = v := by
  rw [State.setLfsr, State.wave_modWave_same]
  exact ⟨Wave.log_s .., Wave.log_v .., Wave.log_p .., rfl⟩

/-- The LFSR that a wave has at the issue of an instruction. -/
theorem State.atIssue_lfsr {s : State} {w : Nat} {x : Wave} (hw : kget s.waves w = some x) (f : Sched) :
    ((s.atIssue w f).wave w).lfsr = x.lfsr := by
  obtain ⟨l, hl⟩ := s.wave_atIssue w f
  rw [hl, State.wave_of_kget hw]; simp

theorem fixed_active {s : State} {w : Nat} {pcb : Bool} {x : Wave} (h : Turn s w pcb x) {f : Sched} (ha : activeAt s w pcb f ≠ 0)
    (lat : Nat) (k : Nat → Bool → State → Wave → BitVec 32 → State → State) : fixed s f lat k = .next
      ((k w pcb (s.atIssue w f) ((s.atIssue w f).wave w) (activeAt s w pcb f) (s.beginIssue w pcb f (some lat))).advance w pcb) := by
  rw [fixed_eq h, if_neg ha]

section
variable {s t : State} {w : Nat} {pcb : Bool} {x : Wave} {f : Sched} {lat : Nat} {lf : BitVec 64} {srcs : List Reg}

theorem Staged.setLfsr (h : Staged s t w pcb x f lat lf srcs) (uid : Nat) (v : BitVec 64) :
    Staged s (t.setLfsr w uid v) w pcb x f lat v srcs := by
  obtain ⟨he, hb, hs, hv, hp, -, hq⟩ := h
  have hfx := t.setLfsr_effect w uid v
  obtain ⟨ls, lv, lp, ll⟩ := t.setLfsr_regs w uid v
  exact ⟨he.trans hfx, hfx.block_eq.trans hb, ls.trans hs, lv.trans hv, lp.trans hp, ll, hq.congr rfl⟩

/-- R96: only `.SR` moves the LFSR. -/
theorem Staged.drawn (h : Staged s t w pcb x f lat lf srcs) (uid : Nat) (rm : BitVec 3) (v : BitVec 64) :
    Staged s (t.drawn w uid rm v) w pcb x f lat (if rm = 4 then v else lf) srcs := by
  unfold State.drawn
  split
  · exact h.setLfsr uid v
  · exact h

theorem Staged.popPorts (h : Staged s t w pcb x f lat lf []) {y : Wave} (hy : y.block = x.block) (srcs : List Reg) :
    Staged s (t.popPorts y srcs) w pcb x f lat lf srcs := by
  obtain ⟨he, hb, hs, hv, hp, hl, hq⟩ := h
  obtain ⟨pe, pw, p0, p1⟩ := State.popPorts_spec he.present (hb.trans hy.symm) srcs
  rw [hy] at p0 p1
  have hwave : (t.popPorts y srcs).wave w = t.wave w := State.wave_congr pw w
  refine ⟨he.trans pe, by rw [hwave, hb], by rw [hwave, hs], by rw [hwave, hv], by rw [hwave, hp], by rw [hwave, hl],
    fun hn => p0 (hq.absent hn), fun b hk => ?_⟩
  obtain ⟨b', h2, h3, h4⟩ := hq.present b hk
  obtain ⟨b'', h5, h6, h7⟩ := p1 b' h2
  have hbinds : b'.binds = b.binds := by have := congrArg Block.binds h3; exact this
  refine ⟨b'', h5, (congrArg (fun j => ({ j with fifos := b.fifos } : Block)) h6).trans h3, fun q => ?_⟩
  have hports : portsOn b' q srcs = portsOn b q srcs := by rw [portsOn, hbinds]; rfl
  rw [h7, h4, hports]
  simp [portsOn]

/-- A push of a per-lane result after the ports have popped. -/
theorem Staged.queues_writeL (h : Staged s t w pcb x f lat lf srcs) (uid : Nat) (d : Reg) (act : BitVec 32) (g : Nat → BitVec 32) :
    Queues s (t.writeL w uid lat d act g) x srcs (some d) (laneEntry act g) := by
  obtain ⟨w0, w1⟩ := State.writeL_blocks (t := t) (w := w) uid lat d act g
  rw [h.block] at w0 w1
  refine ⟨fun hn => w0 (h.queues.absent hn), fun b hk => ?_⟩
  obtain ⟨b', h2, h3, h4⟩ := h.queues.present b hk
  obtain ⟨b'', h5, h6, h7⟩ := w1 b' h2
  have hbinds : b'.binds = b.binds := by have := congrArg Block.binds h3; exact this
  refine ⟨b'', h5, (congrArg (fun j => ({ j with fifos := b.fifos } : Block)) h6).trans h3, fun q => ?_⟩
  rw [h7, h4, hbinds, List.append_nil]

/-! ### The results of a conversion, the LFSR apart -/

theorem State.wave_withLfsr (t : State) (w : Nat) (v : BitVec 64) : (t.withLfsr w v).wave w = { t.wave w with lfsr := v } :=
  State.wave_modWave_same ..

theorem laneEntry_congr {act : BitVec 32} {g g' : Nat → BitVec 32} (hg : ∀ l < 32, act.getLsbD l = true → g l = g' l) :
    laneEntry act g = laneEntry act g' :=
  List.map_congr_left fun l hl => by
    split
    · exact hg l (List.mem_range.1 hl) ‹_›
    · rfl

theorem WritesV.congr {y : Wave} {d : Reg} {act : BitVec 32} {g g' : Nat → BitVec 32} (h : WritesV x y d act g)
    (hg : ∀ l < 32, act.getLsbD l = true → g l = g' l) : WritesV x y d act g' := fun k => by
  rw [h k]
  refine ite_congr rfl (fun hk => ?_) fun _ => rfl
  exact hg _ (Nat.mod_lt _ (by decide)) hk.2.2

theorem WritesV64.congr {y : Wave} {d : Reg} {act : BitVec 32} {g g' : Nat → BitVec 64} (h : WritesV64 x y d act g)
    (hg : ∀ l < 32, act.getLsbD l = true → g l = g' l) : WritesV64 x y d act g' := fun k => by
  have hlane (ha : act.getLsbD (k % 32) = true) : g (k % 32) = g' (k % 32) := hg _ (Nat.mod_lt _ (by decide)) ha
  rw [h k]
  refine ite_congr rfl (fun hk => by rw [hlane hk.2.2]) fun _ => ite_congr rfl (fun hk => by rw [hlane hk.2.2.2]) fun _ => rfl

/-- A 32-bit result whose values on the active lanes are `g'`, the LFSR put back. -/
theorem Staged.resultL (h : Staged s t w pcb x f lat lf srcs) (uid : Nat) (d : Reg) {act : BitVec 32} {g g' : Nat → BitVec 32}
    (hg : ∀ l < 32, act.getLsbD l = true → g l = g' l) {u : State} (hu : u = (t.writeL w uid lat d act g).advance w pcb)
    (hw : kget s.waves w = some x) :
    Fixed s u w pcb x f lat ∧ (u.wave w).lfsr = lf ∧ ResultL s (u.withLfsr w x.lfsr) w x d act g' srcs := by
  subst hu
  obtain ⟨hv, hs, hp, hl⟩ := State.writeL_wave (t := t) (w := w) uid lat d act g
  obtain ⟨as, av, ap, al⟩ := State.advance_regs (t.writeL w uid lat d act g) w pcb
  refine ⟨Fixed.of hw (h.effect.trans (State.writeL_effect h.effect.present uid lat d act g)), al.trans (hl.trans h.lfsr), ?_⟩
  have hq : Queues s (t.writeL w uid lat d act g) x srcs (some d) (laneEntry act g') :=
    laneEntry_congr hg ▸ h.queues_writeL uid d act g
  refine ⟨?_, ?_, ?_, ?_, hq.congr rfl⟩ <;> rw [State.wave_withLfsr]
  · intro k
    rw [← h.vRegs, ← hv.congr hg k, ← av]
  · exact as.trans (hs.trans h.sRegs)
  · exact ap.trans (hp.trans h.preds)

/-- A 64-bit result whose values on the active lanes are `g'`, the LFSR put back. -/
theorem Staged.resultL64 (h : Staged s t w pcb x f lat lf srcs) (uid : Nat) (d : Reg) {act : BitVec 32} {g g' : Nat → BitVec 64}
    (hg : ∀ l < 32, act.getLsbD l = true → g l = g' l) {u : State} (hu : u = (t.writeL64 w uid lat d act g).advance w pcb)
    (hw : kget s.waves w = some x) :
    Fixed s u w pcb x f lat ∧ (u.wave w).lfsr = lf ∧ ResultL64 s (u.withLfsr w x.lfsr) w x d act g' srcs := by
  subst hu
  obtain ⟨hv, hs, hp, hl⟩ := State.writeL64_wave (t := t) (w := w) uid lat d act g
  obtain ⟨as, av, ap, al⟩ := State.advance_regs (t.writeL64 w uid lat d act g) w pcb
  refine ⟨Fixed.of hw (h.effect.trans (State.writeL64_effect h.effect.present uid lat d act g)), al.trans (hl.trans h.lfsr), ?_⟩
  have hq : Queues s (t.writeL64 w uid lat d act g) x srcs none [] := h.queues.congr (State.writeL64_blocks ..)
  refine ⟨?_, ?_, ?_, ?_, hq.congr rfl⟩ <;> rw [State.wave_withLfsr]
  · intro k
    rw [← h.vRegs, ← hv.congr hg k, ← av]
  · exact as.trans (hs.trans h.sRegs)
  · exact ap.trans (hp.trans h.preds)
end

/-! ### CVT (R91) -/

/-- A conversion of `per` elements in each active lane, once it has made its draws. -/
theorem staged_draws {s : State} {w : Nat} {x : Wave} (hw : kget s.waves w = some x) (pcb : Bool) (f : Sched) (lat : Nat) (rm : BitVec 3)
    (act : BitVec 32) (per : Nat) : Staged s ((s.beginIssue w pcb f (some lat)).drawn w s.uid rm (drawsFor x.lfsr act per).2) w pcb x f lat
      (if rm = 4 then lfsrAfter (24 * (countLanes act * per)) x.lfsr else x.lfsr) [] :=
  drawsFor_lfsr x.lfsr act per ▸ (Staged.of_issue hw pcb f lat).drawn s.uid rm _

/-- Settles O12: the active lanes in ascending order take the draws, whatever branch of the conversion uses them. -/
theorem convertResult : Obligations.ConvertResult := by
  intro s w pcb x f df sf rm sat ei d a h ha act src out
  have hlfsr := State.atIssue_lfsr h.wave f
  have hstaged := (staged_draws h.wave pcb f 8 rm act 1).popPorts (State.atIssue_block h.wave f) [a]
  rw [Nat.mul_one] at hstaged
  have hout : ∀ l < 32, act.getLsbD l = true → convertCode df.toNat sf.toNat rm.toNat sat (drawIf rm ((drawsFor x.lfsr act 1).1 l 0))
      ((s.atIssue w f).cvtSource ((s.atIssue w f).wave w) sf ei a l) = out l := by
    intro l hl hact
    rw [drawsFor_draw hl hact Nat.one_pos, Nat.mul_one, Nat.add_zero]
    rfl
  rw [exec_cvt, execCvt, fixed_active h ha, hlfsr]
  by_cases hdf : fmtWidth df.toNat = 64
  · obtain ⟨hfixed, hl, hres⟩ := hstaged.resultL64 s.uid d (g' := fun l => BitVec.ofNat 64 (out l))
      (fun l hl hact => congrArg (BitVec.ofNat 64) (hout l hl hact)) rfl h.wave
    rw [if_pos hdf]
    exact ⟨_, rfl, hfixed, hl, fun hn => absurd hdf hn, fun _ => hres⟩
  · obtain ⟨hfixed, hl, hres⟩ := hstaged.resultL s.uid d (g' := fun l => BitVec.ofNat 32 (out l))
      (fun l hl hact => congrArg (BitVec.ofNat 32) (hout l hl hact)) rfl h.wave
    rw [if_neg hdf]
    exact ⟨_, rfl, hfixed, hl, fun _ => hres, fun hn => absurd hn hdf⟩

/-! ### VPACK (R92) -/

/-- Settles O13: lane by lane and value by value the draws are those of the list, and the fields of a word add up. -/
theorem packResult : Obligations.PackResult := by
  intro s w pcb x f df rm sat d a h ha act n code
  have hlfsr := State.atIssue_lfsr h.wave f
  have hstaged := staged_draws h.wave pcb f 8 rm act n
  have hword : ∀ l < 32, act.getLsbD l = true → (s.atIssue w f).packedLane ((s.atIssue w f).wave w) df rm sat a (drawsFor x.lfsr act n).1 l =
      BitVec.ofNat 32 (((List.range n).map fun i => code i l * 2 ^ (fmtWidth df.toNat * i)).sum) := by
    intro l hl hact
    unfold State.packedLane
    dsimp only
    rw [← List.foldl_map (g := (· + ·)), ← List.sum_eq_foldl]
    refine congrArg (fun xs : List Nat => BitVec.ofNat 32 xs.sum) (List.map_congr_left fun i hi => ?_)
    rw [drawsFor_draw hl hact (List.mem_range.1 hi)]
    rfl
  obtain ⟨hfixed, hl, hres⟩ := hstaged.resultL s.uid d hword rfl h.wave
  rw [exec_vpack, execVpack, fixed_active h ha, hlfsr]
  exact ⟨_, rfl, hfixed, hl, hres⟩

/-! ### SEED (R95) -/

theorem seedWith_spec {s : State} {w : Nat} {pcb : Bool} {x : Wave} {f : Sched} (h : Turn s w pcb x) (ha : activeAt s w pcb f ≠ 0) (d : Reg)
    (val : State → Wave → BitVec 64) :
    let v := val (s.atIssue w f) ((s.atIssue w f).wave w)
    ∃ u, seedWith s f d val = .next u ∧ Fixed s u w pcb x f 8 ∧ (u.wave w).lfsr = (if v = 0 then 1 else v) ∧
      ResultU s (u.withLfsr w x.lfsr) w x d x.lfsr [] := by
  intro v
  have hstaged := Staged.of_issue h.wave pcb f 8
  rw [seedWith, fixed_active h ha, State.atIssue_lfsr h.wave]
  generalize s.beginIssue w pcb f (some 8) = t at hstaged ⊢
  have hwrite := State.writeU_effect hstaged.effect.present s.uid 8 d x.lfsr
  obtain ⟨hs, hv, hp, -, hb⟩ := State.writeU_wave (t := t) (w := w) s.uid 8 d x.lfsr
  generalize t.writeU w s.uid 8 d x.lfsr = u at hwrite hs hv hp hb ⊢
  obtain ⟨ls, lv, lp, ll⟩ := u.setLfsr_regs w s.uid (if v = 0 then 1 else v)
  obtain ⟨as, av, ap, al⟩ := State.advance_regs (u.setLfsr w s.uid (if v = 0 then 1 else v)) w pcb
  refine ⟨_, rfl, Fixed.of h.wave (hstaged.effect.trans (hwrite.trans (u.setLfsr_effect w s.uid _))), al.trans ll, ?_⟩
  have hq : Queues s u x [] none [] := hstaged.queues.congr hb
  refine ⟨?_, ?_, ?_, ?_, hq.congr rfl⟩ <;> rw [State.wave_withLfsr]
  · intro n
    rw [← hstaged.sRegs, ← hs n, ← ls, ← as]
  · exact av.trans (lv.trans (hv.trans hstaged.vRegs))
  · exact ap.trans (lp.trans (hp.trans hstaged.preds))

/-- Settles O14: the old LFSR is written to D, then the new one takes its place. -/
theorem seedResult : Obligations.SeedResult := by
  intro s w pcb x f d a imm h ha
  simp only [List.forall_mem_cons, List.not_mem_nil, false_imp_iff, implies_true, and_true]
  exact ⟨seedWith_spec h ha d (fun r x => r.readU x a), seedWith_spec h ha d fun _ _ => imm.setWidth 64⟩
end Sys2Proof.Machine
end

section
/-! PROOF. Conversions of blocks and groups of registers: VPACK.MX8, VPACK.MX4 and VUNPACK (R93, R94). -/
namespace Sys2Proof.Machine
open Sys2Proof

/-! ### Blocks (R93) -/

/-- A block of values uses one draw for each of them. -/
theorem packBlock_congr (mx8 : Bool) (tag rm : Nat) (xs : List Val) {draw draw' : Nat → Nat} (hd : ∀ m < xs.length, draw m = draw' m) :
    packBlock mx8 tag rm xs draw = packBlock mx8 tag rm xs draw' := by
  have hmap (g : Val → Nat → Nat) : (xs.zipIdx.map fun e => g e.1 (draw e.2)) = xs.zipIdx.map fun e => g e.1 (draw' e.2) :=
    List.map_congr_left fun e he => by rw [hd _ (List.snd_lt_of_mem_zipIdx he)]
  unfold packBlock
  cases tagFormat mx8 tag with
  | none => rfl
  | some e => dsimp only; rw [hmap fun v n => convertVal e.1 rm true n (v.scale (127 - (blockScale e.1 xs : Int) - e.2))]

/-- The blocks of a segment, with the draws as their numbers in the sequence. -/
theorem mxBlocks_atIssue {s : State} {w : Nat} {x : Wave} (hw : kget s.waves w = some x) (f : Sched) (mx4 : Bool) (rm : BitVec 3) (a c : Reg) :
    (s.atIssue w f).mxBlocks ((s.atIssue w f).wave w) mx4 rm a c = (List.range (mxCount mx4)).map fun j =>
      packBlock (!mx4) ((readAt s w f c).toNat / 4 ^ j % 4) rm.toNat
        ((List.range 32).map fun m => fmtVal 0 (laneAt s w f [] (a + BitVec.ofNat 8 j) m).toNat)
        (fun m => if rm = 4 then drawAt x.lfsr (32 * j + m) else 0) := by
  refine List.map_congr_left fun j hj => packBlock_congr _ _ _ _ fun m hm => ?_
  rw [List.length_map, List.length_range] at hm
  have hbound : 32 * j + m < 32 * mxCount mx4 := by rw [List.mem_range] at hj; omega
  rw [State.atIssue_lfsr hw, getD_drawMany hbound]
  rfl

/-- R93: the scales and the tags, written to a pair of S registers or discarded. -/
def State.writePair (t : State) (w uid lat : Nat) (b : Reg) (lo hi : BitVec 64) : State :=
  if isS b then (t.writeU w uid lat b lo).writeU w uid lat (b + 1) hi else t

theorem execVpackMx8_eq {s : State} {w : Nat} {pcb : Bool} {x : Wave} {f : Sched} (h : Turn s w pcb x) (ha : activeAt s w pcb f ≠ 0)
    (mx4 : Bool) (rm : BitVec 3) (d a b c : Reg) :
    let blocks := (s.atIssue w f).mxBlocks ((s.atIssue w f).wave w) mx4 rm a c
    execVpackMx8 f mx4 rm d a b c s = .next
      (((((s.beginIssue w pcb f (some 8)).drawn w s.uid rm (lfsrAfter (24 * (32 * mxCount mx4)) x.lfsr)).writeL w s.uid 8 d 0xFFFFFFFF
        (mxLane mx4 blocks)).writePair w s.uid 8 b (mxScales blocks)
          (BitVec.ofNat 64 ((readAt s w f c).toNat % 4 ^ mxCount mx4))).advance w pcb) := by
  rw [execVpackMx8, fixed_active h ha, State.atIssue_lfsr h.wave, drawMany_lfsr]
  rfl

theorem State.writePair_effect {t : State} {w : Nat} {y : Wave} (h : kget t.waves w = some y) (uid lat : Nat) (b : Reg) (lo hi : BitVec 64) :
    Effect t (t.writePair w uid lat b lo hi) w := by
  unfold State.writePair
  split
  · have hlo := State.writeU_effect h uid lat b lo
    exact hlo.trans (State.writeU_effect hlo.present uid lat (b + 1) hi)
  · exact Effect.refl h

theorem State.writePair_wave (t : State) (w uid lat : Nat) (b : Reg) (lo hi : BitVec 64) :
    (∀ k, dget 0 ((t.writePair w uid lat b lo hi).wave w).s k = if isS b = true ∧ isS (b + 1) = true ∧ k = (b + 1).toNat then hi
      else if isS b = true ∧ k = b.toNat then lo else dget 0 (t.wave w).s k) ∧
    ((t.writePair w uid lat b lo hi).wave w).v = (t.wave w).v ∧ ((t.writePair w uid lat b lo hi).wave w).p = (t.wave w).p ∧
    ((t.writePair w uid lat b lo hi).wave w).lfsr = (t.wave w).lfsr ∧ (t.writePair w uid lat b lo hi).blocks = t.blocks := by
  unfold State.writePair
  by_cases hb : isS b = true
  · rw [if_pos hb]
    obtain ⟨ls, lv, lp, ll, lb⟩ := State.writeU_wave (t := t) (w := w) uid lat b lo
    obtain ⟨hs, hv, hp, hl, hbl⟩ := State.writeU_wave (t := t.writeU w uid lat b lo) (w := w) uid lat (b + 1) hi
    refine ⟨fun k => ?_, hv.trans lv, hp.trans lp, hl.trans ll, hbl.trans lb⟩
    rw [hs k, ls k]
    simp only [hb, true_and]
  · rw [if_neg hb]
    refine ⟨fun k => ?_, rfl, rfl, rfl, rfl⟩
    rw [if_neg fun hk => hb hk.1, if_neg fun hk => hb hk.1]

/-- A per-lane result, and then a pair of S registers. -/
theorem Staged.resultPair {s t u : State} {w : Nat} {pcb : Bool} {x : Wave} {f : Sched} {lat : Nat} {lf : BitVec 64} {srcs : List Reg}
    (h : Staged s t w pcb x f lat lf srcs) (hw : kget s.waves w = some x) (uid : Nat) (d b : Reg) (act : BitVec 32) (g : Nat → BitVec 32)
    (lo hi : BitVec 64) (hu : u = ((t.writeL w uid lat d act g).writePair w uid lat b lo hi).advance w pcb) :
    Fixed s u w pcb x f lat ∧ WritesV x (u.wave w) d act g ∧ Queues s u x srcs (some d) (laneEntry act g) ∧
      (∀ k, dget 0 (u.wave w).s k = if isS b = true ∧ isS (b + 1) = true ∧ k = (b + 1).toNat then hi
        else if isS b = true ∧ k = b.toNat then lo else dget 0 x.s k) ∧ (u.wave w).p = x.p ∧ (u.wave w).lfsr = lf := by
  subst hu
  have hlanes := State.writeL_effect h.effect.present uid lat d act g
  have hpair := State.writePair_effect hlanes.present uid lat b lo hi
  obtain ⟨lv, ls, lp, ll⟩ := State.writeL_wave (t := t) (w := w) uid lat d act g
  obtain ⟨ps, pv, pp, pl, pb⟩ := (t.writeL w uid lat d act g).writePair_wave w uid lat b lo hi
  obtain ⟨as, av, ap, al⟩ := State.advance_regs ((t.writeL w uid lat d act g).writePair w uid lat b lo hi) w pcb
  refine ⟨Fixed.of hw (h.effect.trans (hlanes.trans hpair)), fun k => ?_, (h.queues_writeL uid d act g).congr pb, fun k => ?_,
    ap.trans (pp.trans (lp.trans h.preds)), al.trans (pl.trans (ll.trans h.lfsr))⟩
  · rw [av, pv, lv k, h.vRegs]
  · rw [as, ps k, ls, h.sRegs]

/-- Settles O15: each block uses the 32 draws of its number; the lanes of D, then the pair of B, are written. -/
theorem packBlocksResult : Obligations.PackBlocksResult := by
  intro s w pcb x f mx4 rm d a b c h ha n tags blocks
  have hblocks : (s.atIssue w f).mxBlocks ((s.atIssue w f).wave w) mx4 rm a c = blocks := mxBlocks_atIssue h.wave f mx4 rm a c
  have hstaged := (Staged.of_issue h.wave pcb f 8).drawn s.uid rm (lfsrAfter (24 * (32 * n)) x.lfsr)
  exact ⟨_, hblocks ▸ execVpackMx8_eq h ha mx4 rm d a b c, hstaged.resultPair h.wave s.uid d b _ _ _ _ rfl⟩

/-! ### Groups of registers (R94) -/

/-- A per-lane result in each of `n` registers from D. -/
def State.writeGroup (t : State) (w uid lat : Nat) (d : Reg) (act : BitVec 32) (g : Nat → Nat → BitVec 32) (n : Nat) : State :=
  (List.range n).foldl (fun u i => u.writeL w uid lat (d + BitVec.ofNat 8 i) act (g i)) t

theorem State.writeGroup_succ (t : State) (w uid lat : Nat) (d : Reg) (act : BitVec 32) (g : Nat → Nat → BitVec 32) (n : Nat) :
    t.writeGroup w uid lat d act g (n + 1) = (t.writeGroup w uid lat d act g n).writeL w uid lat (d + BitVec.ofNat 8 n) act (g n) := by
  rw [writeGroup, List.range_succ, List.foldl_append]
  rfl

theorem State.writeL_blocks_of_isV {t : State} {w : Nat} {d : Reg} (hd : isV d = true) (uid lat : Nat) (act : BitVec 32) (g : Nat → BitVec 32) :
    (t.writeL w uid lat d act g).blocks = t.blocks := by
  rw [State.writeL, if_pos hd, State.modWave_blocks]

theorem execVunpack_eq {s : State} {w : Nat} {pcb : Bool} {x : Wave} {f : Sched} (h : Turn s w pcb x) (ha : activeAt s w pcb f ≠ 0)
    (df sf : BitVec 5) (rm : BitVec 3) (d a b : Reg) : execVunpack f df sf rm d a b s = .next
      ((((s.beginIssue w pcb f (some 8)).popPorts ((s.atIssue w f).wave w) [a]).writeGroup w s.uid 8 d (activeAt s w pcb f)
        ((s.atIssue w f).unpackLane ((s.atIssue w f).wave w) df sf rm a b) (vunpackN sf)).advance w pcb) :=
  fixed_active h ha _ _

theorem State.writeGroup_effect {t : State} {w : Nat} {y : Wave} (h : kget t.waves w = some y) (uid lat : Nat) (d : Reg) (act : BitVec 32)
    (g : Nat → Nat → BitVec 32) (n : Nat) : Effect t (t.writeGroup w uid lat d act g n) w := by
  induction n with
  | zero => exact Effect.refl h
  | succ n ih =>
    rw [State.writeGroup_succ]
    exact ih.trans (State.writeL_effect ih.present ..)

/-- A group of V registers is written lane by lane, and no other register and no queue. -/
theorem State.writeGroup_wave (t : State) (w uid lat : Nat) {d : Reg} (act : BitVec 32) (g : Nat → Nat → BitVec 32) (n : Nat)
    (hd : d.toNat + n ≤ 192) :
    (∀ k, dget 0 ((t.writeGroup w uid lat d act g n).wave w).v k =
      if d.toNat ≤ k / 32 ∧ k / 32 < d.toNat + n ∧ act.getLsbD (k % 32) = true then g (k / 32 - d.toNat) (k % 32)
      else dget 0 (t.wave w).v k) ∧
    ((t.writeGroup w uid lat d act g n).wave w).s = (t.wave w).s ∧ ((t.writeGroup w uid lat d act g n).wave w).p = (t.wave w).p ∧
    ((t.writeGroup w uid lat d act g n).wave w).lfsr = (t.wave w).lfsr ∧ (t.writeGroup w uid lat d act g n).blocks = t.blocks := by
  induction n with
  | zero =>
    refine ⟨fun k => ?_, rfl, rfl, rfl, rfl⟩
    rw [if_neg fun hk => by omega]
    rfl
  | succ n ih =>
    obtain ⟨iv, is, ip, il, ib⟩ := ih (by omega)
    have hreg : (d + BitVec.ofNat 8 n).toNat = d.toNat + n := by
      rw [BitVec.toNat_add, BitVec.toNat_ofNat]; omega
    have hisV : isV (d + BitVec.ofNat 8 n) = true := by rw [isV, hreg]; exact decide_eq_true (by omega)
    rw [State.writeGroup_succ]
    obtain ⟨lv, ls, lp, ll⟩ := State.writeL_wave (t := t.writeGroup w uid lat d act g n) (w := w) uid lat (d + BitVec.ofNat 8 n) act (g n)
    refine ⟨fun k => ?_, ls.trans is, lp.trans ip, ll.trans il, (State.writeL_blocks_of_isV hisV ..).trans ib⟩
    rw [lv k, iv k, hreg]
    by_cases hact : act.getLsbD (k % 32) = true
    · by_cases hk : k / 32 = d.toNat + n
      · rw [if_pos ⟨hisV, hk, hact⟩, if_pos ⟨by omega, by omega, hact⟩, hk, Nat.add_sub_cancel_left]
      · rw [if_neg fun hn => hk hn.2.1]
        simp only [hact, and_true]
        exact if_congr (by omega) rfl rfl
    · rw [if_neg fun hn => hact hn.2.2, if_neg fun hn => hact hn.2.2, if_neg fun hn => hact hn.2.2]

/-- Settles O16: the group is written register by register, each from the registers as they were at the issue. -/
theorem unpackResult : Obligations.UnpackResult := by
  intro s w pcb x f df sf rm d a b h ha hd wd elem tag code val
  have hstaged := (Staged.of_issue h.wave pcb f 8).popPorts (State.atIssue_block h.wave f) [a]
  have hval (i l : Nat) : (s.atIssue w f).unpackLane ((s.atIssue w f).wave w) df sf rm a b i l = BitVec.ofNat 32 (val i l) := rfl
  refine ⟨_, execVunpack_eq h ha df sf rm d a b, ?_⟩
  generalize (s.beginIssue w pcb f (some 8)).popPorts ((s.atIssue w f).wave w) [a] = t at hstaged ⊢
  generalize (s.atIssue w f).unpackLane ((s.atIssue w f).wave w) df sf rm a b = g at hval ⊢
  have hgroup := State.writeGroup_effect hstaged.effect.present s.uid 8 d (activeAt s w pcb f) g (vunpackN sf)
  obtain ⟨gv, gs, gp, gl, gb⟩ := t.writeGroup_wave w s.uid 8 (activeAt s w pcb f) g (vunpackN sf) hd
  obtain ⟨as, av, ap, al⟩ := State.advance_regs (t.writeGroup w s.uid 8 d (activeAt s w pcb f) g (vunpackN sf)) w pcb
  refine ⟨Fixed.of h.wave (hstaged.effect.trans hgroup), fun k => ?_, as.trans (gs.trans hstaged.sRegs),
    ap.trans (gp.trans hstaged.preds), al.trans (gl.trans hstaged.lfsr), hstaged.queues.congr gb⟩
  rw [av, gv k, hval, hstaged.vRegs]
end Sys2Proof.Machine
end

section
/-! PROOF. The transcendentals: the exact cases and the special inputs of Table 4.3 (R86, R87). -/
namespace Sys2Proof.Machine
open Sys2Proof

/-! ### The F32 value of a code (R40) -/

theorem namedFit_f32 : f32.NamedFit := ⟨by decide, by rintro _ ⟨⟩; decide, by rintro _ ⟨⟩; decide⟩

/-- The fields of an F32 code put together from a sign and a magnitude code. -/
theorem floatVal_withSign (neg : Bool) {c : Nat} (h : c < 2 ^ 31) : floatVal f32 (f32.withSign neg c) =
    if 0x7F7FFFFF < c then (if c = 0x7F800000 then .inf neg else .nan)
    else if c / 2 ^ 23 = 0 then .fin neg (c % 2 ^ 23) (-149)
    else .fin neg (2 ^ 23 + c % 2 ^ 23) ((c / 2 ^ 23 : Nat) - 150) := by
  have hcode : f32.withSign neg c = neg.toNat * 2 ^ 31 + c := by cases neg <;> simp [FloatFmt.withSign, f32]
  have hneg := neg.toNat_le
  have hmag : (neg.toNat * 2 ^ 31 + c) % 2 ^ (23 + 8) = c := by omega
  have hexp : (neg.toNat * 2 ^ 31 + c) / 2 ^ 23 % 2 ^ 8 = c / 2 ^ 23 := by omega
  have hfrac : (neg.toNat * 2 ^ 31 + c) % 2 ^ 23 = c % 2 ^ 23 := by omega
  have hsign : ((neg.toNat * 2 ^ 31 + c) / 2 ^ (23 + 8) % 2 == 1) = neg := by
    rw [show (neg.toNat * 2 ^ 31 + c) / 2 ^ (23 + 8) % 2 = neg.toNat by omega]; cases neg <;> rfl
  rw [hcode]
  unfold floatVal
  simp only [f32, hmag, hexp, hfrac, hsign]
  refine if_congr Iff.rfl (if_congr (by rw [beq_iff_eq, Option.some_inj]; exact eq_comm) rfl rfl) (if_congr Iff.rfl rfl ?_)
  rw [Int.sub_sub]
  rfl

theorem floatVal_infinity (neg : Bool) : floatVal f32 (f32.withSign neg 0x7F800000) = .inf neg := by
  rw [floatVal_withSign neg (by decide), if_pos (by decide), if_pos rfl]

theorem floatVal_subnormal (neg : Bool) {c : Nat} (h : c < 2 ^ 23) : floatVal f32 (f32.withSign neg c) = .fin neg c (-149) := by
  rw [floatVal_withSign neg (by omega), if_neg (by omega), if_pos (by omega), Nat.mod_eq_of_lt h]

theorem floatVal_normal (neg : Bool) {c : Nat} (hlo : 2 ^ 23 ≤ c) (hhi : c ≤ 0x7F7FFFFF) :
    floatVal f32 (f32.withSign neg c) = .fin neg (2 ^ 23 + c % 2 ^ 23) ((c / 2 ^ 23 : Nat) - 150) := by
  rw [floatVal_withSign neg (by omega), if_neg (by omega), if_neg (by omega)]

/-- A magnitude code above that of zero and below that of the infinity stands for a non-zero number. -/
theorem floatVal_number (neg : Bool) {c : Nat} (hlo : 0 < c) (hhi : c ≤ 0x7F7FFFFF) :
    ∃ mag exp, mag ≠ 0 ∧ floatVal f32 (f32.withSign neg c) = .fin neg mag exp := by
  by_cases h : c < 2 ^ 23
  · exact ⟨_, _, hlo.ne', floatVal_subnormal neg h⟩
  · exact ⟨_, _, by omega, floatVal_normal neg (by omega) hhi⟩

theorem toNat_or_sign {x : BitVec 32} (h : x.toNat < 2 ^ 31) : (x ||| 0x80000000).toNat = 2 ^ 31 + x.toNat := by
  rw [BitVec.toNat_or, Nat.or_comm]
  exact (Nat.two_pow_add_eq_or_of_lt h 1).symm

/-! ### Codes of exact values -/

theorem roundsAway_exact (mode : Nat) (neg : Bool) (sig : Nat) : roundsAway mode neg sig 0 0 = false := by
  unfold roundsAway
  split <;> simp

/-- The significand of a non-zero number of at most 24 bits, moved up to have 24. -/
theorem significand_bounds {mag : Nat} (hmag : mag ≠ 0) (hbits : Nat.log2 mag ≤ 23) :
    2 ^ 23 ≤ mag * 2 ^ (23 - Nat.log2 mag) ∧ mag * 2 ^ (23 - Nat.log2 mag) < 2 ^ 24 := by
  have hpos : 0 < 2 ^ (23 - Nat.log2 mag) := Nat.two_pow_pos _
  constructor
  · calc 2 ^ 23 = 2 ^ Nat.log2 mag * 2 ^ (23 - Nat.log2 mag) := by rw [← pow_add]; congr 1; omega
      _ ≤ mag * 2 ^ (23 - Nat.log2 mag) := Nat.mul_le_mul_right _ (Nat.log2_self_le hmag)
  · calc mag * 2 ^ (23 - Nat.log2 mag) < 2 ^ (Nat.log2 mag + 1) * 2 ^ (23 - Nat.log2 mag) := Nat.mul_lt_mul_of_pos_right Nat.lt_log2_self hpos
      _ = 2 ^ 24 := by rw [← pow_add]; congr 1; omega

/-- The magnitude code of a number of at most 24 bits in the normal range. -/
def normalCode (mag : Nat) (exp : Int) : Nat := (Nat.log2 mag + exp + 126).toNat * 2 ^ 23 + mag * 2 ^ (23 - Nat.log2 mag)

section
variable {mag : Nat} {exp : Int} (hmag : mag ≠ 0) (hbits : Nat.log2 mag ≤ 23) (hlo : -126 ≤ Nat.log2 mag + exp)
include hbits hlo

theorem truncMag_normal : truncMag f32 mag exp = (normalCode mag exp, 0, 0) := by
  have hq : max (-149) ((Nat.log2 mag : Int) + exp - 23) = Nat.log2 mag + exp - 23 := by omega
  have hstep : (Nat.log2 mag + exp - 23 - -149).toNat = (Nat.log2 mag + exp + 126).toNat := by omega
  have hshift : (exp - (Nat.log2 mag + exp - 23)).toNat = 23 - Nat.log2 mag := by omega
  unfold truncMag
  dsimp only [f32]
  norm_num only
  rw [hq, if_pos (by omega), hstep, hshift]
  rfl

include hmag
variable (hhi : Nat.log2 mag + exp ≤ 127)
include hhi

theorem normalCode_bounds : 2 ^ 23 ≤ normalCode mag exp ∧ normalCode mag exp ≤ 0x7F7FFFFF := by
  have h := significand_bounds hmag hbits
  unfold normalCode
  omega

theorem roundFloat_normal (mode : Nat) (neg : Bool) :
    roundFloat f32 mode false (.fin neg mag exp) = f32.withSign neg (normalCode mag exp) := by
  have hmax : ¬ f32.maxCode < normalCode mag exp := not_lt.2 (normalCode_bounds hmag hbits hlo hhi).2
  rw [roundFloat, if_neg hmag, truncMag_normal hbits hlo]
  simp only [roundsAway_exact, Bool.false_eq_true, if_false, if_neg hmax]

/-- A number in range of at most 24 bits reads back with its significand moved up. -/
theorem floatVal_roundFloat_normal (mode : Nat) (neg : Bool) : floatVal f32 (roundFloat f32 mode false (.fin neg mag exp)) =
    .fin neg (mag * 2 ^ (23 - Nat.log2 mag)) (Nat.log2 mag + exp - 23) := by
  obtain ⟨hcl, hch⟩ := normalCode_bounds hmag hbits hlo hhi
  obtain ⟨hsl, hsh⟩ := significand_bounds hmag hbits
  rw [roundFloat_normal hmag hbits hlo hhi, floatVal_normal neg hcl hch]
  unfold normalCode at *
  congr 1 <;> omega
end

theorem toNat_roundFloat (mode : Nat) (sat : Bool) (v : Val) : (BitVec.ofNat 32 (roundFloat f32 mode sat v)).toNat = roundFloat f32 mode sat v :=
  (BitVec.toNat_ofNat ..).trans (Nat.mod_eq_of_lt (namedFit_f32.roundFloat_lt mode sat v))

/-- Rounding to nearest treats both signs alike. -/
theorem roundFloat_nearest_neg (mag : Nat) (exp : Int) :
    roundFloat f32 0 false (.fin true mag exp) = 2 ^ 31 + roundFloat f32 0 false (.fin false mag exp) := by
  have haway (c rem k : Nat) : roundsAway 0 true c rem k = roundsAway 0 false c rem k := rfl
  have hover : f32.overflow 0 false true = 2 ^ 31 + f32.overflow 0 false false := rfl
  have hsign (c : Nat) : f32.withSign true c = 2 ^ 31 + f32.withSign false c := rfl
  unfold roundFloat
  simp only [haway, hover, hsign]
  split_ifs <;> rfl

/-- The code of −2^k. -/
theorem ofNat_neg_pow (k : Int) : BitVec.ofNat 32 (roundFloat f32 0 false (.fin true 1 k)) = codeOfPow k ||| 0x80000000 := by
  have hneg := namedFit_f32.roundFloat_lt 0 false (.fin true 1 k)
  have hpos := toNat_roundFloat 0 false (.fin false 1 k)
  have hsum := roundFloat_nearest_neg 1 k
  rw [show f32.width = 32 from rfl] at hneg
  apply BitVec.eq_of_toNat_eq
  rw [toNat_roundFloat, codeOfPow, toNat_or_sign (by omega), hpos, hsum]

/-! ### Powers of two -/

theorem powerOfTwo_two_pow (n : Nat) (exp : Int) : powerOfTwo (2 ^ n) exp = some (n + exp) := by
  rw [powerOfTwo, Nat.log2_two_pow, if_pos ⟨(Nat.two_pow_pos n).ne', rfl⟩]

theorem powerOfTwo_eq_some {mag : Nat} {exp k : Int} (h : powerOfTwo mag exp = some k) : mag ≠ 0 ∧ Nat.log2 mag + exp = k := by
  unfold powerOfTwo at h
  split at h
  · next hp => exact ⟨hp.1, Option.some.inj h⟩
  · cases h

/-- A representable power of two reads back as one. -/
theorem floatVal_pow (neg : Bool) {k : Int} (hlo : -149 ≤ k) (hhi : k ≤ 127) : ∃ mag exp,
    floatVal f32 (roundFloat f32 0 false (.fin neg 1 k)) = .fin neg mag exp ∧ powerOfTwo mag exp = some k := by
  have hlog : Nat.log2 1 = 0 := by decide
  by_cases hk : -126 ≤ k
  · refine ⟨_, _, floatVal_roundFloat_normal Nat.one_ne_zero (by omega) (by omega) (by omega) 0 neg, ?_⟩
    rw [hlog, Nat.one_mul, powerOfTwo_two_pow]
    congr 1; omega
  · have hq : max (-149) (k - 23) = -149 := by omega
    have htrunc : truncMag f32 1 k = (2 ^ (k + 149).toNat, 0, 0) := by
      unfold truncMag
      dsimp only [f32]
      norm_num only
      simp only [hlog, Nat.cast_zero, zero_add, hq]
      rw [if_pos (by omega)]
      simp
    have hbound : 2 ^ (k + 149).toNat < 2 ^ 23 := Nat.pow_lt_pow_right (by decide) (by omega)
    have hmax : ¬ f32.maxCode < 2 ^ (k + 149).toNat := by simp only [f32]; omega
    refine ⟨2 ^ (k + 149).toNat, -149, ?_, ?_⟩
    · rw [roundFloat, if_neg Nat.one_ne_zero, htrunc]
      simp only [roundsAway_exact, Bool.false_eq_true, if_false, if_neg hmax]
      exact floatVal_subnormal neg hbound
    · rw [powerOfTwo_two_pow]
      congr 1; omega

theorem floatVal_codeOfPow {k : Int} (hlo : -149 ≤ k) (hhi : k ≤ 127) :
    ∃ mag exp, floatVal f32 (codeOfPow k).toNat = .fin false mag exp ∧ powerOfTwo mag exp = some k := by
  rw [codeOfPow, toNat_roundFloat]
  exact floatVal_pow false hlo hhi

end Sys2Proof.Machine
end

section
/-! PROOF. The transcendentals settled: the four functions on the values of their inputs (R86, R87). -/
namespace Sys2Proof.Machine
open Sys2Proof

/-! ### The functions on values -/

section
variable {x : BitVec 32} {neg : Bool} {mag : Nat} {exp k : Int}

/-- The format of code 0 is F32 (Table 2.1). -/
theorem fmtVal_zero {v : Val} (h : floatVal f32 x.toNat = v) : fmtVal 0 x.toNat = v := h

theorem transcendentals_nan (h : floatVal f32 x.toNat = .nan) :
    rcpCode x = 0x7FC00000 ∧ rsqCode x = 0x7FC00000 ∧ exp2Code x = 0x7FC00000 ∧ log2Code x = 0x7FC00000 := by
  simp only [rcpCode, rsqCode, exp2Code, log2Code, fmtVal_zero h, and_self]

theorem roots_negative (h : floatVal f32 x.toNat = .fin true mag exp) (hmag : mag ≠ 0) : rsqCode x = 0x7FC00000 ∧ log2Code x = 0x7FC00000 := by
  simp only [rsqCode, log2Code, fmtVal_zero h, if_neg hmag, if_true, and_self]

theorem roots_negative_infinity (h : floatVal f32 x.toNat = .inf true) : rsqCode x = 0x7FC00000 ∧ log2Code x = 0x7FC00000 := by
  simp only [rsqCode, log2Code, fmtVal_zero h, if_true, and_self]

theorem exp2Code_infinity (h : floatVal f32 x.toNat = .inf neg) : exp2Code x = if neg then 0 else 0x7F800000 := by
  simp only [exp2Code, fmtVal_zero h]

theorem rcpCode_pow (h : floatVal f32 x.toNat = .fin neg mag exp) (hp : powerOfTwo mag exp = some k) (hk : -126 ≤ k) :
    rcpCode x = BitVec.ofNat 32 (f32Pow2 neg (-k)) := by
  obtain ⟨hmag, hlog⟩ := powerOfTwo_eq_some hp
  simp only [rcpCode, fmtVal_zero h, hp]
  rw [if_neg hmag, if_neg (by omega), if_pos hk]

/-- The reciprocal of 2^−128 or less passes the greatest finite value. -/
theorem rcpCode_tiny (h : floatVal f32 x.toNat = .fin neg mag (-149)) (hmag : mag ≠ 0) (hle : mag ≤ 2 ^ 21) :
    rcpCode x = if neg then 0xFF800000 else 0x7F800000 := by
  have hover : (-149 : Int) + Nat.log2 mag < -128 ∨ ((-149 : Int) + Nat.log2 mag = -128 ∧ powerOfTwo mag (-149) = some (-128)) := by
    rcases hle.lt_or_eq with hlt | heq
    · have := (Nat.log2_lt hmag).2 hlt
      omega
    · rw [heq, powerOfTwo_two_pow, Nat.log2_two_pow]
      exact .inr ⟨rfl, rfl⟩
  simp only [rcpCode, fmtVal_zero h]
  rw [if_neg hmag, if_pos hover]

theorem rsqCode_pow (h : floatVal f32 x.toNat = .fin false mag exp) (hp : powerOfTwo mag exp = some (2 * k)) :
    rsqCode x = BitVec.ofNat 32 (f32Pow2 false (-k)) := by
  simp only [rsqCode, fmtVal_zero h, hp, if_neg (powerOfTwo_eq_some hp).1, Bool.false_eq_true, if_false]
  rw [if_pos (Int.mul_emod_right 2 k), Int.mul_ediv_cancel_left k (by decide)]

theorem log2Code_pow (h : floatVal f32 x.toNat = .fin false mag exp) (hp : powerOfTwo mag exp = some k) : log2Code x = codeOfInt k := by
  simp only [log2Code, fmtVal_zero h, hp, if_neg (powerOfTwo_eq_some hp).1, Bool.false_eq_true, if_false]
  rfl

/-! ### Comparing with an integer -/

/-- A number and an integer compare as the integers over their least exponent. -/
theorem cmp_ofInt (neg : Bool) (mag : Nat) (exp i : Int) : Val.cmp (.fin neg mag exp) (Val.ofInt i) =
    compare (if neg then -((mag * 2 ^ exp.toNat : Nat) : Int) else ((mag * 2 ^ exp.toNat : Nat) : Int)) (i * (2 ^ (-exp).toNat : Nat)) := by
  have hleft : (exp - min exp 0).toNat = exp.toNat := by omega
  have hright : (0 - min exp 0).toNat = (-exp).toNat := by omega
  have hint : scaledTo (min exp 0) (decide (i < 0)) i.natAbs 0 = i * (2 ^ (-exp).toNat : Nat) := by
    simp only [scaledTo, hright, decide_eq_true_eq, Nat.cast_mul, Int.natCast_natAbs, ← neg_mul]
    split
    · rw [abs_of_neg ‹_›, neg_neg]
    · rw [abs_of_nonneg (not_lt.1 ‹_›)]
  simp only [Val.cmp, Val.ofInt, hint]
  simp only [scaledTo, hleft]

/-- A normal number of exponent −16 or more is at least `n` if its significand is, over 2^16. -/
theorem le_normal {n : Nat} (hn : n ≤ 256) (hmag : 2 ^ 23 ≤ mag) (hexp : -16 ≤ exp) (hleast : exp = -16 → n * 2 ^ 16 ≤ mag) :
    n * 2 ^ (-exp).toNat ≤ mag * 2 ^ exp.toNat := by
  rcases eq_or_lt_of_le hexp with rfl | hlt
  · simpa using hleast rfl
  · have hpow : 2 ^ (-exp).toNat ≤ 2 ^ 15 := Nat.pow_le_pow_right (by decide) (by omega)
    calc n * 2 ^ (-exp).toNat ≤ 256 * 2 ^ 15 := Nat.mul_le_mul hn hpow
      _ ≤ mag := hmag
      _ ≤ mag * 2 ^ exp.toNat := Nat.le_mul_of_pos_right _ (Nat.two_pow_pos _)

theorem exp2Code_high (h : floatVal f32 x.toNat = .fin false mag exp) (hmag : mag ≠ 0) (hge : 128 * 2 ^ (-exp).toNat ≤ mag * 2 ^ exp.toNat) :
    exp2Code x = 0x7F800000 := by
  have hcmp : Val.cmp (.fin false mag exp) (Val.ofInt 128) ≠ .lt := by
    rw [cmp_ofInt, ne_eq, compare_lt_iff_lt]
    simp only [Bool.false_eq_true, if_false, not_lt]
    exact_mod_cast hge
  simp only [exp2Code, fmtVal_zero h]
  rw [if_neg hmag, if_pos ⟨trivial, hcmp⟩]

theorem exp2Code_low (h : floatVal f32 x.toNat = .fin true mag exp) (hmag : mag ≠ 0) (hge : 150 * 2 ^ (-exp).toNat ≤ mag * 2 ^ exp.toNat) :
    exp2Code x = 0 := by
  have hcmp : Val.cmp (.fin true mag exp) (Val.ofInt (-150)) ≠ .gt := by
    rw [cmp_ofInt, ne_eq, compare_gt_iff_gt]
    simp only [if_true, not_lt, neg_mul, neg_le_neg_iff]
    exact_mod_cast hge
  simp only [exp2Code, fmtVal_zero h]
  rw [if_neg hmag, if_neg (by simp), if_pos ⟨trivial, hcmp⟩]

/-- An integer `±a` within the limits, given as a significand and a shift, is the exponent of the result. -/
theorem exp2Code_int {a n : Nat} (h : floatVal f32 x.toNat = .fin neg (a * 2 ^ n) (-n)) (ha : a ≠ 0) (hn : n ≠ 0)
    (hlimit : a < if neg then 150 else 128) : exp2Code x = codeOfPow (if neg then -(a : Int) else a) := by
  have hpos : 0 < 2 ^ n := Nat.two_pow_pos n
  have hmag : a * 2 ^ n ≠ 0 := (Nat.mul_pos (Nat.pos_of_ne_zero ha) hpos).ne'
  have hhigh : ¬(neg = false ∧ Val.cmp (.fin neg (a * 2 ^ n) (-n)) (Val.ofInt 128) ≠ .lt) := by
    rintro ⟨rfl, hge⟩
    rw [cmp_ofInt, ne_eq, compare_lt_iff_lt, Int.toNat_neg_natCast, neg_neg, Int.toNat_natCast, pow_zero, Nat.mul_one,
      if_neg Bool.false_ne_true] at hge
    rw [if_neg Bool.false_ne_true] at hlimit
    exact hge (by exact_mod_cast Nat.mul_lt_mul_of_pos_right hlimit hpos)
  have hlow : ¬(neg = true ∧ Val.cmp (.fin neg (a * 2 ^ n) (-n)) (Val.ofInt (-150)) ≠ .gt) := by
    rintro ⟨rfl, hle⟩
    rw [cmp_ofInt, ne_eq, compare_gt_iff_gt, Int.toNat_neg_natCast, neg_neg, Int.toNat_natCast, pow_zero, Nat.mul_one, if_pos rfl,
      neg_mul] at hle
    exact hle (neg_lt_neg (by exact_mod_cast Nat.mul_lt_mul_of_pos_right hlimit hpos))
  have hint : roundInt 1 neg (a * 2 ^ n) (-n) = a := by
    rw [roundInt, if_neg (by omega), neg_neg, Int.toNat_natCast]
    exact Nat.mul_div_cancel a hpos
  have hwhole : (0 : Int) ≤ -n ∨ a * 2 ^ n % 2 ^ (- -(n : Int)).toNat = 0 := by
    rw [neg_neg, Int.toNat_natCast]; exact .inr (Nat.mul_mod_left a _)
  simp only [exp2Code, fmtVal_zero h]
  rw [if_neg hmag, if_neg hhigh, if_neg hlow, if_pos hwhole, hint]
  rfl
end

/-! ### Table 4.3 -/

/-- VEXP2 of an integer. -/
theorem exp2Code_codeOfInt {k : Int} (hlo : -149 ≤ k) (hhi : k ≤ 127) : exp2Code (codeOfInt k) = codeOfPow k := by
  by_cases hk : k = 0
  · subst hk; decide
  · have habs : k.natAbs ≠ 0 := Int.natAbs_ne_zero.2 hk
    have hlog : Nat.log2 k.natAbs < 8 := (Nat.log2_lt habs).2 (by omega)
    have hval : floatVal f32 (codeOfInt k).toNat =
        .fin (decide (k < 0)) (k.natAbs * 2 ^ (23 - Nat.log2 k.natAbs)) (-(23 - Nat.log2 k.natAbs : Nat)) := by
      rw [codeOfInt, toNat_roundFloat, Val.ofInt, floatVal_roundFloat_normal habs (by omega) (by omega) (by omega)]
      congr 1; omega
    rw [exp2Code_int hval habs (by omega) (by simp only [decide_eq_true_eq]; split <;> omega)]
    congr 1
    simp only [decide_eq_true_eq]
    split <;> omega

theorem eq_withSign_true {n : Nat} (h : 2 ^ 31 ≤ n) : n = f32.withSign true (n - 2 ^ 31) := by
  show n = 2 ^ 31 + (n - 2 ^ 31)
  omega

/-- From the code of an integer `n` of 128 to 255 up, the values are at least `n`. -/
theorem floatVal_high (neg : Bool) {c n : Nat} (hlow : 128 ≤ n) (hn : n < 256) (hlo : 0x43000000 + (n - 128) * 2 ^ 16 ≤ c) (hhi : c ≤ 0x7F7FFFFF) :
    ∃ mag exp, floatVal f32 (f32.withSign neg c) = .fin neg mag exp ∧ mag ≠ 0 ∧ n * 2 ^ (-exp).toNat ≤ mag * 2 ^ exp.toNat :=
  ⟨_, _, floatVal_normal neg (by omega) hhi, by omega, le_normal (by omega) (by omega) (by omega) (by omega)⟩

/-- The four functions have the exact cases and the special inputs of Table 4.3. -/
theorem transcendentals : Transcendentals rcpCode rsqCode exp2Code log2Code where
  nan x h := transcendentals_nan h
  below x hlo hhi := by
    have hx := eq_withSign_true hlo.le
    by_cases hinf : x.toNat = 0xFF800000
    · exact roots_negative_infinity (by rw [hinf]; exact floatVal_infinity true)
    · obtain ⟨mag, exp, hmag, hval⟩ := floatVal_number true (c := x.toNat - 2 ^ 31) (by omega) (by omega)
      exact roots_negative ((congrArg (floatVal f32) hx).trans hval) hmag
  zeros := by decide
  infinities := by decide
  rcpExact k hlo hhi := by
    obtain ⟨mag, exp, hval, hp⟩ := floatVal_pow false (k := k) (by omega) hhi
    obtain ⟨mag', exp', hval', hp'⟩ := floatVal_pow true (k := k) (by omega) hhi
    rw [← toNat_roundFloat] at hval hval'
    rw [ofNat_neg_pow] at hval'
    exact ⟨rcpCode_pow hval hp hlo, (rcpCode_pow hval' hp' hlo).trans (ofNat_neg_pow (-k))⟩
  rcpTiny x hlo hhi := by
    have hpos : floatVal f32 x.toNat = .fin false x.toNat (-149) := floatVal_subnormal false (c := x.toNat) (by omega)
    have hneg : floatVal f32 (x ||| 0x80000000).toNat = .fin true x.toNat (-149) := by
      rw [toNat_or_sign (by omega)]; exact floatVal_subnormal true (c := x.toNat) (by omega)
    exact ⟨rcpCode_tiny hpos (by omega) hhi, rcpCode_tiny hneg (by omega) hhi⟩
  rsqExact k hlo hhi := by
    obtain ⟨mag, exp, hval, hp⟩ := floatVal_codeOfPow (k := 2 * k) (by omega) (by omega)
    exact rsqCode_pow hval hp
  exp2Exact k hlo hhi := exp2Code_codeOfInt hlo hhi
  exp2High x hlo hhi := by
    by_cases hinf : x.toNat = 0x7F800000
    · exact exp2Code_infinity (neg := false) (by rw [hinf]; exact floatVal_infinity false)
    · obtain ⟨mag, exp, hval, hmag, hge⟩ := floatVal_high false (c := x.toNat) (n := 128) (by omega) (by omega) (by omega) (by omega)
      exact exp2Code_high hval hmag hge
  exp2Low x hlo hhi := by
    have hx := eq_withSign_true (n := x.toNat) (by omega)
    by_cases hinf : x.toNat = 0xFF800000
    · exact exp2Code_infinity (neg := true) (by rw [hinf]; exact floatVal_infinity true)
    · obtain ⟨mag, exp, hval, hmag, hge⟩ := floatVal_high true (c := x.toNat - 2 ^ 31) (n := 150) (by omega) (by omega) (by omega) (by omega)
      exact exp2Code_low ((congrArg (floatVal f32) hx).trans hval) hmag hge
  log2Exact k hlo hhi := by
    obtain ⟨mag, exp, hval, hp⟩ := floatVal_codeOfPow hlo hhi
    exact log2Code_pow hval hp

theorem transcend_spec {s : State} {w : Nat} {pcb : Bool} {x : Wave} {f : Sched} (h : Turn s w pcb x) (ha : activeAt s w pcb f ≠ 0)
    (g : BitVec 32 → BitVec 32) (d a : Reg) : ∃ u, transcend s f g d a = .next u ∧ Fixed s u w pcb x f 16 ∧
      ResultL s u w x d (activeAt s w pcb f) (fun l => g (laneAt s w f [] a l)) [a] := by
  obtain ⟨u, hu, hfixed, hres⟩ := fixedL_spec h (lat := 16) (ty := 0) rfl d [a] (fun r x l => (g (r.readL x [] a l)).toNat) ha
  simp only [BitVec.ofNat_toNat, BitVec.setWidth_eq] at hres
  exact ⟨u, hu, hfixed, hres⟩

/-- Settles O11: the model's four functions, which keep to the table whatever the part's own constants are. -/
theorem transcendentalResults : Obligations.TranscendentalResults := by
  refine ⟨rcpCode, rsqCode, exp2Code, log2Code, transcendentals, fun s w pcb x f d a h ha => ?_⟩
  simp only [List.forall_mem_cons, List.not_mem_nil, false_imp_iff, implies_true, and_true]
  exact ⟨transcend_spec h ha rcpCode d a, transcend_spec h ha rsqCode d a, transcend_spec h ha exp2Code d a, transcend_spec h ha log2Code d a⟩
end Sys2Proof.Machine
end

section
/-! PROOF. Paths that an instruction holds: its issue, the rule of each hold, and WAITC (R122, R237). -/
namespace Sys2Proof.Machine
open Sys2Proof

/-! ### An issue whose completion comes later -/

/-- The state in which an instruction of unknown latency has issued and its path has moved on. -/
def moved (s : State) (w : Nat) (pcb : Bool) (f : Sched) : State := (s.beginIssue w pcb f none).advance w pcb

theorem moved_underway {s : State} {w : Nat} {x : Wave} (h : kget s.waves w = some x) (pcb : Bool) (f : Sched) :
    Underway s (moved s w pcb f) w pcb x f := by
  have hbegun := State.beginIssue_begun h pcb f none
  obtain ⟨hissued, hwent, hpend, hcounted⟩ := issued_advance h (Effect.refl hbegun.present)
  obtain ⟨as, av, ap, al⟩ := State.advance_regs (s.beginIssue w pcb f none) w pcb
  obtain ⟨bs, bv, bp, bl⟩ := hbegun.regs
  exact ⟨hissued, hwent, hcounted, hpend, as.trans bs, av.trans bv, ap.trans bp, al.trans bl,
    Queues.of hbegun id fun k hk => ⟨k, hk, rfl, fun q => by simp [portsOn]⟩⟩

theorem timed_active {s : State} {w : Nat} {pcb : Bool} {x : Wave} {f : Sched} (h : Turn s w pcb x) (ha : activeAt s w pcb f ≠ 0)
    (k : Nat → Bool → State → Wave → BitVec 32 → State) :
    timed s f k = .next (k w pcb (s.atIssue w f) ((s.atIssue w f).wave w) (activeAt s w pcb f)) := by
  rw [timed, onTurn_eq h]
  exact congrArg _ (if_neg ha)

/-! What an issue keeps of its wave. -/

section
variable {s t : State} {w : Nat} {x : Wave} {f : Sched} (h : Issued s t w x f)
include h

theorem Issued.wave_park : (t.wave w).park = x.park := (congrArg Wave.park h.kept :)

theorem Issued.wave_stopped : (t.wave w).stopped = x.stopped := (congrArg Wave.stopped h.kept :)

theorem Issued.wave_watches : (t.wave w).watches = x.watches := (congrArg Wave.watches h.kept :)

theorem Issued.wave_block : (t.wave w).block = x.block := (congrArg Wave.block h.kept :)
end

/-! ### A held path -/

@[simp] theorem State.withHold_wave (t : State) (w : Nat) (pcb : Bool) (h : Hold) :
    (t.withHold w pcb h).wave w = (t.wave w).holdPath pcb h := State.wave_modWave_same ..

theorem State.withHold_waves (t : State) {w v : Nat} (pcb : Bool) (h : Hold) (hv : v ≠ w) :
    kget (t.withHold w pcb h).waves v = kget t.waves v := waves_modWave t _ hv

@[simp] theorem Wave.holdPath_ctr (x : Wave) (pcb : Bool) (h : Hold) (n : Nat) : (x.holdPath pcb h).ctr n = x.ctr n :=
  congrArg (dget Ctr.zero · n) (x.holdPath_ctrs pcb h)

@[simp] theorem Wave.holdPath_pred (x : Wave) (pcb : Bool) (h : Hold) (n : Nat) : (x.holdPath pcb h).pred n = x.pred n := by
  rw [Wave.pred, Wave.holdPath_p]; rfl

/-- A live path, with a hold, of a wave that is neither parked nor stopped: it goes on when what it waits for holds. -/
structure Holding (t : State) (w : Nat) (pcb : Bool) (h : Hold) : Prop where
  live : ((t.wave w).path pcb).live = true
  hold : ((t.wave w).path pcb).hold = h
  park : (t.wave w).park = none
  stopped : (t.wave w).stopped = false

theorem Underway.holding {s u : State} {w : Nat} {pcb : Bool} {x : Wave} {f : Sched} (hu : Underway s u w pcb x f)
    (hlive : (x.path pcb).live = true) (hpark : x.park = none) (hstopped : x.stopped = false) (h : Hold) :
    Holding (u.withHold w pcb h) w pcb h := by
  constructor <;> rw [State.withHold_wave]
  · rw [Wave.path_holdPath, hu.went.path]; exact hlive
  · rw [Wave.path_holdPath]
  · rw [Wave.holdPath_park, hu.issued.wave_park, hpark]
  · rw [Wave.holdPath_stopped, hu.issued.wave_stopped, hstopped]

section
variable {t : State} {w : Nat} {pcb : Bool}

theorem Holding.settle_waitc {uid n k : Nat} {dst : Option Reg} {mask : BitVec 32} (h : Holding t w pcb (.waitc uid n k dst mask)) :
    t.settlePath w pcb = if ((t.wave w).ctr n).count ≤ k then t.finishWaitc w pcb uid n dst mask else t := by
  unfold State.settlePath
  simp [h.live, h.park, h.stopped, h.hold]

theorem Holding.settle_bar {uid n phase : Nat} (h : Holding t w pcb (.bar uid n phase)) {b : Block}
    (hb : kget t.blocks (t.wave w).block = some b) :
    t.settlePath w pcb = if (b.bar n).phase ≠ phase then t.release w pcb uid 0 else t := by
  unfold State.settlePath State.block?
  simp [h.live, h.park, h.stopped, h.hold, hb]

theorem Holding.settle_waitw {uid : Nat} {mask : BitVec 4} {limit : Option Nat} {d : Reg} (h : Holding t w pcb (.waitw uid mask limit d)) :
    t.settlePath w pcb = if (t.wave w).readyWatches mask ≠ 0 then t.finishWaitw w pcb uid ((t.wave w).readyWatches mask) d else t := by
  unfold State.settlePath
  simp [h.live, h.park, h.stopped, h.hold]

theorem settlePath_unheld (h : ((t.wave w).path pcb).hold = .none) : t.settlePath w pcb = t := by
  unfold State.settlePath
  simp [h]
end

/-- An instruction that holds its path: its issue, the hold, what else `k` does, and one look at what it waits for. -/
theorem holds_eq {s : State} {w : Nat} {pcb : Bool} {x : Wave} {f : Sched} (h : Turn s w pcb x) (ha : activeAt s w pcb f ≠ 0)
    (g : State → Wave → BitVec 32 → Hold) (k : Nat → Bool → Wave → State → State) :
    holds s f g k = .next ((k w pcb ((s.atIssue w f).wave w) ((moved s w pcb f).withHold w pcb
      (g (s.atIssue w f) ((s.atIssue w f).wave w) (activeAt s w pcb f)))).settlePath w pcb) := by
  rw [holds, timed_active h ha]
  rfl

/-! ### A predicate written at a completion -/

theorem landP_pred (x : Wave) (n m : Nat) (v : BitVec 32) : (x.landP n v).pred m = if n < 7 ∧ m = n then v else x.pred m :=
  Wave.pred_setPred x n m v

theorem landP_eq (x : Wave) (n : Nat) (v : BitVec 32) : x.landP n v =
    { x with p := (x.landP n v).p, late := (x.landP n v).late, bad := (x.landP n v).bad } := by
  unfold Wave.landP Wave.setPred
  split <;> rfl

/-- A predicate written at a completion changes it, the undo pool and what readers may still see of older contents. -/
theorem putP_spec (s : State) (w uid : Nat) (d : Reg) (v : BitVec 32) :
    (s.putP w uid d v).wave w = { s.wave w with
      p := ((s.putP w uid d v).wave w).p, undo := ((s.putP w uid d v).wave w).undo
      late := ((s.putP w uid d v).wave w).late, bad := ((s.putP w uid d v).wave w).bad } ∧
    WritesP (s.wave w) ((s.putP w uid d v).wave w) d.toNat v := by
  unfold State.putP
  rw [wave_modWave]
  by_cases h : d.toNat < 7
  · rw [if_pos h, log_eq]
    exact ⟨by rw [landP_eq], fun m => landP_pred ..⟩
  · rw [if_neg h]
    exact ⟨rfl, fun m => by rw [if_neg fun e => h e.1]⟩

/-! ### WAITC (R122) -/

/-- What WAITC.TEST writes before its path goes on: the predicate, and the counter without its error. -/
def tested (t : State) (w uid n : Nat) (d : Reg) : State :=
  (t.putP w uid d (allBits (!((t.wave w).ctr n).err))).modWave w fun y =>
    y.setCtr n { y.ctr n with err := false, reason := 0, info := 0 }

theorem finishWaitc_test (t : State) (w : Nat) (pcb : Bool) (uid n : Nat) (d : Reg) (mask : BitVec 32) :
    t.finishWaitc w pcb uid n (some d) mask = (tested t w uid n d).release w pcb uid ((t.wave w).ctr n).ept := rfl

theorem finishWaitc_goes {t : State} {w n : Nat} (h : ((t.wave w).ctr n).err = false) (pcb : Bool) (uid : Nat) (mask : BitVec 32) :
    t.finishWaitc w pcb uid n none mask = t.release w pcb uid ((t.wave w).ctr n).ept := by
  unfold State.finishWaitc
  simp [h]

theorem finishWaitc_error {t : State} {w n : Nat} (h : ((t.wave w).ctr n).err = true) (pcb : Bool) (uid : Nat) (mask : BitVec 32) :
    t.finishWaitc w pcb uid n none mask = (t.standAt w pcb uid).raise w pcb
      { Trap.of 15 mask with detail := ((t.wave w).ctr n).reason, ctr := n, info := ((t.wave w).ctr n).info } := by
  unfold State.finishWaitc
  simp [h]

theorem tested_waves (t : State) {w v : Nat} (uid n : Nat) (d : Reg) (hv : v ≠ w) : kget (tested t w uid n d).waves v = kget t.waves v := by
  unfold tested State.putP
  rw [waves_modWave _ _ hv, waves_modWave _ _ hv]

theorem tested_wave (t : State) (w uid n : Nat) (d : Reg) : (tested t w uid n d).wave w =
    ((t.putP w uid d (allBits (!((t.wave w).ctr n).err))).wave w).setCtr n { (t.wave w).ctr n with err := false, reason := 0, info := 0 } := by
  unfold tested
  rw [wave_modWave, (putP_spec ..).1]
  rfl

theorem tested_regs (t : State) (w uid n : Nat) (d : Reg) : ((tested t w uid n d).wave w).s = (t.wave w).s ∧
    ((tested t w uid n d).wave w).v = (t.wave w).v ∧ ((tested t w uid n d).wave w).pend = (t.wave w).pend := by
  rw [tested_wave, (putP_spec ..).1]
  exact ⟨rfl, rfl, rfl⟩

theorem tested_pred (t : State) (w uid n : Nat) (d : Reg) :
    WritesP (t.wave w) ((tested t w uid n d).wave w) d.toNat (allBits (!((t.wave w).ctr n).err)) := by
  rw [tested_wave]
  exact (putP_spec ..).2

theorem tested_ctr (t : State) (w uid n m : Nat) (d : Reg) : ((tested t w uid n d).wave w).ctr m =
    if m = n then { (t.wave w).ctr n with err := false, reason := 0, info := 0 } else (t.wave w).ctr m := by
  rw [tested_wave, Wave.ctr_setCtr, (putP_spec ..).1]
  rfl

/-- WAITC.TEST at the counter as its issue left it, with no other path, wave or part of the machine changed. -/
theorem tested_withHold (u : State) (w : Nat) (pcb : Bool) (h : Hold) (uid n : Nat) (d : Reg) :
    let t := tested (u.withHold w pcb h) w uid n d
    WritesP (u.wave w) (t.wave w) d.toNat (allBits (!((u.wave w).ctr n).err)) ∧
    (∀ m, (t.wave w).ctr m = if m = n then { (u.wave w).ctr n with err := false, reason := 0, info := 0 } else (u.wave w).ctr m) ∧
    (t.wave w).s = (u.wave w).s ∧ (t.wave w).v = (u.wave w).v ∧ (t.wave w).pend = (u.wave w).pend ∧
    (∀ v, v ≠ w → kget t.waves v = kget u.waves v) ∧ { t with waves := u.waves } = u := by
  have hpred := tested_pred (u.withHold w pcb h) w uid n d
  have hctr := fun m => tested_ctr (u.withHold w pcb h) w uid n m d
  obtain ⟨hs, hv, hpend⟩ := tested_regs (u.withHold w pcb h) w uid n d
  simp only [WritesP, State.withHold_wave, Wave.holdPath_pred, Wave.holdPath_ctr, Wave.holdPath_s, Wave.holdPath_v, Wave.holdPath_pend]
    at hpred hctr hs hv hpend
  exact ⟨hpred, hctr, hs, hv, hpend, fun v hne => (tested_waves _ _ _ _ hne).trans (u.withHold_waves _ _ hne), rfl⟩

/-- Settles O27: the counter after the issue decides whether the path stays held or the wait finishes. -/
theorem counterWaits : Obligations.CounterWaits := by
  intro s w pcb x f n k d ht ha hpark hstopped
  have hu := moved_underway ht.wave pcb f
  generalize hmoved : moved s w pcb f = u at hu
  have hsettle (dst : Option Reg) := (hu.holding ht.live hpark hstopped (.waitc s.uid n.toNat k.toNat dst (activeAt s w pcb f))).settle_waitc
  have hctr (h : Hold) : ((u.withHold w pcb h).wave w).ctr n.toNat = (u.wave w).ctr n.toNat := by
    rw [State.withHold_wave, Wave.holdPath_ctr]
  simp only [exec_waitc, exec_waitcTest, execWaitc, execWaitcTest, holds_eq ht ha, hmoved, hsettle, hctr]
  refine ⟨u, hu, fun hlt => ?held, fun hle herr => ?goes, fun hle herr => ?raises, fun hle => ?test⟩
  case held =>
    rw [if_neg (Nat.not_le.2 hlt), if_neg (Nat.not_le.2 hlt)]
    exact ⟨rfl, rfl⟩
  all_goals rw [if_pos hle]
  case goes => rw [finishWaitc_goes ((hctr _).symm ▸ herr), hctr]
  case raises => rw [finishWaitc_error ((hctr _).symm ▸ herr), hctr]
  case test =>
    rw [finishWaitc_test, hctr]
    obtain ⟨hpred, hctrs, hs, hv, hpend, hothers, hrest⟩ := tested_withHold u w pcb
      (.waitc s.uid n.toNat k.toNat (some d) (activeAt s w pcb f)) s.uid n.toNat d
    refine ⟨_, rfl, ?_, (hctrs _).trans (if_pos rfl), fun m hm => (hctrs m).trans (if_neg hm), hs.trans hu.same.sRegs,
      hv.trans hu.same.vRegs, hpend.trans hu.pend, fun v hne => (hothers v hne).trans (hu.issued.others v hne), hrest⟩
    convert hpred using 1
    cases ((u.wave w).ctr n.toNat).err <;> rfl
end Sys2Proof.Machine
end

section
/-! PROOF. WAITW: the watches that are ready, and the wait for them (R130). -/
namespace Sys2Proof.Machine
open Sys2Proof

/-! ### Watches -/

/-- A mask built bit by bit has the bits that the test picks. -/
theorem getLsbD_foldl_or {w : Nat} (p : Nat → Bool) (N i : Nat) :
    ((List.range N).foldl (fun (m : BitVec w) n => if p n then m ||| (1#w <<< n) else m) 0).getLsbD i =
      (decide (i < w) && decide (i < N) && p i) := by
  induction N with
  | zero => simp
  | succ N ih =>
    rw [List.range_succ, List.foldl_append, List.foldl_cons, List.foldl_nil]
    generalize (List.range N).foldl (fun (m : BitVec w) n => if p n then m ||| (1#w <<< n) else m) 0 = m at ih
    have hstep : (if p N then m ||| (1#w <<< N) else m).getLsbD i = (m.getLsbD i || (p N && decide (i < w) && decide (i = N))) := by
      have hbit : (1#w <<< N).getLsbD i = (decide (i < w) && decide (i = N)) := by
        rw [BitVec.getLsbD_shiftLeft]
        rcases Nat.lt_trichotomy i N with hlt | heq | hgt
        · simp [hlt, hlt.ne]
        · simp [heq]; omega
        · simp [Nat.not_lt.2 hgt.le, hgt.ne', Nat.sub_eq_zero_iff_le, hgt]
      cases p N <;> simp [hbit]
    rw [hstep, ih]
    rcases Nat.lt_trichotomy i N with hlt | heq | hgt
    · simp [hlt, hlt.ne, Nat.lt_succ_of_lt hlt]
    · simp [heq, Bool.and_comm]
    · simp [Nat.not_lt.2 hgt.le, hgt.ne', Nat.not_lt.2 (Nat.succ_le_of_lt hgt)]

theorem readyWatches_bit (x : Wave) (mask : BitVec 4) {n : Nat} (h : n < 4) :
    (x.readyWatches mask).getLsbD n = (mask.getLsbD n && ((x.watch n).fired || !(x.watch n).armed)) := by
  rw [Wave.readyWatches, getLsbD_foldl_or fun n => mask.getLsbD n && ((x.watch n).fired || !(x.watch n).armed)]
  simp [h]

theorem readyWatches_zero (x : Wave) : x.readyWatches 0 = 0 := by
  refine BitVec.eq_of_getLsbD_eq fun i hi => ?_
  rw [readyWatches_bit x 0 hi]
  simp

theorem readyWatches_congr {x y : Wave} (h : x.watches = y.watches) (mask : BitVec 4) : x.readyWatches mask = y.readyWatches mask := by
  unfold Wave.readyWatches Wave.watch
  rw [h]

theorem disarm_watch (x : Wave) (ready : BitVec 4) (n : Nat) :
    (x.disarm ready).watch n = if ready.getLsbD n = true ∧ (x.watch n).fired = true then Watch.off else x.watch n := by
  have h : (x.disarm ready).watch n = (if !(ready.getLsbD n && (x.watch n).fired) then kget x.watches n else none).getD Watch.off :=
    congrArg (Option.getD · Watch.off) (kget_filter x.watches (fun k => !(ready.getLsbD k && (x.watch k).fired)) n)
  rw [h]
  by_cases hoff : ready.getLsbD n = true ∧ (x.watch n).fired = true
  · rw [if_pos hoff]; simp [hoff]
  · rw [if_neg hoff, if_pos (by simpa [-not_and, not_and_or] using hoff)]; rfl

/-! ### The end of a WAITW -/

/-- What WAITW does before its path goes on: D takes the watches that are ready, and the fired ones among them are off. -/
def returned (t : State) (w uid : Nat) (ready : BitVec 4) (d : Reg) : State :=
  (t.putU w uid d (ready.setWidth 64)).modWave w fun y => y.disarm ready

theorem finishWaitw_eq (t : State) (w : Nat) (pcb : Bool) (uid : Nat) (ready : BitVec 4) (d : Reg) :
    t.finishWaitw w pcb uid ready d = (returned t w uid ready d).release w pcb uid 0 := rfl

section
variable (t : State) (w uid : Nat) (ready : BitVec 4) (d : Reg)

theorem returned_wave : (returned t w uid ready d).wave w = ((t.putU w uid d (ready.setWidth 64)).wave w).disarm ready := wave_modWave ..

/-- It changes of its wave an S register with what the log and the readers know of it, and watches. -/
theorem returned_kept : ∃ sr un la ba ws, (returned t w uid ready d).wave w =
    { t.wave w with s := sr, undo := un, late := la, bad := ba, watches := ws } := by
  rw [returned_wave, (putU_spec ..).1]
  exact ⟨_, _, _, _, _, rfl⟩

theorem returned_writes : WritesS (t.wave w) ((returned t w uid ready d).wave w) d (ready.setWidth 64) := by
  rw [returned_wave]
  exact (putU_spec ..).2

theorem returned_watch (n : Nat) : ((returned t w uid ready d).wave w).watch n =
    if ready.getLsbD n = true ∧ ((t.wave w).watch n).fired = true then Watch.off else (t.wave w).watch n := by
  rw [returned_wave, disarm_watch, (putU_spec ..).1]
  rfl

theorem returned_rest : { returned t w uid ready d with waves := t.waves } = t := rfl

theorem returned_waves {v : Nat} (hv : v ≠ w) : kget (returned t w uid ready d).waves v = kget t.waves v := by
  unfold returned State.putU
  rw [waves_modWave _ _ hv, waves_modWave _ _ hv]
end

/-- The end of a WAITW at the wave as its issue left it, with no other path, wave or part of the machine changed. -/
theorem returned_withHold (u : State) (w : Nat) (pcb : Bool) (h : Hold) (uid : Nat) (ready : BitVec 4) (d : Reg) :
    let t := returned (u.withHold w pcb h) w uid ready d
    WritesS (u.wave w) (t.wave w) d (ready.setWidth 64) ∧ (t.wave w).v = (u.wave w).v ∧ (t.wave w).p = (u.wave w).p ∧
    (t.wave w).pend = (u.wave w).pend ∧
    (∀ n, (t.wave w).watch n = if ready.getLsbD n = true ∧ ((u.wave w).watch n).fired = true then Watch.off else (u.wave w).watch n) ∧
    (∀ v, v ≠ w → kget t.waves v = kget u.waves v) ∧ { t with waves := u.waves } = u := by
  have hwrites := returned_writes (u.withHold w pcb h) w uid ready d
  have hwatch := returned_watch (u.withHold w pcb h) w uid ready d
  obtain ⟨sr, un, la, ba, ws, hkept⟩ := returned_kept (u.withHold w pcb h) w uid ready d
  simp only [WritesS, State.withHold_wave, Wave.watch, Wave.holdPath_s, Wave.holdPath_watches] at hwrites hwatch hkept
  refine ⟨hwrites, ?_, ?_, ?_, hwatch, fun v hne => (returned_waves _ _ _ _ _ hne).trans (u.withHold_waves _ _ hne), rfl⟩ <;> rw [hkept]
  · exact Wave.holdPath_v ..
  · exact Wave.holdPath_p ..
  · exact Wave.holdPath_pend ..

/-! ### WAITW at its issue -/

/-- A WAITW of no watch and no limit does not wait; any other looks at its watches once, and waits while none is ready. -/
theorem execWaitw_eq {s : State} {w : Nat} {pcb : Bool} {x : Wave} {f : Sched} (ht : Turn s w pcb x) (ha : activeAt s w pcb f ≠ 0)
    (hpark : x.park = none) (hstopped : x.stopped = false) (mask : BitVec 4) (limit : BitVec 24) (d : Reg) :
    let held := (moved s w pcb f).withHold w pcb (.waitw s.uid mask (if limit = 0 then none else some (limit.toNat * 1024)) d)
    exec (.waitw f mask limit d) s = .next (if x.readyWatches mask ≠ 0 ∨ (mask = 0 ∧ limit = 0)
      then (returned held w s.uid (x.readyWatches mask) d).release w pcb s.uid 0 else held) := by
  intro held
  have hu := moved_underway ht.wave pcb f
  have hheld : Holding held w pcb _ := hu.holding ht.live hpark hstopped _
  have hready : (held.wave w).readyWatches mask = x.readyWatches mask := by
    refine readyWatches_congr ?_ mask
    rw [State.withHold_wave, Wave.holdPath_watches, hu.issued.wave_watches]
  rw [exec_waitw, execWaitw, holds_eq ht ha]
  by_cases hzero : mask = 0 ∧ limit = 0
  · have hnone : x.readyWatches mask = 0 := by rw [hzero.1, readyWatches_zero]
    rw [if_pos hzero, if_pos (Or.inr hzero), hnone, finishWaitw_eq]
    refine congrArg _ (settlePath_unheld ?_)
    rw [release_wave, Wave.complete_path]
    exact congrArg Path.hold (Wave.path_holdPath _ pcb .none)
  · rw [if_neg hzero, hheld.settle_waitw, hready]
    by_cases hr : x.readyWatches mask ≠ 0
    · rw [if_pos hr, if_pos (Or.inl hr), finishWaitw_eq]
    · rw [if_neg hr, if_neg (not_or.2 ⟨hr, hzero⟩)]

/-- Settles O28: the watches of the wave as it was are those that the wait looks at. -/
theorem watchWaits : Obligations.WatchWaits := by
  intro s w pcb x f mask limit d ht ha hpark hstopped
  have hu := moved_underway ht.wave pcb f
  rw [execWaitw_eq ht ha hpark hstopped]
  generalize moved s w pcb f = u at hu
  refine ⟨u, hu, fun n hn => readyWatches_bit x mask hn, fun hnone hwaits => ?held, fun hgoes => ?goes⟩
  case held => rw [if_neg (not_or.2 ⟨not_not.2 hnone, hwaits⟩)]
  case goes =>
    rw [if_pos hgoes]
    obtain ⟨hwrites, hv, hp, hpend, hwatch, hothers, hrest⟩ := returned_withHold u w pcb
      (.waitw s.uid mask (if limit = 0 then none else some (limit.toNat * 1024)) d) s.uid (x.readyWatches mask) d
    rw [WritesS, hu.same.sRegs] at hwrites
    simp only [Wave.watch, hu.issued.wave_watches] at hwatch
    exact ⟨_, rfl, hwrites, hv.trans hu.same.vRegs, hp.trans hu.same.preds, hpend.trans hu.pend, hwatch,
      fun v hne => (hothers v hne).trans (hu.issued.others v hne), hrest⟩
end Sys2Proof.Machine
end

section
/-! PROOF. BAR: an arrival at a barrier, and the release of the paths that hold there (R123, R124). -/
namespace Sys2Proof.Machine
open Sys2Proof

/-! ### Paths that the divergence stack holds -/

/-- A wave once the path at a place of its stack, which has stood in PCA's place, stands in the stack again. -/
def Wave.putBack (x y : Wave) (i : Nat) : Wave := { y with
  stack := y.stack.set i (.path y.pca), pca := x.pca, spill := if x.trap.isNone && y.trap.isSome then some i else y.spill }

/-- The state in which a path stands in PCA's place. -/
def State.inPca (s : State) (w : Nat) (p : Path) : State := s.modWave w fun y => { y with pca := p }

@[simp] theorem State.inPca_wave (s : State) (w : Nat) (p : Path) : (s.inPca w p).wave w = { s.wave w with pca := p } :=
  State.wave_modWave_same ..

theorem State.inPca_wave_ne (s : State) {w v : Nat} (p : Path) (h : v ≠ w) : (s.inPca w p).wave v = s.wave v :=
  wave_modWave_ne s _ h

theorem atSpilled_path {s : State} {w i : Nat} {p : Path} {st : List DivRec} (h : (s.wave w).stack.drop i = .path p :: st) (g : State → State) :
    s.atSpilled w i g = (g (s.inPca w p)).modWave w fun y => (s.wave w).putBack y i := by
  unfold State.atSpilled
  dsimp only
  rw [h]
  rfl

theorem atSpilled_none {s : State} {w i : Nat} (h : ∀ p st, (s.wave w).stack.drop i ≠ .path p :: st) (g : State → State) :
    s.atSpilled w i g = s := by
  unfold State.atSpilled
  dsimp only
  split
  · next p st hdrop => exact absurd hdrop (h p st)
  · rfl

/-! ### Barriers of a block -/

theorem setBar_bar (b : Block) (n m : Nat) (r : Barrier) : (b.setBar n r).bar m = if m = n then r else b.bar m :=
  dget_dset Barrier.zero b.bars n m r

theorem bar_congr {b k : Block} (h : b.bars = k.bars) (n : Nat) : b.bar n = k.bar n := congrArg (dget Barrier.zero · n) h

theorem atBar_none {p : Path} {n phase : Nat} (h : p.hold = .none) : p.atBar n phase = false := by
  unfold Path.atBar
  rw [h, Bool.and_false]

theorem atBar_iff {p : Path} {n phase : Nat} : p.atBar n phase = true ↔ p.live = true ∧ ∃ uid, p.hold = .bar uid n phase := by
  unfold Path.atBar
  cases p.hold <;> simp

/-! ### Paths that leave a barrier -/

/-- From one state to another, only paths that held at a barrier in a phase have gone on, at a time; no wave's time has gone back, and
no block has changed. -/
structure Leaves (n phase ts : Nat) (s t : State) : Prop where
  path : ∀ v q, (t.wave v).path q = (s.wave v).path q ∨
    ((s.wave v).path q).atBar n phase = true ∧ ((t.wave v).path q).hold = .none ∧ ts ≤ (t.wave v).pts
  pts : ∀ v, (s.wave v).pts ≤ (t.wave v).pts
  blocks : t.blocks = s.blocks

section
variable {n phase ts : Nat} {s t u : State}

theorem Leaves.refl : Leaves n phase ts s s := ⟨fun _ _ => .inl rfl, fun _ => le_refl _, rfl⟩

theorem Leaves.stays (h : Leaves n phase ts s t) {v : Nat} {q : Bool} (hq : ((s.wave v).path q).atBar n phase = false) :
    (t.wave v).path q = (s.wave v).path q :=
  (h.path v q).resolve_right fun e => by rw [hq] at e; exact absurd e.1 (by decide)

theorem Leaves.free (h : Leaves n phase ts s t) {v : Nat} {q : Bool} (hq : ((s.wave v).path q).hold = .none) :
    ((t.wave v).path q).hold = .none := by
  rw [h.stays (atBar_none hq), hq]

theorem Leaves.trans (h : Leaves n phase ts s t) (g : Leaves n phase ts t u) : Leaves n phase ts s u := by
  refine ⟨fun v q => ?_, fun v => (h.pts v).trans (g.pts v), g.blocks.trans h.blocks⟩
  rcases h.path v q with hsame | ⟨hat, hnone, hts⟩
  · rw [← hsame]; exact g.path v q
  · exact .inr ⟨hat, g.free hnone, hts.trans (g.pts v)⟩

/-- Steps that each only let paths leave the barrier. -/
theorem Leaves.foldl {α : Type} {l : List α} {op : State → α → State} (h : ∀ t, ∀ a ∈ l, Leaves n phase ts t (op t a)) (s : State) :
    Leaves n phase ts s (l.foldl op s) :=
  List.foldlRecOn (motive := Leaves n phase ts s) l op Leaves.refl fun t ht a ha => ht.trans (h t a ha)
end

theorem release_path (s : State) (w : Nat) (p : Bool) (uid ts v : Nat) (q : Bool) : ((s.release w p uid ts).wave v).path q =
    if v = w ∧ q = p then { (s.wave v).path q with hold := .none } else (s.wave v).path q := by
  by_cases hv : v = w
  · subst hv
    rw [release_wave, Wave.complete_path]
    exact (path_holdPath (s.wave v) p q .none).trans (by simp)
  · rw [if_neg fun e => hv e.1]
    exact congrArg (Wave.path · q) (wave_modWave_ne s _ hv)

theorem release_pts (s : State) (w : Nat) (p : Bool) (uid ts v : Nat) : ((s.release w p uid ts).wave v).pts =
    if v = w then max (s.wave v).pts ts else (s.wave v).pts := by
  by_cases hv : v = w
  · subst hv
    rw [release_wave, if_pos rfl]; rfl
  · rw [if_neg hv]
    exact congrArg Wave.pts (wave_modWave_ne s _ hv)

section
variable {n phase : Nat}

theorem leaves_release {s : State} {w : Nat} {p : Bool} (h : ((s.wave w).path p).atBar n phase = true) (uid ts : Nat) :
    Leaves n phase ts s (s.release w p uid ts) := by
  refine ⟨fun v q => ?_, fun v => ?_, rfl⟩ <;> rw [release_pts]
  · rw [release_path]
    by_cases hvq : v = w ∧ q = p
    · obtain ⟨rfl, rfl⟩ := hvq
      rw [if_pos ⟨rfl, rfl⟩, if_pos rfl]
      exact .inr ⟨h, rfl, le_max_right ..⟩
    · exact .inl (if_neg hvq)
  · split
    · exact le_max_left ..
    · exact le_refl _

/-- A path leaves the barrier where it holds there, and else stays as it is. -/
theorem leaveBar_eq (s : State) (ts w : Nat) (p : Bool) : s.leaveBar n phase ts w p = s ∧ ((s.wave w).path p).atBar n phase = false ∨
    ((s.wave w).path p).atBar n phase = true ∧ ∃ uid, s.leaveBar n phase ts w p = s.release w p uid ts := by
  unfold State.leaveBar
  by_cases hat : ((s.wave w).path p).atBar n phase = true
  · obtain ⟨hlive, uid, hhold⟩ := atBar_iff.1 hat
    exact .inr ⟨hat, uid, by simp [hhold, hlive]⟩
  · refine .inl ⟨?_, Bool.not_eq_true _ ▸ hat⟩
    split
    · next uid k q hhold => exact if_neg fun ⟨hlive, hk, hq⟩ => hat (atBar_iff.2 ⟨hlive, uid, by rw [hhold, hk, hq]⟩)
    · rfl

theorem leaves_leaveBar (s : State) (ts w : Nat) (p : Bool) : Leaves n phase ts s (s.leaveBar n phase ts w p) := by
  rcases leaveBar_eq (n := n) (phase := phase) s ts w p with ⟨heq, -⟩ | ⟨hat, uid, heq⟩ <;> rw [heq]
  · exact Leaves.refl
  · exact leaves_release hat uid ts
/-- A path that holds at the barrier goes on at the time given. -/
theorem leaveBar_frees {s : State} {w : Nat} {p : Bool} (h : ((s.wave w).path p).atBar n phase = true) (ts : Nat) :
    (((s.leaveBar n phase ts w p).wave w).path p).hold = .none := by
  rcases leaveBar_eq (n := n) (phase := phase) s ts w p with ⟨-, hnot⟩ | ⟨-, uid, heq⟩
  · rw [h] at hnot; exact absurd hnot (by decide)
  · rw [heq, release_path, if_pos ⟨rfl, rfl⟩]

/-- A change of one path of a wave that is made of the path in PCA's place leaves the two slots alone. -/
theorem leaves_spilled {s u : State} {w : Nat} (ts i : Nat) (hothers : ∀ v, v ≠ w → u.wave v = s.wave v)
    (hpcb : (u.wave w).path true = (s.wave w).path true) (hpts : (s.wave w).pts ≤ (u.wave w).pts) (hblocks : u.blocks = s.blocks) :
    Leaves n phase ts s (u.modWave w fun y => (s.wave w).putBack y i) := by
  have hwave (v : Nat) (hv : v ≠ w) : (u.modWave w fun y => (s.wave w).putBack y i).wave v = s.wave v :=
    (wave_modWave_ne u _ hv).trans (hothers v hv)
  refine ⟨fun v q => .inl ?_, fun v => ?_, hblocks⟩ <;> by_cases hv : v = w
  · subst hv
    rw [State.wave_modWave_same]
    cases q
    · rfl
    · exact hpcb
  · rw [hwave v hv]
  · subst hv
    rw [State.wave_modWave_same]
    exact hpts
  · rw [hwave v hv]

theorem leaves_atSpilled (s : State) (ts w i : Nat) :
    Leaves n phase ts s (s.atSpilled w i fun t => t.leaveBar n phase ts w false) := by
  by_cases hpath : ∃ p st, (s.wave w).stack.drop i = .path p :: st
  · obtain ⟨p, st, hdrop⟩ := hpath
    rw [atSpilled_path hdrop]
    have hothers (v : Nat) (hv : v ≠ w) : (s.inPca w p).wave v = s.wave v := s.inPca_wave_ne p hv
    have hself := s.inPca_wave w p
    rcases leaveBar_eq (n := n) (phase := phase) (s.inPca w p) ts w false with ⟨heq, -⟩ | ⟨-, uid, heq⟩ <;> rw [heq]
    · exact leaves_spilled ts i hothers (by rw [hself]; rfl) (by rw [hself]) rfl
    · refine leaves_spilled ts i (fun v hv => (wave_modWave_ne _ _ hv).trans (hothers v hv)) ?_ ?_ rfl
      · rw [release_path, if_neg (by simp), hself]; rfl
      · rw [release_pts, if_pos rfl, hself]; exact le_max_left ..
  · rw [atSpilled_none fun p st h => hpath ⟨p, st, h⟩]
    exact Leaves.refl

theorem leaves_eachSpilled (s : State) (ts w : Nat) (hit : Path → Bool) :
    Leaves n phase ts s (s.eachSpilled w hit fun t => t.leaveBar n phase ts w false) := by
  unfold State.eachSpilled
  refine Leaves.foldl (fun t i _ => ?_) s
  split
  · split
    · exact leaves_atSpilled t ts w i
    · exact Leaves.refl
  · exact Leaves.refl

theorem leaves_eachPath (s : State) (ts w : Nat) (hit : Path → Bool) :
    Leaves n phase ts s (s.eachPath w hit fun t q => t.leaveBar n phase ts w q) :=
  ((leaves_leaveBar s ts w false).trans (leaves_leaveBar _ ts w true)).trans (leaves_eachSpilled _ ts w hit)

/-- Both slots of a wave are looked at. -/
theorem eachPath_frees {s : State} {w : Nat} {q : Bool} (h : ((s.wave w).path q).atBar n phase = true) (ts : Nat) (hit : Path → Bool) :
    (((s.eachPath w hit fun t p => t.leaveBar n phase ts w p).wave w).path q).hold = .none := by
  refine (leaves_eachSpilled _ ts w hit).free ?_
  have hfirst := leaves_leaveBar (n := n) (phase := phase) s ts w false
  cases q
  · exact (leaves_leaveBar _ ts w true).free (leaveBar_frees h ts)
  · rcases hfirst.path w true with hsame | ⟨-, hnone, -⟩
    · exact leaveBar_frees (hsame ▸ h) ts
    · exact (leaves_leaveBar _ ts w true).free hnone

/-- Every path of the waves listed that holds at the barrier goes on. -/
theorem leaveAll (ts : Nat) (hit : Path → Bool) (ws : List Nat) : ∀ s : State,
    let t := ws.foldl (fun s w => s.eachPath w hit fun t q => t.leaveBar n phase ts w q) s
    Leaves n phase ts s t ∧ ∀ v ∈ ws, ∀ q, ((s.wave v).path q).atBar n phase = true → ((t.wave v).path q).hold = .none := by
  induction ws with
  | nil => exact fun s => ⟨Leaves.refl, fun v hv => absurd hv List.not_mem_nil⟩
  | cons w ws ih =>
    intro s
    have hstep := leaves_eachPath (n := n) (phase := phase) s ts w hit
    obtain ⟨hrest, hfreed⟩ := ih (s.eachPath w hit fun t q => t.leaveBar n phase ts w q)
    refine ⟨hstep.trans hrest, fun v hv q hat => ?_⟩
    rcases hstep.path v q with hsame | ⟨-, hnone, -⟩
    · rcases List.mem_cons.1 hv with rfl | hv
      · exact hrest.free (eachPath_frees hat ts hit)
      · exact hfreed v hv q (hsame ▸ hat)
    · exact hrest.free hnone

/-- One more look at a path that holds at the barrier, or that has left it. -/
theorem leaves_settlePath {t : State} {w : Nat} {pcb : Bool}
    (h : ((t.wave w).path pcb).hold = .none ∨ ∃ uid, ((t.wave w).path pcb).hold = .bar uid n phase) :
    Leaves n phase 0 t (t.settlePath w pcb) := by
  rcases h with hnone | ⟨uid, hhold⟩
  · rw [settlePath_unheld hnone]; exact Leaves.refl
  · unfold State.settlePath
    dsimp only
    rw [hhold]
    split
    · exact Leaves.refl
    · next hfree =>
      dsimp only
      split
      · split
        · exact leaves_release (atBar_iff.2 ⟨by simp at hfree; exact hfree.1.1, uid, hhold⟩) uid 0
        · exact Leaves.refl
      · exact Leaves.refl
end

/-! ### A phase that has its arrivals (R124) -/

/-- The arrivals that a barrier of a block waits for. -/
def State.barTarget (t : State) (bid : Nat) (r : Barrier) : Nat := if r.n = 0 then (t.liveWaves bid).length else r.n

/-- The latest time of those waves that hold at the barrier, and of `t0`. -/
def State.latestAt (t : State) (n phase : Nat) (ws : List Nat) (t0 : Nat) : Nat :=
  ws.foldl (fun m w => if (t.wave w).paths.any (·.atBar n phase) then max m (t.wave w).pts else m) t0

theorem path_mem_paths (x : Wave) (q : Bool) : x.path q ∈ x.paths := by
  cases q <;> simp [Wave.path, Wave.paths]

theorem le_latestAt (t : State) (n phase : Nat) (ws : List Nat) : ∀ t0, t0 ≤ t.latestAt n phase ws t0 ∧
    ∀ v ∈ ws, ∀ q, ((t.wave v).path q).atBar n phase = true → (t.wave v).pts ≤ t.latestAt n phase ws t0 := by
  induction ws with
  | nil => exact fun t0 => ⟨le_refl _, fun v hv => absurd hv List.not_mem_nil⟩
  | cons w ws ih =>
    intro t0
    obtain ⟨hbase, hall⟩ := ih (if (t.wave w).paths.any (·.atBar n phase) then max t0 (t.wave w).pts else t0)
    refine ⟨le_trans ?_ hbase, fun v hv q hat => ?_⟩
    · split
      · exact le_max_left ..
      · exact le_refl _
    · rcases List.mem_cons.1 hv with rfl | hv
      · have hpos : (t.wave v).paths.any (·.atBar n phase) = true := List.any_eq_true.2 ⟨_, path_mem_paths _ q, hat⟩
        rw [if_pos hpos] at hbase
        rw [State.latestAt, List.foldl_cons, if_pos hpos]
        exact (le_max_right ..).trans hbase
      · exact hall v hv q hat

section
variable {t : State} {bid n : Nat} {b : Block} (hb : kget t.blocks bid = some b)
include hb

theorem completeBar_waits (h : (b.bar n).arrivals < t.barTarget bid (b.bar n)) : t.completeBar bid n = t := by
  unfold State.completeBar State.block?
  rw [hb]
  exact if_pos (.inr h)

theorem completeBar_completes (hsome : (b.bar n).arrivals ≠ 0) (h : t.barTarget bid (b.bar n) ≤ (b.bar n).arrivals) :
    let phase := (b.bar n).phase
    t.completeBar bid n = (blockWaves bid b.nwaves).foldl
      (fun s w => s.eachPath w (·.atBar n phase) fun s q => s.leaveBar n phase (t.latestAt n phase (blockWaves bid b.nwaves) 0) w q)
      (t.modBlock bid fun k => k.setBar n { phase := phase + 1, arrivals := 0, n := 0 }) := by
  unfold State.completeBar State.block?
  rw [hb]
  exact if_neg (not_or.2 ⟨hsome, not_lt.2 h⟩)
end

/-! ### BAR at its issue -/

theorem liveWaves_congr {s t : State} {bid : Nat} {b k : Block} (hs : kget s.blocks bid = some b) (ht : kget t.blocks bid = some k)
    (hn : k.nwaves = b.nwaves) (he : ∀ v, (t.wave v).ended = (s.wave v).ended) : t.liveWaves bid = s.liveWaves bid := by
  unfold State.liveWaves State.block?
  rw [hs, ht]
  simp only [hn, he]

theorem kmod_congr {α : Type} {t : Tbl α} {j : Nat} {x : α} {g g' : α → α} (h : kget t j = some x) (hg : g x = g' x) :
    kmod t j g = kmod t j g' := by
  unfold kmod
  rw [h]
  exact congrArg (kset t j) hg

/-- An arrival, seen in the barrier: one more, and the first of a phase fixes n. -/
def Barrier.arrived (r : Barrier) (n : Nat) : Barrier := { r with arrivals := r.arrivals + 1, n := if r.arrivals = 0 then n else r.n }

/-- The barrier of the phase after one that is complete. -/
def Barrier.next (r : Barrier) : Barrier := { phase := r.phase + 1, arrivals := 0, n := 0 }

/-- The state of a BAR that holds its path, once its arrival at barrier `bn` of the block `b` has been counted. -/
def arrival (u : State) (w : Nat) (pcb : Bool) (uid bid : Nat) (b : Block) (bn n : Nat) : State :=
  (u.withHold w pcb (.bar uid bn (b.bar bn).phase)).modBlock bid fun k => k.setBar bn ((b.bar bn).arrived n)

theorem execBar_eq {s : State} {w : Nat} {pcb : Bool} {x : Wave} {f : Sched} {b : Block} (ht : Turn s w pcb x) (ha : activeAt s w pcb f ≠ 0)
    (hb : kget s.blocks x.block = some b) (bn : BitVec 2) (n : BitVec 5) : exec (.bar f bn n) s = .next
      (((arrival (moved s w pcb f) w pcb s.uid x.block b bn.toNat n.toNat).completeBar x.block bn.toNat).settlePath w pcb) := by
  have hread : kget (s.atIssue w f).blocks x.block = some b := hb
  obtain ⟨k, hk, hkb, -⟩ := (moved_underway ht.wave pcb f).same.queues.present b hb
  have hbars : k.bars = b.bars := (congrArg Block.bars hkb :)
  have harrive : kmod (moved s w pcb f).blocks x.block (fun k => k.arriveBar bn.toNat n.toNat) =
      kmod (moved s w pcb f).blocks x.block fun k => k.setBar bn.toNat ((b.bar bn.toNat).arrived n.toNat) := by
    refine kmod_congr hk ?_
    rw [Block.arriveBar, bar_congr hbars]
    rfl
  rw [exec_bar, execBar, holds_eq ht ha, State.atIssue_block ht.wave, State.block?, hread]
  unfold arrival State.modBlock
  dsimp only
  rw [show ∀ h, ((moved s w pcb f).withHold w pcb h).blocks = (moved s w pcb f).blocks from fun _ => rfl, harrive]

section
variable {s u : State} {w : Nat} {pcb : Bool} {x : Wave} {f : Sched} {b : Block} (hu : Underway s u w pcb x f)
  (hb : kget s.blocks x.block = some b) (uid bn n : Nat)
include hu

theorem arrival_holds (hlive : (x.path pcb).live = true) (hpark : x.park = none) (hstopped : x.stopped = false) :
    Holding (arrival u w pcb uid x.block b bn n) w pcb (.bar uid bn (b.bar bn).phase) := by
  obtain ⟨hlive, hhold, hpark, hstopped⟩ := hu.holding hlive hpark hstopped (.bar uid bn (b.bar bn).phase)
  exact ⟨hlive, hhold, hpark, hstopped⟩

theorem arrival_wave_block : ((arrival u w pcb uid x.block b bn n).wave w).block = x.block := by
  rw [arrival, State.modBlock_wave, State.withHold_wave, Wave.holdPath_block, hu.issued.wave_block]

include hb

theorem arrival_block : ∃ k : Block, kget (arrival u w pcb uid x.block b bn n).blocks x.block = some (k.setBar bn ((b.bar bn).arrived n)) ∧
    k.bars = b.bars ∧ k.nwaves = b.nwaves := by
  obtain ⟨k, hk, hkb, -⟩ := hu.same.queues.present b hb
  refine ⟨k, ?_, (congrArg Block.bars hkb :), (congrArg Block.nwaves hkb :)⟩
  rw [arrival, State.kget_modBlock, if_pos rfl]
  exact congrArg (Option.map _) hk

theorem arrival_target (hw : kget s.waves w = some x) (r : Barrier) :
    (arrival u w pcb uid x.block b bn n).barTarget x.block r = s.barTarget x.block r := by
  obtain ⟨k, hk, -, hn⟩ := arrival_block hu hb uid bn n
  unfold State.barTarget
  rw [liveWaves_congr hb hk hn]
  intro v
  rw [arrival, State.modBlock_wave]
  by_cases hv : v = w
  · subst hv
    rw [State.withHold_wave, Wave.holdPath_ended, hu.went.ended, wave_of hw]
  · unfold State.wave
    rw [State.withHold_waves _ _ _ hv, hu.issued.others v hv]
end

/-! ### The two ends of a BAR -/

/-- The paths of a barrier's phase that is complete, once all of them have left and the path of the BAR has been looked at. -/
theorem completed_paths {a t : State} {n phase ts : Nat} {ws : List Nat} (hleft : Leaves n phase ts a t)
    (hfreed : ∀ v ∈ ws, ∀ q, ((a.wave v).path q).atBar n phase = true → ((t.wave v).path q).hold = .none)
    (hts : ∀ v ∈ ws, ∀ q, ((a.wave v).path q).atBar n phase = true → (a.wave v).pts ≤ ts) {w : Nat} {pcb : Bool}
    (hself : ((a.wave w).path pcb).atBar n phase = true) :
    let r := t.settlePath w pcb
    (∀ v ∈ ws, ∀ q, ((a.wave v).path q).atBar n phase = true → ((r.wave v).path q).hold = .none ∧
      ∀ v' ∈ ws, ∀ q', ((a.wave v').path q').atBar n phase = true → (a.wave v').pts ≤ (r.wave v).pts) ∧
    (∀ v q, ((a.wave v).path q).atBar n phase = false → (r.wave v).path q = (a.wave v).path q) ∧ r.blocks = t.blocks := by
  intro r
  have hlast : Leaves n phase 0 t r := by
    refine leaves_settlePath ?_
    rcases hleft.path w pcb with hsame | ⟨-, hnone, -⟩
    · rw [hsame]; exact .inr (atBar_iff.1 hself).2
    · exact .inl hnone
  refine ⟨fun v hv q hat => ⟨hlast.free (hfreed v hv q hat), fun v' hv' q' hat' => (hts v' hv' q' hat').trans ?_⟩,
    fun v q hnot => ?_, hlast.blocks⟩
  · rcases hleft.path v q with hsame | ⟨-, -, hle⟩
    · have hnone := hfreed v hv q hat
      rw [hsame] at hnone
      rw [atBar_none hnone] at hat
      exact absurd hat (by decide)
    · exact hle.trans (hlast.pts v)
  · rw [hlast.stays (by rw [hleft.stays hnot]; exact hnot), hleft.stays hnot]

section
variable {a : State} {w : Nat} {pcb : Bool} {uid bid bn n : Nat} {b k : Block} (hk : kget a.blocks bid = some (k.setBar bn ((b.bar bn).arrived n)))
  (hholds : Holding a w pcb (.bar uid bn (b.bar bn).phase))
include hk hholds

/-- Before the target is reached nothing else happens. -/
theorem settle_before_target (hblock : (a.wave w).block = bid)
    (hlt : ((b.bar bn).arrived n).arrivals < a.barTarget bid ((b.bar bn).arrived n)) : (a.completeBar bid bn).settlePath w pcb = a := by
  have hbar : (k.setBar bn ((b.bar bn).arrived n)).bar bn = (b.bar bn).arrived n := (setBar_bar ..).trans (if_pos rfl)
  rw [completeBar_waits hk (by rw [hbar]; exact hlt), hholds.settle_bar (by rw [hblock, hk]), hbar]
  exact if_neg (not_not.2 rfl)

/-- At the target every path held at the phase goes on, at the time of the latest wave or later, and the next phase begins. -/
theorem settle_at_target (hbars : k.bars = b.bars) (hle : a.barTarget bid ((b.bar bn).arrived n) ≤ ((b.bar bn).arrived n).arrivals) :
    let t := (a.completeBar bid bn).settlePath w pcb
    (∃ k', kget t.blocks bid = some k' ∧ k'.bar bn = (b.bar bn).next ∧ ∀ m, m ≠ bn → k'.bar m = b.bar m) ∧
    (∀ v ∈ blockWaves bid k.nwaves, ∀ q, ((a.wave v).path q).atBar bn (b.bar bn).phase = true → ((t.wave v).path q).hold = .none ∧
      ∀ v' ∈ blockWaves bid k.nwaves, ∀ q', ((a.wave v').path q').atBar bn (b.bar bn).phase = true → (a.wave v').pts ≤ (t.wave v).pts) ∧
    (∀ v q, ((a.wave v).path q).atBar bn (b.bar bn).phase = false → (t.wave v).path q = (a.wave v).path q) := by
  have hbar : (k.setBar bn ((b.bar bn).arrived n)).bar bn = (b.bar bn).arrived n := (setBar_bar ..).trans (if_pos rfl)
  rw [completeBar_completes hk (by rw [hbar]; exact Nat.succ_ne_zero _) (by rw [hbar]; exact hle), hbar]
  obtain ⟨hleft, hfreed⟩ := leaveAll (a.latestAt bn (b.bar bn).phase (blockWaves bid k.nwaves) 0) (·.atBar bn (b.bar bn).phase)
    (blockWaves bid k.nwaves) (a.modBlock bid fun k => k.setBar bn (b.bar bn).next)
  obtain ⟨hgone, hstays, hblocks⟩ := completed_paths hleft hfreed (le_latestAt a bn (b.bar bn).phase (blockWaves bid k.nwaves) 0).2
    (atBar_iff.2 ⟨hholds.live, _, hholds.hold⟩)
  refine ⟨⟨(k.setBar bn ((b.bar bn).arrived n)).setBar bn (b.bar bn).next, (congrArg (kget · bid) (hblocks.trans hleft.blocks)).trans ?_,
    (setBar_bar ..).trans (if_pos rfl), fun m hm => ?_⟩, hgone, hstays⟩
  · rw [State.kget_modBlock, if_pos rfl, hk]
    rfl
  · rw [setBar_bar, if_neg hm, setBar_bar, if_neg hm, bar_congr hbars]
end

/-- Settles O29: the arrival is counted at the block as the issue left it, and its target is that of the state before. -/
theorem barrierArrival : Obligations.BarrierArrival := by
  intro s w pcb x f bn n b ht ha hpark hstopped hb
  have hu := moved_underway ht.wave pcb f
  rw [execBar_eq ht ha hb]
  generalize moved s w pcb f = u at hu
  have hholds := arrival_holds (b := b) hu s.uid bn.toNat n.toNat ht.live hpark hstopped
  have hblock := arrival_wave_block (b := b) hu s.uid bn.toNat n.toNat
  have htarget := arrival_target hu hb s.uid bn.toNat n.toNat ht.wave ((b.bar bn.toNat).arrived n.toNat)
  obtain ⟨k, hk, hbars, hnwaves⟩ := arrival_block hu hb s.uid bn.toNat n.toNat
  refine ⟨u, hu, fun hlt => ?waits, fun hle => ⟨_, rfl, ?completes⟩⟩
  case waits =>
    rw [settle_before_target hk hholds hblock (by rw [htarget]; exact hlt)]
    rfl
  case completes =>
    have hends := settle_at_target hk hholds hbars (by rw [htarget]; exact hle)
    rw [hnwaves] at hends
    exact hends
end Sys2Proof.Machine
end

section
/-! PROOF. Accesses at their issue, and the issue of the hurdle instructions (R126, R190, R219). -/
namespace Sys2Proof.Machine
open Sys2Proof

/-! ### An access enters the table (R219) -/

/-- The FIFO that a port is bound to. -/
theorem fifoOf_fst (s : State) (x : Wave) (r : Reg) :
    (s.fifoOf x r).map (·.1) = (kget s.blocks x.block).bind fun b => kget b.binds (r.toNat - 240) := by
  rw [State.fifoOf_eq, Option.map_bind]
  refine congrArg _ (funext fun b => ?_)
  rw [Function.comp, Option.map_map]
  exact Option.map_id'

/-- Two states with the same bindings bind a port to the same FIFO. -/
theorem fifoOf_fst_congr {s t : State} {x y : Wave} (hblock : y.block = x.block)
    (h : (kget t.blocks x.block).map (·.binds) = (kget s.blocks x.block).map (·.binds)) (r : Reg) :
    (t.fifoOf y r).map (·.1) = (s.fifoOf x r).map (·.1) := by
  have hbind (o : Option Block) : (o.bind fun b => kget b.binds (r.toNat - 240)) = (o.map (·.binds)).bind fun t => kget t (r.toNat - 240) := by
    cases o <;> rfl
  rw [fifoOf_fst, fifoOf_fst, hblock, hbind, hbind, h]

theorem Begun.binds {s t u : State} {w : Nat} {pcb : Bool} {x : Wave} {f : Sched} {lat : Option Nat} (h : Begun s t w pcb x f lat)
    (e : Effect t u w) : (kget u.blocks x.block).map (·.binds) = (kget s.blocks x.block).map (·.binds) := by
  obtain ⟨q, hq⟩ := e.blocks x.block
  rw [hq, h.blocks, if_pos rfl, h.wave_block]
  cases kget s.blocks x.block <;> simp

/-- The state in which an instruction of unknown latency has issued, the ports among its sources have popped, and its path has moved on. -/
def popped (s : State) (w : Nat) (pcb : Bool) (f : Sched) (x : Wave) (pops : List Reg) : State :=
  ((s.beginIssue w pcb f none).popPorts x pops).advance w pcb

/-- The state in which an access has issued: it is the youngest of its wave. -/
def pended (s : State) (w : Nat) (pcb : Bool) (f : Sched) (op : AccOp) (mask : BitVec 32) (uni : Bool) (rs second : List Req)
    (pops : List Reg) : State :=
  (popped s w pcb f (s.wave w) pops).enqueue w pcb ((s.wave w).path pcb).pc op mask uni rs second

theorem issueAcc_ok {s : State} {w : Nat} {pcb : Bool} {f : Sched} {op : AccOp} {mask : BitVec 32} {uni : Bool} {align : Nat} {rd wr : Bool}
    {rs second cs : List Req} {pops : List Reg} {cut : List Req → List Req} (h : s.checkAll (s.wave w) align rd wr (rs ++ second) = .ok cs) :
    s.issueAcc w pcb f op mask uni align rd wr rs second pops cut =
      pended s w pcb f op mask uni (cut (cs.take rs.length)) (cs.drop rs.length) pops := by
  unfold State.issueAcc
  dsimp only
  rw [h]
  rfl

/-! A change of the table of a wave's accesses is none of what an issue keeps or does. -/

section
variable {s t : State} {w : Nat} {pcb : Bool} {x : Wave} {f : Sched} (g : Wave → List Acc)

theorem Issued.modPend (h : Issued s t w x f) : Issued s (t.modWave w fun y => { y with pend := g y }) w x f := by
  obtain ⟨hrest, hbytes, hothers, hblocks, hpresent, hclk, huid, hkept⟩ := h
  refine ⟨hrest, hbytes, fun v hv => (waves_modWave t _ hv).trans (hothers v hv), hblocks, ?_, hclk, huid, ?_⟩
  · rw [kget_modWave, if_pos rfl, State.wave_modWave_same]
  · rw [State.wave_modWave_same]; exact hkept

theorem Went.modPend {pc : Addr} (h : Went t w pcb x pc) : Went (t.modWave w fun y => { y with pend := g y }) w pcb x pc := by
  obtain ⟨hsibling, hpath, hstack, hended⟩ := h
  constructor <;> rw [State.wave_modWave_same]
  · exact hsibling
  · exact hpath
  · exact hstack
  · exact hended

theorem Counted.modPend {lat : Option Nat} (h : Counted s t w x f lat) :
    Counted s (t.modWave w fun y => { y with pend := g y }) w x f lat := by
  obtain ⟨hothers, hsig⟩ := h
  constructor <;> rw [State.wave_modWave_same]
  · exact hothers
  · exact hsig
end

section
variable {s : State} {w : Nat} {x : Wave} (h : kget s.waves w = some x) (pcb : Bool) (f : Sched) (pops : List Reg)
include h

theorem popped_effect : Effect (s.beginIssue w pcb f none) ((s.beginIssue w pcb f none).popPorts x pops) w ∧
    ((s.beginIssue w pcb f none).popPorts x pops).wave w = (s.beginIssue w pcb f none).wave w := by
  have hbegun := State.beginIssue_begun h pcb f none
  obtain ⟨heffect, hwaves, -⟩ := State.popPorts_spec (x := x) hbegun.present hbegun.wave_block pops
  exact ⟨heffect, State.wave_congr hwaves w⟩

theorem popped_queues : Queues s (popped s w pcb f x pops) x pops none [] := by
  have hbegun := State.beginIssue_begun h pcb f none
  obtain ⟨-, -, habsent, hpresent⟩ := State.popPorts_spec (x := x) hbegun.present hbegun.wave_block pops
  refine Queues.of hbegun habsent fun k hk => ?_
  obtain ⟨k', hk', hrest, hq⟩ := hpresent k hk
  exact ⟨k', hk', hrest, fun q => by rw [hq, List.append_nil]⟩

theorem popped_regs : let y := (popped s w pcb f x pops).wave w
    y.s = x.s ∧ y.v = x.v ∧ y.p = x.p ∧ y.lfsr = x.lfsr := by
  obtain ⟨as, av, ap, al⟩ := State.advance_regs ((s.beginIssue w pcb f none).popPorts x pops) w pcb
  obtain ⟨bs, bv, bp, bl⟩ := (State.beginIssue_begun h pcb f none).regs
  rw [(popped_effect h pcb f pops).2] at as av ap al
  exact ⟨as.trans bs, av.trans bv, ap.trans bp, al.trans bl⟩

theorem popped_issued : ((popped s w pcb f x pops).wave w).issued = x.issued + 1 := by
  obtain ⟨_, _, _, _, hw⟩ := (State.beginIssue_begun h pcb f none).wave
  rw [popped, State.advance, State.wave_modWave_same, Wave.goto_issued, (popped_effect h pcb f pops).2, hw]

theorem popped_binds : (kget (popped s w pcb f x pops).blocks x.block).map (·.binds) = (kget s.blocks x.block).map (·.binds) := by
  have hbinds := (State.beginIssue_begun h pcb f none).binds (popped_effect h pcb f pops).1
  exact hbinds

theorem pended_pends (op : AccOp) (mask : BitVec 32) (uni : Bool) (rs second : List Req) :
    Pends s (pended s w pcb f op mask uni rs second pops) w pcb x f op mask uni rs second pops := by
  obtain ⟨hissued, hwent, hpend, hcounted⟩ := issued_advance (pcb := pcb) h (popped_effect h pcb f pops).1
  obtain ⟨hs, hv, hp, hl⟩ := popped_regs h pcb f pops
  rw [← popped] at hissued hwent hpend hcounted
  have hfifo := fifoOf_fst_congr hissued.wave_block (popped_binds h pcb f pops)
  have hnth := popped_issued h pcb f pops
  have hqueues := popped_queues h pcb f pops
  rw [pended, wave_of h]
  generalize popped s w pcb f x pops = t at *
  refine ⟨hissued.modPend _, hwent.modPend _, hcounted.modPend _, ?_, ?_, ?_, ?_, ?_, hqueues.congr rfl⟩ <;>
    rw [State.enqueue, State.wave_modWave_same]
  · simp only [hpend, newAcc, hnth, hissued.uid, hfifo]
    rfl
  · exact hs
  · exact hv
  · exact hp
  · exact hl
end

/-! ### The issue of a hurdle instruction (R126) -/

section
variable {s : State} {w : Nat} {pcb : Bool} {x : Wave} {f : Sched} {off : BitVec 20} {own : Bool} {a b : Reg}
  (ht : Turn s w pcb x) (ha : activeAt s w pcb f ≠ 0)
include ht ha

/-- A hurdle instruction raises what the check of its hurdle finds; once that and the check of its range pass, it becomes an access of the
16 bytes there, and `k` follows. -/
theorem hurdleOp_spec (op : BitVec 64 → AccOp) (k : Nat → Bool → Wave → Nat → BitVec 64 → BitVec 32 → State → State) :
    let r := s.atIssue w f
    let act := activeAt s w pcb f
    let e := r.ea (r.wave w) a off 0
    let v := readAt s w f b
    (∀ c, r.hurdleCheck (r.wave w) own true e = some c →
      hurdleOp s f off own a b op k = .next (s.raiseIssue w pcb f { Trap.of c act with va := e % 2 ^ 56 })) ∧
    (∀ cs, r.hurdleCheck (r.wave w) own true e = none → s.checkAll x 16 true true [mkReq 0 0 e 16 0] = .ok cs →
      ∃ u, Pends s u w pcb x f (op v) act true (cs.take 1) (cs.drop 1) [] ∧
        hurdleOp s f off own a b op k = .next (k w pcb (r.wave w) e v act u)) := by
  rw [hurdleOp, timed_active ht ha]
  dsimp only
  refine ⟨fun c hc => by rw [hc], fun cs hc hcs => ⟨_, pended_pends ht.wave .., ?_⟩⟩
  rw [← wave_of ht.wave] at hcs
  rw [hc, issueAcc_ok hcs]
  rfl

/-- HDL.INIT, in either spelling. -/
theorem hdlInitOp_spec :
    let r := s.atIssue w f
    let act := activeAt s w pcb f
    let e := r.ea (r.wave w) a off 0
    let v := readAt s w f b
    (∀ c, r.hurdleCheck (r.wave w) true true e = some c →
      hdlInitOp s f off a b = .next (s.raiseIssue w pcb f { Trap.of c act with va := e % 2 ^ 56 })) ∧
    (∀ cs, r.hurdleCheck (r.wave w) true true e = none → s.checkAll x 16 true true [mkReq 0 0 e 16 0] = .ok cs →
      ∃ u, Pends s u w pcb x f (.hdlInit v false) act true (cs.take 1) (cs.drop 1) [] ∧
        hdlInitOp s f off a b = .next (if v.getLsbD 31 ∨ u.hasTracker x.block e then u else (u.takeTracker x.block e).modWave w fun y =>
          { y with pend := y.pend.map fun q => if q.uid = s.uid then q.setTook true else q })) := by
  rw [← State.atIssue_block ht.wave f]
  exact hurdleOp_spec ht ha ..
end

/-- Settles O30: each instruction is its check, then its access and what follows the issue. -/
theorem hurdleIssue : Obligations.HurdleIssue := by
  intro s w pcb x f off d a b ht ha
  simp only [List.forall_mem_cons, List.not_mem_nil, false_imp_iff, implies_true, and_true, exec_hdlInit, exec_hdlInitRelease, exec_hdlExpect,
    exec_hdlArrive, exec_hdlWait, exec_hdlTest, execHdlInit, execHdlInitRelease, execHdlExpect, execHdlArrive, execHdlWait, execHdlTest]
  exact ⟨hdlInitOp_spec ht ha, hdlInitOp_spec ht ha, hurdleOp_spec ht ha .., hurdleOp_spec ht ha .., hurdleOp_spec ht ha ..,
    hurdleOp_spec ht ha ..⟩
end Sys2Proof.Machine
end

section
/-! PROOF. QBIND (R133). -/
namespace Sys2Proof.Machine
open Sys2Proof

/-- The bindings of a block's ports once QBIND has named one. -/
def Block.bind (b : Block) (port : Nat) (fifo : Option Nat) : Block :=
  { b with binds := match fifo with
      | some q => kset b.binds port q
      | none => kdel b.binds port }

theorem bind_port (b : Block) (port : Nat) (fifo : Option Nat) (p : Nat) :
    kget (b.bind port fifo).binds p = if p = port then fifo else kget b.binds p := by
  cases fifo with
  | none => exact kget_kdel ..
  | some q => exact kget_kset ..

/-- Settles O31: after an issue alone, the one port's binding changes in the wave's block. -/
theorem qbindResult : Obligations.QbindResult := by
  intro s w pcb x f fifo on d ht ha
  obtain ⟨hfixed, hsame⟩ := idled_spec (pcb := pcb) ht.wave f 0
  refine ⟨_, hfixed, hsame, (idled s w pcb f 0).modBlock x.block fun b => b.bind (d.toNat - 240) (if on then some fifo.toNat else none),
    ?_, rfl, fun b hb => ?_, fun b hb => ⟨b.bind _ _, ?_, rfl, bind_port b _ _⟩⟩
  · rw [exec_qbind, execQbind, timed_active ht ha, State.atIssue_block ht.wave]
    cases on <;> rfl
  · rw [State.kget_modBlock, if_neg hb, hfixed.issued.blocks b hb]
  · rw [State.kget_modBlock, if_pos rfl, hb]
    rfl
end Sys2Proof.Machine
end

section
/-! PROOF. Limits that pass: paths that a limit lets go or traps, wherever they stand (R77, R128, R130, R180). -/
namespace Sys2Proof.Machine
open Sys2Proof

/-! ### Records that an exception keeps -/

/-- No divergence stack differs. -/
def SameStacks (s t : State) : Prop := ∀ v, (t.wave v).stack = (s.wave v).stack

section
variable {s t u : State}

theorem SameStacks.refl : SameStacks s s := fun _ => rfl

theorem SameStacks.trans (h : SameStacks s t) (g : SameStacks t u) : SameStacks s u := fun v => (g v).trans (h v)

theorem SameStacks.foldl {α : Type} {l : List α} {op : State → α → State} (h : ∀ t a, SameStacks t (op t a)) (s : State) :
    SameStacks s (l.foldl op s) :=
  List.foldlRecOn (motive := SameStacks s) l op SameStacks.refl fun t ht a _ => ht.trans (h t a)
end

theorem sameStacks_modWave (s : State) (w : Nat) {g : Wave → Wave} (hg : ∀ y, (g y).stack = y.stack) : SameStacks s (s.modWave w g) := by
  intro v
  by_cases hv : v = w
  · subst hv
    rw [State.wave_modWave_same, hg]
  · rw [wave_modWave_ne s g hv]

theorem sameStacks_modBlock (s : State) (b : Nat) (g : Block → Block) : SameStacks s (s.modBlock b g) := fun _ => rfl

theorem stopParked_stack (x : Wave) (p : Park) : (x.stopParked p).stack = x.stack := by
  unfold Wave.stopParked
  dsimp only
  split
  · split
    · exact Wave.setPath_stack ..
    · rfl
  · rfl

theorem sameStacks_standAt (s : State) (w : Nat) (pcb : Bool) (uid : Nat) : SameStacks s (s.standAt w pcb uid) :=
  sameStacks_modWave s w fun _ => Wave.setPath_stack ..

theorem sameStacks_cancelCmds (s : State) (keep : Cmd → Bool) : SameStacks s (s.cancelCmds keep) := by
  unfold State.cancelCmds
  dsimp only
  refine SameStacks.trans (t := { s with cmds := s.cmds.filter fun e => e.2.started || keep e.2 }) (fun _ => rfl)
    (SameStacks.foldl (fun t e => ?_) _)
  exact sameStacks_modWave t _ fun _ => rfl

theorem sameStacks_requestHalt (s : State) (w : Nat) (pcb : Bool) (t : Trap) : SameStacks s (s.requestHalt w pcb t) := by
  unfold State.requestHalt
  dsimp only
  split
  · exact SameStacks.refl
  · next b hb =>
    by_cases hstopping : b.stopping = true
    · simp only [hstopping, if_true]
      refine SameStacks.trans ?_ (sameStacks_modBlock _ _ _)
      exact sameStacks_modWave s w fun _ => rfl
    · simp only [hstopping]
      refine SameStacks.trans (SameStacks.trans (SameStacks.trans ?_ (sameStacks_cancelCmds _ _)) (SameStacks.foldl (fun t v => ?_) _)) fun _ => rfl
      · exact sameStacks_modWave s w fun _ => rfl
      split
      · exact sameStacks_modWave t v fun y => stopParked_stack ..
      · exact SameStacks.refl

theorem sameStacks_raise (s : State) (w : Nat) (pcb : Bool) (t : Trap) : SameStacks s (s.raise w pcb t) := by
  unfold State.raise
  dsimp only
  split
  · unfold State.trapControl
    dsimp only
    split
    · exact SameStacks.refl
    · exact sameStacks_modWave _ w fun _ => Wave.setPath_stack ..
  · exact sameStacks_requestHalt s w pcb t

/-! ### The paths of a divergence stack that are looked at (R77) -/

/-- Nothing happens to a stack without a path that is to be looked at. -/
theorem eachSpilled_none {s : State} {w : Nat} {hit : Path → Bool} (h : ∀ p, DivRec.path p ∈ (s.wave w).stack → hit p = false)
    (g : State → State) : s.eachSpilled w hit g = s := by
  refine List.foldl_fixed' (fun i => ?_) _
  split
  · next p st hdrop =>
    rw [h p (List.mem_of_mem_drop (hdrop ▸ List.mem_cons_self)), if_neg Bool.false_ne_true]
  · rfl

section
variable {s : State} {w : Nat} {g : State → State} {p : Path} {st : List DivRec} (hst : (s.wave w).stack = .path p :: st)
include hst

theorem atSpilled_top : s.atSpilled w 0 g = (g (s.inPca w p)).modWave w fun y => (s.wave w).putBack y 0 := atSpilled_path (i := 0) hst g

theorem atSpilled_top_wave : (s.atSpilled w 0 g).wave w = (s.wave w).putBack ((g (s.inPca w p)).wave w) 0 := by
  rw [atSpilled_top hst, State.wave_modWave_same]

theorem atSpilled_top_stack (hg : SameStacks (s.inPca w p) (g (s.inPca w p))) :
    ((s.atSpilled w 0 g).wave w).stack = .path ((g (s.inPca w p)).wave w).pca :: st := by
  rw [atSpilled_top_wave hst]
  show ((g (s.inPca w p)).wave w).stack.set 0 _ = _
  rw [hg w, State.inPca_wave]
  exact congrArg (List.set · 0 _) hst

/-- A path on top of the stack is the only one that is looked at, where none of the others is to be. -/
theorem eachSpilled_top {hit : Path → Bool} (hp : hit p = true) (hrest : ∀ q, DivRec.path q ∈ st → hit q = false)
    (hg : SameStacks (s.inPca w p) (g (s.inPca w p))) : s.eachSpilled w hit g = s.atSpilled w 0 g := by
  have hafter := atSpilled_top_stack hst hg
  unfold State.eachSpilled
  rw [hst, List.length_cons, List.range_succ_eq_map, List.foldl_cons, List.foldl_map]
  simp only [hst, List.drop_zero, hp, if_true]
  refine List.foldl_fixed' (fun i => ?_) _
  rw [hafter, List.drop_succ_cons]
  split
  · next q st' hdrop =>
    rw [hrest q (List.mem_of_mem_drop (hdrop ▸ List.mem_cons_self)), if_neg Bool.false_ne_true]
  · rfl
end
end Sys2Proof.Machine
end

section
/-! PROOF. The events of time limits (R128, R130, R180, R198, R227). -/
namespace Sys2Proof.Machine
open Sys2Proof

/-! ### A held path that goes on with a result -/

/-- A held path of a wave has gone on with a uniform result, and its instruction is complete: nothing else has changed but what the wave
knows of older contents, and its watches. -/
structure Wakes (s t : State) (w : Nat) (pcb : Bool) (uid : Nat) (d : Reg) (val : BitVec 64) : Prop where
  rest : { t with waves := s.waves } = s
  others : ∀ v, v ≠ w → kget t.waves v = kget s.waves v
  path : (t.wave w).path pcb = { (s.wave w).path pcb with hold := .none }
  sibling : (t.wave w).path (!pcb) = (s.wave w).path (!pcb)
  stack : (t.wave w).stack = (s.wave w).stack
  sRegs : WritesS (s.wave w) (t.wave w) d val
  vRegs : (t.wave w).v = (s.wave w).v
  preds : (t.wave w).p = (s.wave w).p
  ctrs : ∀ n, (t.wave w).ctr n = ((s.wave w).ctr n).mapToks fun k =>
    if k.uid = uid then { k with done := true, err := 0, info := 0, pts := 0 } else k

theorem Wakes.of {s u : State} {w : Nat} {d : Reg} {val : BitVec 64} (hrest : { u with waves := s.waves } = s)
    (hothers : ∀ v, v ≠ w → kget u.waves v = kget s.waves v)
    (hkept : ∃ sr un la ba ws, u.wave w = { s.wave w with s := sr, undo := un, late := la, bad := ba, watches := ws })
    (hwrites : WritesS (s.wave w) (u.wave w) d val) (pcb : Bool) (uid : Nat) : Wakes s (u.release w pcb uid 0) w pcb uid d val := by
  obtain ⟨sr, un, la, ba, ws, hkept⟩ := hkept
  have hpath (q : Bool) : (u.wave w).path q = (s.wave w).path q := by rw [hkept]; rfl
  have hwave := release_wave u w pcb uid 0
  refine ⟨hrest, fun v hv => (waves_modWave u _ hv).trans (hothers v hv), ?_, ?_, ?_, fun n => ?_, ?_, ?_, fun n => ?_⟩
  · rw [release_path, if_pos ⟨rfl, rfl⟩, hpath]
  · rw [release_path, if_neg (by simp), hpath]
  · rw [hwave, hkept]; exact Wave.holdPath_stack ..
  · rw [← hwrites n, hwave]
    exact congrArg (dget 0 · n) (Wave.holdPath_s ..)
  · rw [hwave, hkept]; exact Wave.holdPath_v ..
  · rw [hwave, hkept]; exact Wave.holdPath_p ..
  · rw [hwave, complete_ctr, hkept]
    exact congrArg (Ctr.mapToks · _) (Wave.holdPath_ctr ..)

theorem finishWaitw_wakes (s : State) (w : Nat) (pcb : Bool) (uid : Nat) (ready : BitVec 4) (d : Reg) :
    Wakes s (s.finishWaitw w pcb uid ready d) w pcb uid d (ready.setWidth 64) :=
  Wakes.of (returned_rest ..) (fun _ hv => returned_waves _ _ _ _ _ hv) (returned_kept ..) (returned_writes s w uid ready d) pcb uid

theorem putU_wakes (s : State) (w : Nat) (pcb : Bool) (uid : Nat) (d : Reg) (val : BitVec 64) :
    Wakes s ((s.putU w uid d val).release w pcb uid 0) w pcb uid d val :=
  Wakes.of rfl (fun _ hv => waves_modWave _ _ hv) ⟨_, _, _, _, _, (putU_spec ..).1⟩ (putU_spec ..).2 pcb uid

theorem Wakes.sameStacks {s t : State} {w : Nat} {pcb : Bool} {uid : Nat} {d : Reg} {val : BitVec 64} (h : Wakes s t w pcb uid d val) :
    SameStacks s t := by
  intro v
  by_cases hv : v = w
  · subst hv; exact h.stack
  · unfold State.wave; rw [h.others v hv]

/-! ### HDL.WAIT and WAITW whose limits pass (R128, R130) -/

section
variable {s : State} {w : Nat} {pcb : Bool} {uid : Nat} {limit : Option Nat}

theorem hurdleTimeout_eq {va : Nat} {par : Bool} {mask : BitVec 32} (h : ((s.wave w).path pcb).hold = .hdlWait uid va par true limit mask) :
    s.hurdleTimeout w pcb = if s.waiting w pcb && s.limitPassed ((s.wave w).path pcb) limit
      then (s.standAt w pcb uid).raise w pcb (Trap.of 14 mask) else s := by
  unfold State.hurdleTimeout
  rw [h]

theorem waitwExpiry_eq {mask : BitVec 4} {d : Reg} (h : ((s.wave w).path pcb).hold = .waitw uid mask limit d) :
    s.waitwExpiry w pcb = if s.waiting w pcb && s.limitPassed ((s.wave w).path pcb) limit
      then s.finishWaitw w pcb uid ((s.wave w).readyWatches mask) d else s := by
  unfold State.waitwExpiry
  rw [h]
end

theorem waiting_live {s : State} {w : Nat} {pcb : Bool} (h : s.waiting w pcb = true) : ((s.wave w).path pcb).live = true := by
  unfold State.waiting at h
  simp only [Bool.and_eq_true] at h
  exact h.1.1.1

section
variable {s : State} {w : Nat} {pcb : Bool}

/-- A path whose HDL.WAIT has no limit that has passed meets no timeout. -/
theorem hurdleTimeout_early (h : s.hurdleLate ((s.wave w).path pcb) = false) : s.hurdleTimeout w pcb = s := by
  unfold State.hurdleTimeout
  split
  · next uid va par limit mask hhold =>
    refine if_neg fun hpassed => ?_
    rw [Bool.and_eq_true] at hpassed
    unfold State.hurdleLate at h
    rw [hhold, waiting_live hpassed.1] at h
    exact absurd (hpassed.2.symm.trans h) (by decide)
  · rfl

theorem waitwExpiry_early (h : s.waitwLate ((s.wave w).path pcb) = false) : s.waitwExpiry w pcb = s := by
  unfold State.waitwExpiry
  split
  · next uid mask limit d hhold =>
    refine if_neg fun hpassed => ?_
    rw [Bool.and_eq_true] at hpassed
    unfold State.waitwLate at h
    rw [hhold, waiting_live hpassed.1] at h
    exact absurd (hpassed.2.symm.trans h) (by decide)
  · rfl

theorem sameStacks_hurdleTimeout : SameStacks s (s.hurdleTimeout w pcb) := by
  unfold State.hurdleTimeout
  split
  · split
    · exact SameStacks.trans (sameStacks_standAt s w pcb _) (sameStacks_raise _ w pcb _)
    · exact SameStacks.refl
  · exact SameStacks.refl

theorem sameStacks_waitwExpiry : SameStacks s (s.waitwExpiry w pcb) := by
  unfold State.waitwExpiry
  split
  · split
    · exact (finishWaitw_wakes ..).sameStacks
    · exact SameStacks.refl
  · exact SameStacks.refl
end

/-- A spilled path that stands in PCA's place may meet its limit when its wave may. -/
theorem waiting_inPca {s : State} {w : Nat} {x : Wave} {p : Path} (hw : kget s.waves w = some x) (hlive : p.live = true)
    (hcan : (x.park.isNone && !x.stopped && !s.waveAway x) = true) : (s.inPca w p).waiting w false = true := by
  have haway : (s.inPca w p).waveAway ((s.inPca w p).wave w) = s.waveAway x := by
    rw [State.inPca_wave, wave_of hw]; rfl
  unfold State.waiting
  dsimp only
  rw [haway, State.inPca_wave, wave_of hw]
  simpa [Wave.path, hlive, Bool.and_assoc] using hcan

section
variable {s : State} {w : Nat} {x : Wave} {st : List DivRec} {p : Path} (hw : kget s.waves w = some x)
include hw

/-- The stack of a wave, where a path on top of it is the only one whose limit has passed. -/
theorem execHurdleTimeout_spilled {pcb : Bool} {uid va : Nat} {par : Bool} {limit : Option Nat} {mask : BitVec 32}
    (hearly : s.hurdleLate (x.path pcb) = false) (hcan : (x.park.isNone && !x.stopped && !s.waveAway x) = true)
    (hst : x.stack = .path p :: st) (hlive : p.live = true) (hrest : ∀ q, DivRec.path q ∈ st → s.hurdleLate q = false)
    (hhold : p.hold = .hdlWait uid va par true limit mask) (hpassed : s.limitPassed p limit = true) :
    exec (.hurdleTimeout w pcb) s = .next (s.atSpilled w 0 fun u => (u.standAt w false uid).raise w false (Trap.of 14 mask)) := by
  have hx := wave_of hw
  have hlate : s.hurdleLate p = true := by unfold State.hurdleLate; rw [hlive, hhold]; exact hpassed
  have hin : ((s.inPca w p).wave w).path false = p := by rw [State.inPca_wave]; rfl
  rw [exec_hurdleTimeout, execHurdleTimeout, hurdleTimeout_early (by rw [hx]; exact hearly),
    eachSpilled_top (by rw [hx]; exact hst) hlate hrest sameStacks_hurdleTimeout, atSpilled_top (by rw [hx]; exact hst),
    atSpilled_top (by rw [hx]; exact hst), hurdleTimeout_eq (by rw [hin]; exact hhold), if_pos]
  rw [hin, waiting_inPca hw hlive hcan]
  exact hpassed

theorem execWaitwLimitExpiry_spilled {pcb : Bool} {uid : Nat} {limit : Option Nat} {mask : BitVec 4} {d : Reg}
    (hearly : s.waitwLate (x.path pcb) = false) (hcan : (x.park.isNone && !x.stopped && !s.waveAway x) = true)
    (hst : x.stack = .path p :: st) (hlive : p.live = true) (hrest : ∀ q, DivRec.path q ∈ st → s.waitwLate q = false)
    (hhold : p.hold = .waitw uid mask limit d) (hpassed : s.limitPassed p limit = true) :
    exec (.waitwLimitExpiry w pcb) s = .next (s.atSpilled w 0 fun u => u.finishWaitw w false uid (x.readyWatches mask) d) := by
  have hx := wave_of hw
  have hlate : s.waitwLate p = true := by unfold State.waitwLate; rw [hlive, hhold]; exact hpassed
  have hin : ((s.inPca w p).wave w).path false = p := by rw [State.inPca_wave]; rfl
  have hready : ((s.inPca w p).wave w).readyWatches mask = x.readyWatches mask := by rw [State.inPca_wave, hx]; rfl
  rw [exec_waitwLimitExpiry, execWaitwLimitExpiry, waitwExpiry_early (by rw [hx]; exact hearly),
    eachSpilled_top (by rw [hx]; exact hst) hlate hrest sameStacks_waitwExpiry, atSpilled_top (by rw [hx]; exact hst),
    atSpilled_top (by rw [hx]; exact hst), waitwExpiry_eq (by rw [hin]; exact hhold), if_pos, hready]
  rw [hin, waiting_inPca hw hlive hcan]
  exact hpassed
end

/-- A path on top of the stack that goes on with a result goes on in its place, and the two slots stay. -/
theorem atSpilled_wakes {s : State} {w : Nat} {p : Path} {st : List DivRec} {g : State → State} {uid : Nat} {d : Reg} {val : BitVec 64}
    (hst : (s.wave w).stack = .path p :: st) (h : Wakes (s.inPca w p) (g (s.inPca w p)) w false uid d val) :
    let t := s.atSpilled w 0 g
    { t with waves := s.waves } = s ∧ (∀ v, v ≠ w → kget t.waves v = kget s.waves v) ∧
    (t.wave w).stack = .path { p with hold := .none } :: st ∧ (t.wave w).pca = (s.wave w).pca ∧ (t.wave w).pcb = (s.wave w).pcb ∧
    WritesS (s.wave w) (t.wave w) d val := by
  obtain ⟨hrest, hothers, hpath, hsibling, -, hwrites, -, -, -⟩ := id h
  rw [State.inPca_wave] at hpath hsibling hwrites
  dsimp only
  rw [atSpilled_top_stack hst h.sameStacks, atSpilled_top_wave hst, atSpilled_top hst]
  refine ⟨congrArg (fun r : State => { r with waves := s.waves }) hrest, fun v hv => ?_, congrArg (DivRec.path · :: st) hpath, rfl,
    hsibling, hwrites⟩
  rw [waves_modWave _ _ hv, hothers v hv]
  exact waves_modWave s _ hv

section
variable {s : State} {w : Nat} {pcb : Bool} {x : Wave} {uid : Nat} {limit : Option Nat} (hw : kget s.waves w = some x)
include hw

/-- Where no spilled path has met its limit, the path named is all that a timeout can be of. -/
theorem execHurdleTimeout_named {va : Nat} {par : Bool} {mask : BitVec 32} (hhold : (x.path pcb).hold = .hdlWait uid va par true limit mask)
    (hcalm : ∀ p, DivRec.path p ∈ x.stack → s.hurdleLate p = false) :
    exec (.hurdleTimeout w pcb) s = .next (if s.waiting w pcb && s.limitPassed (x.path pcb) limit
      then (s.standAt w pcb uid).raise w pcb (Trap.of 14 mask) else s) := by
  have hx := wave_of hw
  rw [exec_hurdleTimeout, execHurdleTimeout, eachSpilled_none (by rw [sameStacks_hurdleTimeout w, hx]; exact hcalm),
    hurdleTimeout_eq (by rw [hx]; exact hhold), hx]

theorem execWaitwLimitExpiry_named {mask : BitVec 4} {d : Reg} (hhold : (x.path pcb).hold = .waitw uid mask limit d)
    (hcalm : ∀ p, DivRec.path p ∈ x.stack → s.waitwLate p = false) :
    exec (.waitwLimitExpiry w pcb) s = .next (if s.waiting w pcb = true ∧ s.limitPassed (x.path pcb) limit = true
      then s.finishWaitw w pcb uid (x.readyWatches mask) d else s) := by
  have hx := wave_of hw
  rw [exec_waitwLimitExpiry, execWaitwLimitExpiry, eachSpilled_none (by rw [sameStacks_waitwExpiry w, hx]; exact hcalm),
    waitwExpiry_eq (by rw [hx]; exact hhold), hx]
  simp only [Bool.and_eq_true]
end

/-! ### HALT (R180) -/

theorem haltWake_unheld {s : State} {w : Nat} {pcb : Bool} (h : ((s.wave w).path pcb).hold = .none) : s.haltWake w pcb = s := by
  unfold State.haltWake
  rw [h]

theorem haltWake_eq {s : State} {w : Nat} {pcb : Bool} {uid : Nat} {mask : BitVec 4} {limit : Option Nat} {d : Reg}
    (h : ((s.wave w).path pcb).hold = .halt uid mask limit d) (hsuper : (s.wave w).super = true) :
    let ev := s.haltEvents w (s.limitPassed ((s.wave w).path pcb) limit)
    s.haltWake w pcb = if s.waiting w pcb = true ∧ ev &&& mask ≠ 0 then (s.putU w uid d (ev.setWidth 64)).release w pcb uid 0 else s := by
  unfold State.haltWake
  rw [h]
  simp [hsuper]

theorem execHaltWake_eq {s : State} {w : Nat} {x : Wave} {uid : Nat} {mask : BitVec 4} {limit : Option Nat} {d : Reg}
    (hw : kget s.waves w = some x) (hpca : x.pca.hold = .halt uid mask limit d) (hpcb : x.pcb.hold = .none) (hsuper : x.super = true) :
    let ev := s.haltEvents w (s.limitPassed x.pca limit)
    exec (.haltWake w) s =
      .next (if s.waiting w false = true ∧ ev &&& mask ≠ 0 then (s.putU w uid d (ev.setWidth 64)).release w false uid 0 else s) := by
  intro ev
  have hx := wave_of hw
  have hfirst : s.haltWake w false = _ := haltWake_eq (by rw [hx]; exact hpca) (by rw [hx]; exact hsuper)
  rw [hx] at hfirst
  rw [exec_haltWake, execHaltWake, hfirst, haltWake_unheld]
  · rfl
  · split
    · exact (congrArg Path.hold (putU_wakes ..).sibling).trans (by rw [hx]; exact hpcb)
    · rw [hx]; exact hpcb

/-! ### The watchdog (R198) -/

/-- The older of a wave found so far and another. -/
def State.older (s : State) (m : Option Nat) (w : Nat) : Option Nat :=
  match m with
  | some v => if (s.wave w).age < (s.wave v).age then some w else some v
  | none => some w

theorem oldestWave_eq (s : State) (bid : Nat) : s.oldestWave bid = (s.liveWaves bid).foldl s.older none := rfl

/-- A wave that is older than all others is found, once it is met. -/
theorem foldl_older {s : State} {w : Nat} (l : List Nat) : ∀ m, (∀ v ∈ l, v ≠ w → (s.wave w).age < (s.wave v).age) →
    (m = some w ∨ w ∈ l ∧ ∀ v, m = some v → (s.wave w).age < (s.wave v).age) → l.foldl s.older m = some w := by
  induction l with
  | nil => exact fun m _ h => h.resolve_right fun e => List.not_mem_nil e.1
  | cons a l ih =>
    intro m hold h
    have hl : ∀ v ∈ l, v ≠ w → (s.wave w).age < (s.wave v).age := fun v hv => hold v (List.mem_cons_of_mem a hv)
    rw [List.foldl_cons]
    refine ih _ hl ?_
    by_cases haw : a = w
    · subst haw
      left
      rcases h with rfl | ⟨-, hm⟩
      · exact if_neg (lt_irrefl _)
      · cases m with
        | none => rfl
        | some v => exact if_pos (hm v rfl)
    · have hlt := hold a List.mem_cons_self haw
      rcases h with rfl | ⟨hmem, hm⟩
      · exact .inl (if_neg (not_lt.2 hlt.le))
      · refine .inr ⟨(List.mem_cons.1 hmem).resolve_left (Ne.symm haw), fun v hv => ?_⟩
        cases m with
        | none => cases hv; exact hlt
        | some u =>
          unfold State.older at hv
          dsimp only at hv
          split at hv <;> cases hv
          · exact hlt
          · exact hm _ rfl

theorem oldestWave_of {s : State} {bid w : Nat} (hw : w ∈ s.liveWaves bid)
    (hold : ∀ v ∈ s.liveWaves bid, v ≠ w → (s.wave w).age < (s.wave v).age) : s.oldestWave bid = some w := by
  rw [oldestWave_eq]
  exact foldl_older _ none hold (.inr ⟨hw, fun v hv => by cases hv⟩)

theorem execWatchdog_eq {s : State} {bid w : Nat} {b : Block} (hb : kget s.blocks bid = some b) (hold : s.oldestWave bid = some w) :
    exec (.watchdog bid) s = .next (if !b.away && !b.stopping && b.bark then
      s.raise w (s.wave w).lastPath (Trap.of 16 ((s.wave w).path (s.wave w).lastPath).mask) else s) := by
  rw [exec_watchdog, execWatchdog, State.haltBlock, hold, State.block?, hb]
  by_cases hbark : b.bark = true <;> simp [hbark]

/-! ### The creep (R227) -/

/-- Is a wave one of those of a core whose time the creep moves? -/
def State.creeps (s : State) (core : Nat) (y : Wave) : Bool := y.core == core && !y.ended && !s.waveAway y && (y.pca.live || y.pcb.live)

theorem creeps_iff (s : State) (core : Nat) (y : Wave) :
    s.creeps core y = true ↔ y.core = core ∧ y.ended = false ∧ s.waveAway y = false ∧ (y.pca.live = true ∨ y.pcb.live = true) := by
  unfold State.creeps
  simp only [Bool.and_eq_true, beq_iff_eq, Bool.not_eq_true', Bool.or_eq_true, and_assoc]

/-- The state once the time of a core's live waves has moved one tick on. -/
def State.creepOn (s : State) (core : Nat) : State := { s with
  crept := dset 0 s.crept core (dget 0 s.crept core + 1)
  waves := s.waves.map fun e => (e.1, if s.creeps core e.2 then { e.2 with pts := e.2.pts + 1 } else e.2) }

theorem execPtsCreep_eq (s : State) (core : Nat) : exec (.ptsCreep core) s =
    .next (if dget 0 s.crept core < (s.clk - dget 0 s.coreReset core) / 1024 then s.creepOn core else s) := rfl

theorem creepOn_crept (s : State) (core : Nat) : dget 0 (s.creepOn core).crept core = dget 0 s.crept core + 1 := by
  show dget 0 (dset 0 s.crept core (dget 0 s.crept core + 1)) core = _
  rw [dget_dset_same]

theorem creepOn_wave {s : State} {v : Nat} {y : Wave} (h : kget s.waves v = some y) (core : Nat) : kget (s.creepOn core).waves v =
    some (if y.core = core ∧ y.ended = false ∧ s.waveAway y = false ∧ (y.pca.live = true ∨ y.pcb.live = true)
      then { y with pts := y.pts + 1 } else y) := by
  refine (kget_map s.waves (fun _ y => if s.creeps core y then { y with pts := y.pts + 1 } else y) v).trans ?_
  rw [h, Option.map_some]
  simp only [creeps_iff]

/-- Settles O49: each event is one step of the path, wave, block or core that it names, once its condition holds. -/
theorem limitEvents : Obligations.LimitEvents := by
  intro s w pcb x hw
  have hx := wave_of hw
  refine ⟨fun uid va par limit mask hhold hcalm => execHurdleTimeout_named hw hhold hcalm,
    fun p st uid va par limit mask hearly hcan hst hlive hrest hhold hpassed =>
    execHurdleTimeout_spilled hw hearly hcan hst hlive hrest hhold hpassed,
    fun p st uid mask limit d hearly hcan hst hlive hrest hhold hpassed => ?spilled, fun uid mask limit d hhold hcalm => ?expiry,
    fun uid mask limit d hhold hnone hsuper => ?halt, fun b hb hmem hold => ?watchdog, ?creep⟩
  case spilled =>
    have hfacts := atSpilled_wakes (st := st) (g := fun u => u.finishWaitw w false uid (x.readyWatches mask) d) (by rw [hx]; exact hst)
      (finishWaitw_wakes (s.inPca w p) w false uid (x.readyWatches mask) d)
    rw [hx] at hfacts
    exact ⟨_, execWaitwLimitExpiry_spilled hw hearly hcan hst hlive hrest hhold hpassed, hfacts⟩
  case expiry =>
    rw [execWaitwLimitExpiry_named hw hhold hcalm]
    refine ⟨fun hnot => ?_, fun hwaits hpassed => ?_⟩
    · rw [if_neg fun h => by simp [h.1, h.2] at hnot]
    · obtain ⟨hrest, hothers, hpath, hsibling, -, hwrites, hv, hp, hctrs⟩ := finishWaitw_wakes s w pcb uid (x.readyWatches mask) d
      rw [hx] at hpath hsibling hwrites hv hp hctrs
      rw [if_pos ⟨hwaits, hpassed⟩]
      exact ⟨_, rfl, hrest, hothers, hpath, hsibling, hwrites, hv, hp, hctrs⟩
  case halt =>
    rw [execHaltWake_eq hw hhold hnone hsuper]
    refine ⟨fun hnot => ?_, fun hwaits hev => ?_⟩
    · rw [if_neg fun h => hnot.elim (fun e => Bool.false_ne_true (e.symm.trans h.1)) h.2]
    · obtain ⟨hrest, -, hpath, -, -, hwrites, -, -, -⟩ := putU_wakes s w false uid d
        ((s.haltEvents w (s.limitPassed x.pca limit)).setWidth 64)
      rw [hx] at hpath hwrites
      rw [if_pos ⟨hwaits, hev⟩]
      exact ⟨_, rfl, hrest, hpath, hwrites⟩
  case watchdog =>
    rw [execWatchdog_eq hb (oldestWave_of hmem (by rw [hx]; exact hold)), hx]
  case creep =>
    rw [execPtsCreep_eq]
    refine ⟨fun hnot => by rw [if_neg hnot], fun hdue => ?_⟩
    rw [if_pos hdue]
    exact ⟨_, rfl, rfl, creepOn_crept s x.core, fun v y hy => creepOn_wave hy x.core⟩
end Sys2Proof.Machine
end

section
/-! PROOF. The issue of an engine command (R142, R143, R164). -/
namespace Sys2Proof.Machine
open Sys2Proof

/-- An engine command executes as `command` with its row's role, operation and operand fields. -/
theorem exec_commandForms {f : Sched} {k : BitVec 9} {z exp clr : Bool} {ch cm1 sel : BitVec 2} {fmt : BitVec 5} {op : BitVec 3} {d a b : Reg} :
    ∀ e ∈ commandForms f k z exp clr ch cm1 sel fmt op d a b, ∀ s,
      exec e.1 s = command s f e.2.1 e.2.2.1 e.2.2.2.1 e.2.2.2.2.1 e.2.2.2.2.2 := by
  simp only [commandForms, List.forall_mem_cons, List.not_mem_nil, false_imp_iff, implies_true, and_self,
    exec_mw, exec_mws, exec_mswap, exec_ms, exec_mst, exec_mchain, exec_mq, exec_cp, exec_cpG, exec_cpS, exec_cpRed,
    exec_collAr, exec_collAg, exec_collRs, exec_collBc, exec_netGet, exec_netPut, exec_netRead,
    execMw, execMws, execMswap, execMs, execMst, execMchain, execMq, execCp, execCpG, execCpS, execCpRed,
    execCollAr, execCollAg, execCollRs, execCollBc, execNetGet, execNetPut, execNetRead]

section
variable {s : State} {w : Nat} {pcb : Bool} {x : Wave} {f : Sched}

/-- What an engine command takes from its wave at issue is what the wave held before. -/
theorem State.atIssue_owner (h : kget s.waves w = some x) : let y := (s.atIssue w f).wave w
    y.role = x.role ∧ y.block = x.block ∧ y.core = x.core ∧ y.ctx = x.ctx ∧ y.array = x.array ∧ y.path pcb = x.path pcb := by
  refine ⟨?_, State.atIssue_block h f, ?_, ?_, ?_, State.atIssue_path h pcb⟩ <;>
    · obtain ⟨l, hl⟩ := s.wave_atIssue w f
      rw [hl, State.wave_of_kget h]
      simp

/-- The command is queued under the number of its instruction; the issue has changed no queue before. -/
theorem issueCmd_eq (h : kget s.waves w = some x) (op : CmdOp) (d a b : Reg) :
    s.issueCmd w pcb f op d a b = { moved s w pcb f with cmds := kset s.cmds s.uid (newCmd s w pcb x f op d a b) } := by
  obtain ⟨-, hblock, hcore, hctx, harray, hpath⟩ := State.atIssue_owner (pcb := pcb) (f := f) h
  unfold State.issueCmd newCmd
  dsimp only
  rw [hblock, hcore, hctx, harray, hpath]
  rfl

/-- A wave of the role queues the command; one of another raises ROLE, code 2. -/
theorem command_spec (h : Turn s w pcb x) (ha : activeAt s w pcb f ≠ 0) (role : Role) (op : CmdOp) (d a b : Reg) :
    (x.role = role → command s f role op d a b =
      .next { moved s w pcb f with cmds := kset s.cmds s.uid (newCmd s w pcb x f op d a b) }) ∧
    (x.role ≠ role → command s f role op d a b = .next (s.raiseIssue w pcb f (Trap.of 2 (activeAt s w pcb f)))) := by
  rw [command, timed_active h ha, (State.atIssue_owner (pcb := pcb) h.wave).1]
  exact ⟨fun hr => by rw [if_pos hr, issueCmd_eq h.wave], fun hr => by rw [if_neg hr]⟩
end

/-- Settles O25: each of the forms is `command` with its role, and an issue leaves the command queues alone. -/
theorem commandIssue : Obligations.CommandIssue := by
  intro s w pcb x f k z exp clr ch cm1 sel fmt op d a b h ha e he
  obtain ⟨hqueues, hraises⟩ := command_spec h ha e.2.1 e.2.2.1 e.2.2.2.1 e.2.2.2.2.1 e.2.2.2.2.2
  rw [exec_commandForms e he]
  exact ⟨fun hr => ⟨_, moved_underway h.wave pcb f, hqueues hr⟩, hraises⟩
end Sys2Proof.Machine
end

section
/-! PROOF. Engine commands start, end early and complete (R143, R144, R150, R151, R155, R168, R174). -/
namespace Sys2Proof.Machine
open Sys2Proof

/-! ### One command, one array and one wave replaced -/

theorem kget_setCmd (s : State) (id k : Nat) (c : Cmd) : kget (s.setCmd id c).cmds k = if k = id then some c else kget s.cmds k :=
  kget_kset ..

@[simp] theorem kget_setCmd_same (s : State) (id : Nat) (c : Cmd) : kget (s.setCmd id c).cmds id = some c := kget_kset_same ..

@[simp] theorem kget_doneCmd_same (s : State) (id : Nat) (c : Cmd) : kget (s.doneCmd id c).cmds id = some { c with finished := true } :=
  kget_kset_same ..

theorem array_setArray (s : State) (k j : Nat) (a : ArraySt) : (s.setArray k a).array j = if j = k then a else s.array j := by
  unfold State.array State.setArray dget
  dsimp only
  rw [kget_kset]
  split <;> rfl

/-- An array replaced where `on` is set, as by CLR of MQ (R155). -/
def State.setArrayIf (s : State) (on : Bool) (k : Nat) (a : ArraySt) : State := if on then s.setArray k a else s

theorem array_setArrayIf (s : State) (on : Bool) (k j : Nat) (a : ArraySt) :
    (s.setArrayIf on k a).array j = if j = k ∧ on = true then a else s.array j := by
  cases on
  · simp [State.setArrayIf]
  · simp [State.setArrayIf, array_setArray]

@[simp] theorem wave_setArrayIf (s : State) (on : Bool) (k v : Nat) (a : ArraySt) : (s.setArrayIf on k a).wave v = s.wave v := by
  cases on <;> rfl

@[simp] theorem wave_setCmd (s : State) (id v : Nat) (c : Cmd) : (s.setCmd id c).wave v = s.wave v := rfl

@[simp] theorem wave_doneCmd (s : State) (id v : Nat) (c : Cmd) : (s.doneCmd id c).wave v = s.wave v := rfl

/-- What the start of command `id` of wave `w` leaves alone. -/
def StartFrame (s t : State) (id w : Nat) : Prop :=
  { t with cmds := s.cmds, arrays := s.arrays, waves := s.waves } = s ∧ (∀ k, k ≠ id → kget t.cmds k = kget s.cmds k) ∧
    ∀ v, v ≠ w → kget t.waves v = kget s.waves v

section
variable {s t : State} {id w : Nat}

theorem StartFrame.refl : StartFrame s s id w := ⟨rfl, fun _ _ => rfl, fun _ _ => rfl⟩

theorem StartFrame.setCmd (h : StartFrame s t id w) (c : Cmd) : StartFrame s (t.setCmd id c) id w := by
  obtain ⟨hrest, hcmds, hwaves⟩ := h
  exact ⟨hrest, fun k hk => (kget_setCmd t id k c).trans ((if_neg hk).trans (hcmds k hk)), hwaves⟩

theorem StartFrame.doneCmd (h : StartFrame s t id w) (c : Cmd) : StartFrame s (t.doneCmd id c) id w := h.setCmd _

theorem StartFrame.setArray (h : StartFrame s t id w) (k : Nat) (a : ArraySt) : StartFrame s (t.setArray k a) id w := h

theorem StartFrame.setArrayIf (h : StartFrame s t id w) (on : Bool) (k : Nat) (a : ArraySt) : StartFrame s (t.setArrayIf on k a) id w := by
  cases on
  · exact h
  · exact h.setArray k a

theorem StartFrame.modWave (h : StartFrame s t id w) (g : Wave → Wave) : StartFrame s (t.modWave w g) id w := by
  obtain ⟨hrest, hcmds, hwaves⟩ := h
  exact ⟨hrest, hcmds, fun v hv => (waves_modWave t g hv).trans (hwaves v hv)⟩
end

/-! ### A command that stops with a reason (R144) -/

/-- A command as it stands after a stop. -/
def Cmd.stopped (c : Cmd) (err info : Nat) : Cmd := { c with finished := true, err := err, info := info, reply := none, frec := none }

/-- Only a copy counts on a channel as it stops (R163). -/
def Cmd.isCopy (c : Cmd) : Bool := match c.op with
  | .copy .. => true
  | _ => false

theorem countCopy_eq {c : Cmd} (h : c.isCopy = false) (s : State) : s.countCopy c = s := by
  unfold State.countCopy
  unfold Cmd.isCopy at h
  split <;> simp_all

theorem stopCmd_eq {c : Cmd} (h : c.isCopy = false) (s : State) (id err info : Nat) : s.stopCmd id c err info = s.setCmd id (c.stopped err info) := by
  unfold State.stopCmd
  rw [countCopy_eq h, ite_self]
  rfl

/-- A command with no error, no reply and no record that has done all it does stands as after a stop with reason 0. -/
theorem stopped_of_clean {c : Cmd} (hreply : c.reply = none) (hfrec : c.frec = none) (herr : c.err = 0) (hinfo : c.info = 0) :
    { c with finished := true } = c.stopped 0 0 := by
  cases c
  simp_all [Cmd.stopped]

/-- Is a command READ (R174)? -/
def Cmd.isRead (c : Cmd) : Bool := match c.op with
  | .net 2 _ => true
  | _ => false

theorem isNet_of_isRead {c : Cmd} (h : c.isRead = true) : c.isNet = true := by
  unfold Cmd.isRead at h
  unfold Cmd.isNet
  split at h <;> simp_all

theorem isCopy_of_isColl {c : Cmd} (h : c.isColl = true) : c.isCopy = false := by
  unfold Cmd.isColl at h
  unfold Cmd.isCopy
  split at h <;> simp_all

theorem isCopy_of_isNet {c : Cmd} (h : c.isNet = true) : c.isCopy = false := by
  unfold Cmd.isNet at h
  unfold Cmd.isCopy
  split at h <;> simp_all

/-- An early end of a command other than a copy. -/
theorem stopIf_eq {s : State} {id : Nat} {c : Cmd} (h : kget s.cmds id = some c) {p : Cmd → Bool} (hp : p c = true → c.isCopy = false)
    (err info : Nat) : s.stopIf id err info p = if c.started && !c.finished && p c then s.setCmd id (c.stopped err info) else s := by
  unfold State.stopIf
  rw [h]
  dsimp only
  split
  · next hends => exact stopCmd_eq (hp (Bool.and_eq_true_iff.1 hends).2) s id err info
  · rfl

/-! ### The start (R143, R227) -/

/-- A command as it stands once it has started: its time is its wave's, and it knows the generations of its context's arenas. -/
def State.begun (s : State) (c : Cmd) : Cmd := { c with
  started := true, pts := (s.wave c.wave).pts, gens := (s.wins.filter fun e => winCtx e.1 == c.ctx).map fun e => (e.1, e.2.gen) }

/-- A command after its start checks (R144): it ends with the reason that refuses it, or has its length. -/
def Cmd.checked (c : Cmd) : Except Nat Nat → Cmd
  | .error r => c.stopped r 0
  | .ok n => { c with ready := true, total := n }

section
variable {s : State} {id : Nat} {c : Cmd} (h : kget s.cmds id = some c)
include h

theorem startCmd_waits (hnot : c.started = true ∨ s.cmdTurn c = false) : s.startCmd id = s := by
  unfold State.startCmd
  rw [h]
  exact if_pos hnot

section
variable (hgo : ¬(c.started = true ∨ s.cmdTurn c = false))
include hgo

/-- The latches of the array change places (R151). -/
theorem startCmd_mswap (hop : c.op = .mswap) : let a := s.array c.array
    s.startCmd id = ((s.setCmd id (s.begun c)).setArray c.array { a with live := a.shadow, shadow := a.live }).doneCmd id (s.begun c) := by
  rw [State.startCmd, h]
  refine (if_neg hgo).trans ?_
  extract_lets b
  have hbop : b.op = .mswap := hop
  rw [hbop]
  rfl

/-- MQ reads the array at once, and CLR clears its status bits (R155). -/
theorem startCmd_mq {sel : Nat} {clr : Bool} {d : Reg} (hop : c.op = .mq sel clr d) :
    let a := s.array c.array
    let u := (s.setCmd id (s.begun c)).modWave c.wave fun x => x.landU d (mqValue a sel (c.array % 4))
    s.startCmd id = (u.setArrayIf clr c.array { a with tagres := false, poison := false }).doneCmd id (s.begun c) := by
  rw [State.startCmd, h]
  refine (if_neg hgo).trans ?_
  extract_lets b
  have hbop : b.op = .mq sel clr d := hop
  rw [hbop]
  rfl

/-- MW and MWS take the rows of their tile as their length, or end with the reason of the failed check (R144, R150). -/
theorem startCmd_mw {shadow : Bool} {k : Nat} (hop : c.op = .mw shadow k) :
    s.startCmd id = (s.setCmd id (s.begun c)).setCmd id ((s.begun c).checked ((s.mwCheck (s.begun c) k).map (·.rows))) := by
  rw [State.startCmd, h]
  refine (if_neg hgo).trans ?_
  extract_lets b u
  have hbop : b.op = .mw shadow k := hop
  have hcopy : b.isCopy = false := by rw [Cmd.isCopy, hbop]
  have hcheck : u.mwCheck b k = s.mwCheck (s.begun c) k := rfl
  rw [hbop]
  dsimp only
  rw [hcheck, ← hbop]
  cases s.mwCheck (s.begun c) k with
  | error r => exact stopCmd_eq hcopy ..
  | ok _ => rfl

/-- MS and MST take their rows and the length of their schedule, or end with the reason of the failed check (R144, R152). -/
theorem startCmd_stream {trans z : Bool} (hop : c.op = .stream trans z) :
    s.startCmd id = (s.setCmd id (s.begun c)).setCmd id
      ((s.begun c).checked ((s.streamCheck (s.begun c) trans).map fun q => q.1.rows + 65 + q.2.2.2.length)) := by
  rw [State.startCmd, h]
  refine (if_neg hgo).trans ?_
  extract_lets b u
  have hbop : b.op = .stream trans z := hop
  have hcopy : b.isCopy = false := by rw [Cmd.isCopy, hbop]
  have hcheck : u.streamCheck b trans = s.streamCheck (s.begun c) trans := rfl
  rw [hbop]
  dsimp only
  rw [hcheck, ← hbop]
  cases s.streamCheck (s.begun c) trans with
  | error r => exact stopCmd_eq hcopy ..
  | ok _ => rfl
end
end

/-! ### The completion (R134, R143, R144) -/

theorem saveCtrs_eq (s : State) (img : Nat) (x : Wave) : s.saveCtrs img x = { s with mem := (s.saveCtrs img x).mem } := by
  unfold State.saveCtrs
  refine List.foldlRecOn (motive := fun t : State => t = { s with mem := t.mem }) _ _ rfl fun t ht i _ => ?_
  dsimp only
  rw [setWord_eq, ht]

/-- A completion noted in a saved image changes bytes alone. -/
theorem noteImage_eq (s : State) (w : Nat) : s.noteImage w = { s with mem := (s.noteImage w).mem } := by
  unfold State.noteImage
  split
  · exact saveCtrs_eq ..
  · rfl

theorem noteImage_none {s : State} {w : Nat} (h : s.imageOf (s.wave w) = none) : s.noteImage w = s := by
  rw [State.noteImage, h]

/-- The state in which a finished command is gone: its block's time has followed, and its increment is done. -/
def State.completed (s : State) (id : Nat) (c : Cmd) : State :=
  (({ s with cmds := kdel s.cmds id } : State).modBlock c.block fun b => { b with ept := max b.ept c.pts }).modWave c.wave fun x =>
    x.complete c.uid c.err c.info c.pts

/-- The save area of a block is where it was: a completion changes neither whether the block is away nor its task. -/
theorem imageOf_completed (s : State) (id : Nat) (c : Cmd) {x y : Wave} (h : y.block = x.block) :
    (s.completed id c).imageOf y = s.imageOf x := by
  have hblocks : (s.completed id c).block? x.block =
      if x.block = c.block then (s.block? c.block).map fun b => { b with ept := max b.ept c.pts } else s.block? x.block := kget_kmod ..
  unfold State.imageOf
  rw [h]
  by_cases hb : x.block = c.block
  · rw [hblocks, if_pos hb, hb]
    cases s.block? c.block <;> rfl
  · rw [hblocks, if_neg hb]
    rfl

theorem completed_waves (s : State) (id : Nat) {c : Cmd} {v : Nat} (hv : v ≠ c.wave) : kget (s.completed id c).waves v = kget s.waves v :=
  waves_modWave _ _ hv

theorem completed_wave {s : State} {c : Cmd} {x : Wave} (hw : kget s.waves c.wave = some x) (id : Nat) :
    (s.completed id c).wave c.wave = x.complete c.uid c.err c.info c.pts := by
  rw [State.completed, wave_modWave]
  exact congrArg (Wave.complete · c.uid c.err c.info c.pts) (wave_of hw)

section
variable {s : State} {id : Nat} {c : Cmd} (h : kget s.cmds id = some c)
include h

theorem completeCmd_waits (hnot : c.finished = false ∨ s.completeTurn c = false) : s.completeCmd id = s := by
  unfold State.completeCmd
  rw [h]
  refine if_neg fun hgo => ?_
  obtain ⟨hfin, hturn⟩ := Bool.and_eq_true_iff.1 hgo
  simp [hfin, hturn] at hnot

theorem completeCmd_eq {x : Wave} (hw : kget s.waves c.wave = some x) (hfin : c.finished = true) (hturn : s.completeTurn c = true) :
    s.completeCmd id = (s.completed id c).noteImage c.wave := by
  unfold State.completeCmd
  rw [h]
  refine (if_pos (by rw [hfin, hturn]; rfl)).trans ?_
  dsimp only
  rw [State.modBlock_waves, hw]
  rfl
end

/-! ### The events settled -/

section
variable {s : State} {id : Nat} {c : Cmd} (h : kget s.cmds id = some c)
include h

/-- R168, R174: the early ends, each with its reason, of a started collective, network or storage command. -/
theorem early_ends : ∀ e ∈ [(Instr.collAnnouncement id, c.isColl && c.pos == 0, if s.deadlinePassed c then 12 else 11, 0),
    (.collTimeLimit id, c.isColl && s.deadlinePassed c, 12, 0), (.endpointTimeLimit id, c.isNet && s.deadlinePassed c, 12, 0),
    (.transportFailure id, c.isColl || c.isNet, 12, 0)],
    exec e.1 s = .next (if c.started && !c.finished && e.2.1 then s.setCmd id (c.stopped e.2.2.1 e.2.2.2) else s) := by
  have hcoll {p : Bool} (hp : (c.isColl && p) = true) : c.isCopy = false := isCopy_of_isColl (Bool.and_eq_true_iff.1 hp).1
  have hnet {p : Bool} (hp : (c.isNet && p) = true) : c.isCopy = false := isCopy_of_isNet (Bool.and_eq_true_iff.1 hp).1
  have hboth (hp : (c.isColl || c.isNet) = true) : c.isCopy = false :=
    (Bool.or_eq_true_iff.1 hp).elim isCopy_of_isColl isCopy_of_isNet
  simp only [List.forall_mem_cons, List.not_mem_nil, false_imp_iff, implies_true, and_true, exec_collAnnouncement, exec_collTimeLimit,
    exec_endpointTimeLimit, exec_transportFailure, execCollAnnouncement, execCollTimeLimit, execEndpointTimeLimit, execTransportFailure]
  refine ⟨?_, ?_, ?_, ?_⟩
  · rw [stopIf_eq h hcoll, h, Option.any_some]
  · rw [stopIf_eq h hcoll]
  · rw [stopIf_eq h hnet]
  · rw [stopIf_eq h hboth]

/-- R174: a status other than zero ends a started READ. -/
theorem execNvmeCompletion_eq (status : BitVec 16) : execNvmeCompletion id status s =
    .next (if c.started && !c.finished && (status != 0 && c.isRead) then s.setCmd id (c.stopped 13 status.toNat) else s) := by
  have hread (hp : (status != 0 && c.isRead) = true) : c.isCopy = false := isCopy_of_isNet (isNet_of_isRead (Bool.and_eq_true_iff.1 hp).2)
  exact congrArg _ (stopIf_eq h hread 13 status.toNat)
end

theorem execAsynchronousCompletion_eq {s : State} {id : Nat} {o : AsyncOp} (hv : s.vacates.find? (fun v => v.uid == id) = none)
    (ho : s.asyncs.find? (fun o => o.uid == id && o.kind == 0) = some o) :
    execAsynchronousCompletion id s = .next (({ s with asyncs := s.asyncs.filter fun p => p.uid != id } : State).complete o.wave id) := by
  rw [execAsynchronousCompletion, State.vacateStep, hv]
  dsimp only
  rw [State.completeAsync, ho]

/-- Settles O41: a start replaces the command, and for MSWAP and MQ the array and the result register; an early end replaces the command
alone; a completion removes it and marks its increment done. -/
theorem engineEvents : Obligations.EngineEvents := by
  intro s id c h begun arr ends rest
  have hframe : StartFrame s (s.setCmd id begun) id c.wave := StartFrame.refl.setCmd begun
  refine ⟨fun hnot => ?wait, fun hnew hturn hreply hfrec herr hinfo => ?start, fun hnot => ?hold, fun hfin hturn x hx => ?complete,
    early_ends h, fun status => ?nvme, fun o hv ho => ?async⟩
  case wait => rw [exec_engineStart, execEngineStart, startCmd_waits h hnot]
  case start =>
    have hgo : ¬(c.started = true ∨ s.cmdTurn c = false) := by simp [hnew, hturn]
    have hdone : { begun with finished := true } = begun.stopped 0 0 := stopped_of_clean hreply hfrec herr hinfo
    simp only [exec_engineStart, execEngineStart]
    refine ⟨fun hop => ?mswap, fun sel clr d hop _ => ?mq, fun shadow k hop => ?mw, fun trans z hop => ?stream⟩
    case mswap =>
      rw [startCmd_mswap h hgo hop]
      exact ⟨_, rfl, (hframe.setArray ..).doneCmd _, (kget_doneCmd_same ..).trans (congrArg some hdone), rfl, fun k => array_setArray ..⟩
    case mq =>
      rw [startCmd_mq h hgo hop]
      refine ⟨_, rfl, ((hframe.modWave _).setArrayIf ..).doneCmd _, (kget_doneCmd_same ..).trans (congrArg some hdone), ?_,
        fun k => array_setArrayIf ..⟩
      rw [wave_doneCmd, wave_setArrayIf, wave_modWave, wave_setCmd]
      exact landU_s (s.wave c.wave) d _
    case mw =>
      rw [startCmd_mw h hgo hop]
      refine ⟨_, rfl, hframe.setCmd _, rfl, rfl, ?_⟩
      have hget : kget _ id = some (begun.checked ((s.mwCheck begun k).map (·.rows))) := kget_setCmd_same (s.setCmd id begun) ..
      cases hcheck : s.mwCheck begun k <;> exact hget.trans (by rw [hcheck]; rfl)
    case stream =>
      rw [startCmd_stream h hgo hop]
      refine ⟨_, rfl, hframe.setCmd _, rfl, rfl, ?_⟩
      have hget : kget _ id = some (begun.checked ((s.streamCheck begun trans).map fun q => q.1.rows + 65 + q.2.2.2.length)) :=
        kget_setCmd_same (s.setCmd id begun) ..
      cases hcheck : s.streamCheck begun trans <;> exact hget.trans (by rw [hcheck]; rfl)
  case hold => rw [exec_engineComplete, execEngineComplete, completeCmd_waits h hnot]
  case complete =>
    have hwave := completed_wave hx id
    rw [exec_engineComplete, execEngineComplete, completeCmd_eq h hx hfin hturn, noteImage_eq]
    refine ⟨_, rfl, rfl, fun haway => ?_, rfl, (kget_kdel ..).trans (if_pos rfl), fun k hk => (kget_kdel ..).trans (if_neg hk),
      fun v hv => completed_waves s id hv, ?_, fun n => ?_⟩
    · rw [← imageOf_completed s id c (x := x) (y := (s.completed id c).wave c.wave) (by rw [hwave]; rfl)] at haway
      exact (congrArg State.mem (noteImage_none haway) :)
    · exact congrArg (fun y : Wave => { y with ctrs := x.ctrs }) hwave
    · exact (congrArg (Wave.ctr · n) hwave).trans (complete_ctr ..)
  case nvme => rw [exec_nvmeCompletion, execNvmeCompletion_eq h, ← Bool.and_assoc]; rfl
  case async =>
    rw [exec_asynchronousCompletion, execAsynchronousCompletion_eq hv ho]
    refine ⟨_, rfl, rfl, rfl, fun n => ?_⟩
    rw [State.complete, wave_modWave, complete_ctr]
    rfl

end Sys2Proof.Machine
end

section
/-! PROOF. The system instructions at their issue, by the privilege of the core (R36, R38, R177 to R182). -/
namespace Sys2Proof.Machine
open Sys2Proof

section
variable {s : State} {w : Nat} {pcb : Bool} {x : Wave} {f : Sched}

theorem supervisor_active (h : Turn s w pcb x) (hx : x.super = true) (ha : activeAt s w pcb f ≠ 0)
    (k : Nat → Bool → State → Wave → BitVec 32 → State) :
    supervisor s f k = .next (k w pcb (s.atIssue w f) ((s.atIssue w f).wave w) (activeAt s w pcb f)) := by
  rw [supervisor, onTurn_eq h, if_pos hx]
  exact congrArg _ (if_neg ha)

/-- R36, R38: on a compute core a supervisor instruction fails check 8, whatever its guard. -/
theorem supervisor_user (h : Turn s w pcb x) (hx : x.super = false) (k : Nat → Bool → State → Wave → BitVec 32 → State) :
    supervisor s f k = .next (s.raiseIssue w pcb f { Trap.of 1 (x.path pcb).mask with detail := 8 }) := by
  rw [supervisor, onTurn_eq h, if_neg (Bool.eq_false_iff.1 hx)]

/-! ### Accesses of the system instructions -/

/-- An access that is not checked at its issue becomes the youngest of its wave. -/
theorem issueFree_pends (h : kget s.waves w = some x) (op : AccOp) (act : BitVec 32) :
    Pends s (s.issueFree w pcb f op act) w pcb x f op act true [] [] [] := pended_pends h pcb f [] op act true [] []

/-- An access whose ranges fail their check raises what the check finds, for every active lane where it is uniform. -/
theorem issueAcc_error {op : AccOp} {mask : BitVec 32} {uni : Bool} {align : Nat} {rd wr : Bool} {rs second : List Req} {pops : List Reg}
    {cut : List Req → List Req} {t : Trap} (h : s.checkAll (s.wave w) align rd wr (rs ++ second) = .error t) :
    s.issueAcc w pcb f op mask uni align rd wr rs second pops cut = s.raiseIssue w pcb f (if uni then { t with mask := mask } else t) := by
  unfold State.issueAcc
  dsimp only
  rw [h]

/-- What an instruction does whose own check may find a trap, and that else becomes an access. -/
def FreeIssued (s : State) (w : Nat) (pcb : Bool) (x : Wave) (f : Sched) (act : BitVec 32) (e : FreeForm) : Prop :=
  (∀ t, e.trap = some t → exec e.instr s = .next (s.raiseIssue w pcb f t)) ∧
  (e.trap = none → ∃ u, exec e.instr s = .next u ∧ Pends s u w pcb x f e.op act true [] [] [])

variable (h : Turn s w pcb x) (hx : x.super = true) (ha : activeAt s w pcb f ≠ 0)
include h hx ha

theorem systemForms_issued (reg inst : BitVec 16) (ctx : BitVec 6) (all : Bool) (g : BitVec 2) (d a b : Reg) :
    ∀ e ∈ systemForms (s.atIssue w f) ((s.atIssue w f).wave w) (activeAt s w pcb f) f reg inst ctx all g d a b,
      FreeIssued s w pcb x f (activeAt s w pcb f) e := by
  have free {i : Instr} {op : AccOp} (hi : exec i s = .next (s.issueFree w pcb f op (activeAt s w pcb f))) :
      FreeIssued s w pcb x f (activeAt s w pcb f) { instr := i, trap := none, op := op } :=
    ⟨fun _ ht => (nomatch ht), fun _ => ⟨_, hi, issueFree_pends h.wave ..⟩⟩
  simp only [systemForms, List.forall_mem_cons, List.not_mem_nil, false_imp_iff, implies_true, and_true]
  refine ⟨free ?sysrd, free ?syswr, ?tinv, free ?slotset⟩
  case sysrd => rw [exec_sysrd, execSysrd, supervisor_active h hx ha]
  case syswr => rw [exec_syswr, execSyswr, supervisor_active h hx ha]
  case slotset => rw [exec_slotset, execSlotset, supervisor_active h hx ha]
  case tinv =>
    unfold FreeIssued
    rw [exec_tinv, execTinv, supervisor_active h hx ha]
    generalize (s.atIssue w f).readU ((s.atIssue w f).wave w) a = va
    generalize (s.atIssue w f).readU ((s.atIssue w f).wave w) b = n
    dsimp only
    by_cases hgood : va.toNat % 65536 = 0 ∧ n.toNat % 65536 = 0 ∧ 65536 ≤ n.toNat ∧ n.toNat ≤ 2 ^ 56
    · rw [if_pos hgood, if_neg (by omega)]
      exact ⟨fun _ ht => (nomatch ht), fun _ => ⟨_, rfl, issueFree_pends h.wave ..⟩⟩
    · rw [if_neg hgood, if_pos (by omega)]
      exact ⟨fun _ ht => by cases ht; rfl, fun ht => nomatch ht⟩

/-- R181: SNAP, by the alignment of its list and the number of its entries. -/
theorem snap_issued (d a b : Reg) :
    let act := activeAt s w pcb f
    let va := readAt s w f a
    let n := readAt s w f b
    let range := [mkReq 0 0 va.toNat (8 * n.toNat + 32) 0]
    (va.toNat % 8 ≠ 0 → exec (.snap f d a b) s = .next (s.raiseIssue w pcb f { Trap.of 3 act with va := va.toNat % 2 ^ 56 })) ∧
    (va.toNat % 8 = 0 → (n.toNat < 1 ∨ 256 < n.toNat) →
      ∃ u, exec (.snap f d a b) s = .next u ∧ Pends s u w pcb x f (.snap d va n) act true [] [] []) ∧
    (va.toNat % 8 = 0 → 1 ≤ n.toNat → n.toNat ≤ 256 →
      (∀ t, s.checkAll x 8 true false range = .error t → exec (.snap f d a b) s = .next (s.raiseIssue w pcb f { t with mask := act })) ∧
      (∀ cs, s.checkAll x 8 true false range = .ok cs →
        ∃ u, exec (.snap f d a b) s = .next u ∧ Pends s u w pcb x f (.snap d va n) act true ((cs.take 1).flatMap splitReq) (cs.drop 1) [])) := by
  rw [exec_snap, execSnap, supervisor_active h hx ha, ← wave_of h.wave]
  dsimp only [readAt]
  generalize (s.atIssue w f).readU ((s.atIssue w f).wave w) a = va
  generalize (s.atIssue w f).readU ((s.atIssue w f).wave w) b = n
  refine ⟨fun hva => ?misaligned, fun hva hn => ?unchecked, fun hva hlow hhigh => ⟨fun t ht => ?refused, fun cs hcs => ?checked⟩⟩
  case misaligned => rw [if_pos hva]; rfl
  case unchecked =>
    rw [if_neg (not_not.2 hva), if_pos hn]
    exact ⟨_, rfl, wave_of h.wave ▸ issueFree_pends h.wave ..⟩
  case refused =>
    rw [if_neg (not_not.2 hva), if_neg (by omega), issueAcc_error ht]
    rfl
  case checked =>
    rw [if_neg (not_not.2 hva), if_neg (by omega), issueAcc_ok hcs]
    exact ⟨_, rfl, wave_of h.wave ▸ pended_pends h.wave ..⟩
end

/-- Settles O24: on a control core each form is its check, then its access; on a compute core none of them issues. -/
theorem systemIssue : Obligations.SystemIssue := by
  refine ⟨fun s w pcb x f reg inst ctx all g d a b h hx ha => ?control, fun s w pcb x f reg inst ctx all g mask limit d a b h hx => ?compute⟩
  case control => exact ⟨systemForms_issued h hx ha reg inst ctx all g d a b, snap_issued h hx ha d a b⟩
  case compute =>
    simp only [List.forall_mem_cons, List.not_mem_nil, false_imp_iff, implies_true, and_true, exec_rft, exec_sysrd, exec_syswr, exec_tinv,
      exec_halt, exec_snap, exec_slotset, execRft, execSysrd, execSyswr, execTinv, execHalt, execSnap, execSlotset, supervisor_user h hx]

/-! ### HALT, TEND and YIELD (R134, R139, R180) -/

/-- Settles O26: each of them moves its path on at an issue alone and holds it there; YIELD.HDL looks at its hurdle first. -/
theorem holdingInstructions : Obligations.HoldingInstructions := by
  intro s w pcb x f mask limit n k d a b h ha
  refine ⟨moved s w pcb f, moved_underway h.wave pcb f, fun hx => ?halt, ?tend, fun kind hkind => ?yield, ?hurdle⟩
  case halt => rw [exec_halt, execHalt, supervisor_active h hx ha]; rfl
  case tend => rw [exec_tend, execTend, timed_active h ha]; rfl
  case yield =>
    rw [exec_yield, execYield, timed_active h ha]
    simp only [if_neg hkind]
    rfl
  case hurdle =>
    rw [exec_yield, execYield, timed_active h ha]
    simp only [if_pos, readAt]
    generalize hc : (s.atIssue w f).hurdleCheck _ _ _ _ = check
    cases check with
    | some c => rfl
    | none => rfl

/-! ### RFT (R177, R293) -/

theorem State.returnFromTrap_ctlRegs (s : State) (w : Nat) (pcb : Bool) (k : Nat) : (s.returnFromTrap w pcb).ctlRegs k =
    if k = w % 16 then { s.ctlRegs (w % 16) with tcause := (s.ctlRegs (w % 16)).tcause &&& ~~~(0x80000000#64) } else s.ctlRegs k :=
  ctlRegs_setCtl ..

/-- A path that goes to an address after its issue alone changes no register. -/
theorem issue_jump {s : State} {w : Nat} {x : Wave} (h : kget s.waves w = some x) (pcb : Bool) (f : Sched) (lat : Nat) (a : Addr) :
    Goes s ((s.beginIssue w pcb f (some lat)).jump w pcb a) w pcb x f lat a ∧
    NoResult s ((s.beginIssue w pcb f (some lat)).jump w pcb a) w x := by
  have hbegun := State.beginIssue_begun h pcb f (some lat)
  obtain ⟨bs, bv, bp, bl⟩ := hbegun.regs
  obtain ⟨gs, gv, gp, gl⟩ := (diverges_goto ((s.beginIssue w pcb f (some lat)).wave w) pcb a).regs
  rw [← State.wave_modWave_same _ w (·.goto pcb a)] at gs gv gp gl
  exact ⟨goes_jump h (Effect.refl hbegun.present) a, gs.trans bs, gv.trans bv, gp.trans bp, gl.trans bl,
    queues_untouched (pcb := pcb) (f := f) (lat := lat) h rfl⟩

/-- Settles O34: the path's return is a jump after the issue; INTRAP is cleared in the registers of its own control core. -/
theorem returnFromTrap : Obligations.ReturnFromTrap := by
  intro s w pcb x f h ha hx
  obtain ⟨hgoes, hsame⟩ := issue_jump h.wave pcb f 0 ((s.ctlRegs (w % 16)).tepc.setWidth 56)
  refine ⟨_, hgoes, hsame, (s.beginIssue w pcb f (some 0)).returnFromTrap w pcb, ?_, rfl, ?_, fun k hk => ?_⟩
  · rw [exec_rft, execRft, supervisor_active h hx ha]
  · rw [State.returnFromTrap_ctlRegs, if_pos rfl]; rfl
  · rw [State.returnFromTrap_ctlRegs, if_neg hk]; rfl

end Sys2Proof.Machine
end

section
/-! PROOF. TRAP on a compute core: an issue, then a parked wave and its record (R176, R184, R307). -/
namespace Sys2Proof.Machine
open Sys2Proof

section
variable {s t : State} {w : Nat} {pcb : Bool} {x : Wave} {f : Sched} {lat : Option Nat} (h : Begun s t w pcb x f lat)
include h

/-- An issue alone, before its path moves on. -/
theorem Begun.issued : Issued s t w x f := by
  obtain ⟨hrest, hothers, hblocks, hpresent, hclk, huid, ⟨l, a, sk, c, hwave⟩, -⟩ := h
  refine ⟨hrest, byte_of_mem (congrArg State.mem hrest :), hothers, fun b hb => (hblocks b).trans (if_neg hb), hpresent, hclk, huid, ?_⟩
  rw [hwave]
  cases pcb <;> rfl

theorem Begun.path : (t.wave w).path pcb = { x.path pcb with last := t.clk, since := t.clk } := by
  obtain ⟨l, a, sk, c, hwave⟩ := h.wave
  rw [hwave]
  cases pcb <;> rfl

theorem Begun.pend : (t.wave w).pend = x.pend := by
  obtain ⟨l, a, sk, c, hwave⟩ := h.wave
  rw [hwave]
  exact Wave.setPath_pend ..

theorem Begun.core : (t.wave w).core = x.core := by
  obtain ⟨l, a, sk, c, hwave⟩ := h.wave
  rw [hwave]
  exact Wave.setPath_core ..

/-- The record of a wave's path shows nothing that an issue changes but the time, which is the state's. -/
theorem Begun.waveRecord (u : State) : u.waveRecord (t.wave w) pcb = u.waveRecord x pcb := by
  obtain ⟨l, a, sk, c, hwave⟩ := h.wave
  rw [hwave]
  cases pcb <;> rfl
end

theorem State.atIssue_super {s : State} {w : Nat} {x : Wave} (h : kget s.waves w = some x) (f : Sched) :
    ((s.atIssue w f).wave w).super = x.super := by
  obtain ⟨l, hl⟩ := s.wave_atIssue w f
  rw [hl, State.wave_of_kget h]
  exact Wave.retire_super ..

/-- Settles O32: after its issue the wave parks with the record of its path, which carries n and the two operands. -/
theorem serviceTrap : Obligations.ServiceTrap := by
  intro s w pcb x f n d a b h ha hx
  have hbegun := State.beginIssue_begun h.wave pcb f none
  obtain ⟨hs, hv, hp, hl⟩ := hbegun.regs
  obtain ⟨habsent, hpresent⟩ := (moved_underway h.wave pcb f).same.queues
  refine ⟨s.beginIssue w pcb f none, hbegun.issued, hbegun.counted, ⟨hs, hv, hp, hl, habsent, hpresent⟩, hbegun.pend, hbegun.path, ?_⟩
  rw [exec_trap, execTrap, timed_active h ha, if_neg (by rw [State.atIssue_super h.wave, hx]; decide), State.parkWave]
  dsimp only
  rw [hbegun.waveRecord, hbegun.core, State.atIssue_path h.wave]
  rfl
end Sys2Proof.Machine
end

section
/-! PROOF. Reads of system registers that clear what they read (R178, R285, R313, R326). -/
namespace Sys2Proof.Machine
open Sys2Proof

/-- Only the waves and the clock of a state say that an access has performed. -/
theorem Performed.congr {s t u : State} {w : Nat} {x : Wave} {a : Acc} {rest : List Acc} {ts : Nat} (h : Performed s t w x a rest ts)
    (hw : u.waves = t.waves) (hc : u.clk = t.clk) : Performed s u w x a rest ts := by
  obtain ⟨hpresent, hpend, hundo, hpts, hctr, hpaths, hclk⟩ := h
  rw [← State.wave_congr hw] at hpresent hpend hundo hpts hpaths
  refine ⟨by rw [hw, hpresent], hpend, hundo, hpts, fun n => ?_, hpaths, hc.trans hclk⟩
  rw [State.wave_congr hw, hctr]

/-- What a clearing read clears is no wave, no byte and no time. -/
theorem clearRead_frame (s : State) (c reg inst : Nat) :
    (s.clearRead c reg inst).waves = s.waves ∧ (s.clearRead c reg inst).clk = s.clk ∧ (s.clearRead c reg inst).mem = s.mem := by
  unfold State.clearRead
  split <;> exact ⟨rfl, rfl, rfl⟩

section
variable {s : State} {w : Nat} {x : Wave} {a : Acc} {rest : List Acc} {reg inst : Nat} {d : Reg}
  (h : AtHead s w x a rest) (hop : a.op = .sysrd reg inst d)
include h

/-- R178: a SYSRD that performs lands the register's value in D. -/
theorem performSysrd_spec (reg inst : Nat) (d : Reg) : let t := s.performSysrd w reg inst d
    Performed s t w x a rest x.pts ∧ WritesS x (t.wave w) d (s.sysValue (w % 16) reg inst) ∧ (t.wave w).v = x.v ∧ (t.wave w).p = x.p ∧
    t.mem = s.mem := by
  have hx := wave_of h.wave
  have hland := wave_modWave s w (·.landU d (s.sysValue (w % 16) reg inst))
  obtain ⟨hs, hv, hp, -, -⟩ := finishHead_regs (s.modWave w (·.landU d (s.sysValue (w % 16) reg inst))) w x.pts
  rw [hland, hx] at hs hv hp
  rw [State.performSysrd, hx]
  refine ⟨finishHead_performed h x.pts rfl ?_ ?_ ?_ ?_ ?_ ?_ ?_ ?_, fun n => ?_, ?_, ?_, rfl⟩
  case refine_9 => rw [hs]; exact landU_s x d _ n
  case refine_10 => rw [hv, landU_eq]
  case refine_11 => rw [hp, landU_eq]
  all_goals rw [hland, hx, landU_eq]

include hop

theorem readClearing_eq : s.readClearing w reg = (s.performSysrd w reg inst d).clearRead (w % 16) reg inst := by
  have hreg : a.regOp = some (false, reg, inst, 0) := by rw [Acc.regOp, hop]
  rw [State.readClearing, regHead_of h hreg]
  dsimp only
  rw [hop]

/-- A read that clears its register: the value lands in D, and `p` says of the clearing what it leaves in the register. -/
theorem readClearing_spec {p : State → Prop} (hp : ∀ t : State, p (t.clearRead (w % 16) reg inst)) :
    ∃ t, Host.Outcome.next (s.readClearing w reg) = (.next t : Result) ∧ Performed s t w x a rest x.pts ∧
      WritesS x (t.wave w) d (s.sysValue (w % 16) reg inst) ∧ (t.wave w).v = x.v ∧ (t.wave w).p = x.p ∧ t.mem = s.mem ∧ p t := by
  obtain ⟨hperformed, hs, hv, hpred, hmem⟩ := performSysrd_spec h reg inst d
  obtain ⟨hwaves, hclk, hbytes⟩ := clearRead_frame (s.performSysrd w reg inst d) (w % 16) reg inst
  rw [← State.wave_congr hwaves] at hs hv hpred
  rw [readClearing_eq h hop]
  exact ⟨_, rfl, hperformed.congr hwaves hclk, hs, hv, hpred, hbytes.trans hmem, hp _⟩
end

/-- Settles O43: each of the four events is the clearing read of its register, which then holds zero. -/
theorem clearingReads : Obligations.ClearingReads := by
  intro s w x a rest reg inst d h hop c
  simp only [List.forall_mem_cons, List.not_mem_nil, false_imp_iff, implies_true, and_true, exec_herrRead, exec_icpendRead, exec_clampcRead,
    exec_srdropRead]
  refine ⟨?herr, ?icpend, ?clampc, ?srdrop⟩ <;> rintro rfl
  case herr => exact readClearing_spec h hop fun t => sysReg_setSys t 0x0018 0 0
  case icpend =>
    exact readClearing_spec h hop fun t => congrArg CtlRegs.icpend ((ctlRegs_setCtl t (w % 16) (w % 16) _).trans (if_pos rfl))
  case clampc =>
    refine readClearing_spec h hop fun t => congrArg (Option.getD · 0) ((kget_kdel t.clamped inst inst).trans (if_pos rfl))
  case srdrop => exact readClearing_spec h hop fun t => sysReg_setSys t 0x0124 inst 0

end Sys2Proof.Machine
end

section
/-! PROOF. What ends the task of a block takes no time: the clock through the drops, reverts and merges of its end (R216, R256, R321). -/
namespace Sys2Proof.Machine
open Sys2Proof

/-- Changes that take no time, one after the other, take no time. -/
theorem foldl_clk {α : Type} {F : State → α → State} (hF : ∀ s e, (F s e).clk = s.clk) : ∀ (l : List α) (s : State), (l.foldl F s).clk = s.clk
  | [], _ => rfl
  | e :: l, s => (foldl_clk hF l (F s e)).trans (hF s e)

@[simp] theorem State.setWord_clk (s : State) (k : Nat) (v : BitVec 64) : (s.setWord k v).clk = s.clk := by rw [setWord_eq]

@[simp] theorem State.setDesc_clk (s : State) (sp id i : Nat) (v : BitVec 64) : (s.setDesc sp id i v).clk = s.clk := s.setWord_clk _ v

@[simp] theorem State.setCharged_clk (s : State) (sp id n : Nat) : (s.setCharged sp id n).clk = s.clk := s.setDesc_clk ..

@[simp] theorem State.putDesc0_clk (s : State) (k : Nat) (v : Win) : (s.putDesc0 k v).clk = s.clk := s.setDesc_clk ..

@[simp] theorem State.refund_clk (s : State) (k : Nat) : (s.refund k).clk = s.clk := by
  rw [State.refund, State.setCharged_clk]
  exact foldl_clk (fun _ _ => by exact State.setCharged_clk ..) _ s

@[simp] theorem State.endLines_clk (s : State) (k gen : Nat) : (s.endLines k gen).clk = s.clk := by
  rw [State.endLines, killLines_eq]
  rfl

@[simp] theorem State.dropAppend_clk (s : State) (k gen : Nat) : (s.dropAppend k gen).clk = s.clk := rfl

@[simp] theorem State.modArena_clk (s : State) (k : Nat) (g : Win → Win) : (s.modArena k g).clk = s.clk := rfl

@[simp] theorem State.dropOne_clk (s : State) (k : Nat) : (s.dropOne k).clk = s.clk := by
  unfold State.dropOne
  split
  · rfl
  · simp

@[simp] theorem State.showLeaf_clk (s : State) (ctx va : Nat) (v : BitVec 64) : (s.showLeaf ctx va v).clk = s.clk := rfl

@[simp] theorem State.storeLeaf_clk (s : State) (ctx va : Nat) (v : BitVec 64) : (s.storeLeaf ctx va v).clk = s.clk := by
  rw [State.storeLeaf, State.showLeaf_clk]
  split
  · rw [State.setWord_clk]
  · rfl

@[simp] theorem State.revertLeaves_clk (s : State) (ctx k : Nat) (v : Win) : (s.revertLeaves ctx k v).clk = s.clk :=
  foldl_clk (fun _ _ => by exact State.storeLeaf_clk ..) _ s

@[simp] theorem State.askBaton_clk (s : State) (t : Nat) : (s.askBaton t).clk = s.clk := by
  unfold State.askBaton
  dsimp only
  split
  · rfl
  · split
    · rfl
    · split
      · rfl
      · split <;> rfl

@[simp] theorem State.advanceMerges_clk (s : State) : s.advanceMerges.clk = s.clk := foldl_clk (fun _ _ => by exact State.askBaton_clk ..) _ s

@[simp] theorem State.giveBack_clk (s : State) (key declarer : Nat) : (s.giveBack key declarer).clk = s.clk := by
  have requeue (q : List Nat) : (q.foldl (fun (s : State) t => { s with tasks := kmod s.tasks t fun t => { t with merge := none } }) s).clk = s.clk :=
    foldl_clk (fun _ _ => by rfl) q s
  unfold State.giveBack
  dsimp only
  split
  · rw [State.advanceMerges_clk]; exact requeue _
  · split
    · exact State.advanceMerges_clk _
    · split
      · exact State.advanceMerges_clk _
      · rw [State.advanceMerges_clk]; exact requeue _
  · exact s.advanceMerges_clk

@[simp] theorem State.closeBatons_clk (s : State) (tid : Nat) (t : Task) : (s.closeBatons tid t).clk = s.clk := foldl_clk (fun _ _ => by rfl) _ s

@[simp] theorem State.freeTask_clk (s : State) (tid : Nat) : (s.freeTask tid).clk = s.clk := by
  have hbuffers (vs : List View) : (vs.foldl (fun s v => (s.refund v.bufWin).dropOne v.bufWin) s).clk = s.clk :=
    foldl_clk (fun _ _ => by rw [State.dropOne_clk, State.refund_clk]) vs s
  unfold State.freeTask
  split
  · rfl
  · dsimp only
    split
    · rw [hbuffers]
    · split
      · rw [hbuffers]
      · split <;>
        · refine (foldl_clk (fun s k => ?_) _ _).trans (hbuffers _)
          split
          · dsimp only
            rw [State.putDesc0_clk, State.revertLeaves_clk]
          · rfl

@[simp] theorem State.finishTasks_clk (s : State) : s.finishTasks.clk = s.clk := foldl_clk (fun s e => by
  split
  · split
    · exact s.freeTask_clk _
    · rfl
  · rfl) _ s

@[simp] theorem State.endTask_clk (s : State) (tid : Nat) : (s.endTask tid).clk = s.clk := by
  unfold State.endTask
  split
  · rfl
  · rw [State.finishTasks_clk, State.advanceMerges_clk, State.freeTask_clk, State.closeBatons_clk]
    split
    · dsimp only
      split
      · rfl
      · exact State.giveBack_clk ..
    · rfl

@[simp] theorem State.loseWin_clk (s : State) (k : Nat) (v : Win) : (s.loseWin k v).clk = s.clk := foldl_clk (fun _ _ => by rfl) _ _

end Sys2Proof.Machine
end

section
/-! PROOF. Writes of system registers at their points: plain writes, messages and power requests, which complete at once (R178, R292, R298,
R325). -/
namespace Sys2Proof.Machine
open Sys2Proof

theorem regOp_syswr {a : Acc} {reg inst : Nat} {v : BitVec 64} (hop : a.op = .syswr reg inst v) : a.regOp = some (true, reg, inst, v) := by
  rw [Acc.regOp, hop]

section
variable {s : State} {w : Nat} {x : Wave} {a : Acc} {rest : List Acc} (h : AtHead s w x a rest)
include h

/-- An access that performs completes after changes that touch no wave. -/
theorem finishHead_written {u : State} (hw : u.waves = s.waves) (hc : u.clk = s.clk) {p : State → Prop} (hp : p (u.finishHead w x.pts)) :
    ∃ t, Host.Outcome.next (u.finishHead w (s.wave w).pts) = (.next t : Result) ∧ Performed s t w x a rest x.pts ∧ p t := by
  have hx : u.wave w = x := (State.wave_congr hw w).trans (wave_of h.wave)
  rw [wave_of h.wave]
  refine ⟨_, rfl, finishHead_performed h x.pts hc ?_ ?_ ?_ ?_ ?_ ?_ ?_ ?_, hp⟩ <;> rw [hx]

variable {reg inst : Nat} {v : BitVec 64} (hop : a.op = .syswr reg inst v)
include hop

/-- A write of a register that has a step of its own does in it what its operands say. -/
theorem onWrite_eq (k : Acc → Nat → BitVec 64 → State) : s.onWrite w reg k = k a inst v := by
  rw [State.onWrite, regHead_of h (regOp_syswr hop)]

theorem execSysregWrite_eq : execSysregWrite w s = .next (s.plainWrite w reg inst v) := by
  rw [execSysregWrite, readyHead_of h]
  dsimp only
  rw [regOp_syswr hop]
end

/-! ### Plain registers -/

theorem flushRecords_none {s : State} (h : s.fqHeld = []) : s.flushRecords = s := by
  unfold State.flushRecords
  rw [h]
  show { s with fqHeld := [] } = s
  rw [← h]

/-- A write of a plain register changes system registers alone. -/
theorem sysWrite_frame (s : State) (c reg inst : Nat) (v : BitVec 64) : s.sysWrite c reg inst v =
    { s with sys := (s.sysWrite c reg inst v).sys, ctl := (s.sysWrite c reg inst v).ctl } := by
  unfold State.sysWrite
  split
  case h_5 => split <;> rfl
  all_goals rfl

/-- A register that control cores do not have one each of takes what the write stores, if it stores anything. -/
theorem sysWrite_plain (s : State) (c : Nat) {reg : Nat} (h : reg ∉ [0x0001, 0x0002, 0x0003, 0x011B]) (inst : Nat) (v : BitVec 64) :
    s.sysWrite c reg inst v = (s.sysStored reg inst v).elim s (s.setSys reg inst) := by
  unfold State.sysWrite
  split
  case h_5 => cases s.sysStored reg inst v <;> rfl
  all_goals simp at h

theorem plainWrite_eq {s : State} {reg : Nat} (hown : ownStep reg = false) (hheld : s.fqHeld = []) (w inst : Nat) (v : BitVec 64) :
    s.plainWrite w reg inst v = (s.sysWrite (w % 16) reg inst v).finishHead w (s.wave w).pts := by
  have hpage : reg ≠ 0x0128 := by rintro rfl; cases hown
  have hreply : reg ≠ 0x011C := by rintro rfl; cases hown
  rw [State.plainWrite, if_neg hpage, if_neg hreply, hown, if_neg Bool.false_ne_true]
  exact flushRecords_none ((congrArg State.fqHeld (sysWrite_frame s (w % 16) reg inst v)).trans hheld)

/-- What a write stores, if it stores anything, stands in the register; no other register and no byte changes. -/
theorem stored_spec (s : State) (reg inst : Nat) (o : Option (BitVec 64)) :
    (o.elim s (s.setSys reg inst)).sysReg reg inst = o.getD (s.sysReg reg inst) ∧
    (∀ k, k ≠ sysKey reg inst → kget (o.elim s (s.setSys reg inst)).sys k = kget s.sys k) ∧
    (o.elim s (s.setSys reg inst)).ctl = s.ctl ∧ (o.elim s (s.setSys reg inst)).mem = s.mem := by
  cases o with
  | none => exact ⟨rfl, fun _ _ => rfl, rfl, rfl⟩
  | some v => exact ⟨sysReg_setSys s reg inst v, fun _ hk => kget_setSys s reg inst v hk, rfl, rfl⟩

/-- R325: a request of state 3 is discarded; another stands beside the state that is in force. -/
theorem sysStored_pwrst (s : State) (inst : Nat) (v : BitVec 64) : s.sysStored 0x0208 inst v =
    if v.toNat % 4 = 3 then none else some ((s.sysReg 0x0208 inst &&& 0xC) ||| (v &&& 3)) := by
  have hmask : v &&& writeMask 0x0208 = v := BitVec.and_allOnes
  unfold State.sysStored
  rw [hmask]
  rfl

section
variable {s : State} {w : Nat} {x : Wave} {a : Acc} {rest : List Acc} (h : AtHead s w x a rest) {reg inst : Nat} {v : BitVec 64}
  (hop : a.op = .syswr reg inst v)
include h hop

/-- A plain write performs: `p` says of the state with the register written what it leaves. -/
theorem sysregWrite_done (hown : ownStep reg = false) (hheld : s.fqHeld = []) {p : State → Prop}
    (hp : p ((s.sysWrite (w % 16) reg inst v).finishHead w x.pts)) :
    ∃ t, exec (.sysregWrite w) s = .next t ∧ Performed s t w x a rest x.pts ∧ p t := by
  have hframe := sysWrite_frame s (w % 16) reg inst v
  rw [exec_sysregWrite, execSysregWrite_eq h hop, plainWrite_eq hown hheld]
  exact finishHead_written h (congrArg State.waves hframe :) (congrArg State.clk hframe :) hp

theorem sysregWrite_plain (hown : ownStep reg = false) (hreg : reg ∉ [0x0001, 0x0002, 0x0003, 0x011B]) (hheld : s.fqHeld = []) :
    ∃ t, exec (.sysregWrite w) s = .next t ∧ Performed s t w x a rest x.pts ∧
      t.sysReg reg inst = (s.sysStored reg inst v).getD (s.sysReg reg inst) ∧ (∀ k, k ≠ sysKey reg inst → kget t.sys k = kget s.sys k) ∧
      t.ctl = s.ctl ∧ t.mem = s.mem := by
  refine sysregWrite_done h hop hown hheld ?_
  rw [sysWrite_plain s _ hreg]
  exact stored_spec s reg inst _

/-- A register that its control core has of its own holds the whole of what is written. -/
theorem sysregWrite_control (hown : ownStep reg = false) (hheld : s.fqHeld = []) {r : CtlRegs}
    (hr : s.sysWrite (w % 16) reg inst v = s.setCtl (w % 16) r) :
    ∃ t, exec (.sysregWrite w) s = .next t ∧ Performed s t w x a rest x.pts ∧ t.ctlRegs (w % 16) = r := by
  refine sysregWrite_done h hop hown hheld ?_
  rw [hr]
  exact (ctlRegs_setCtl s (w % 16) (w % 16) r).trans (if_pos rfl)
end

end Sys2Proof.Machine
end

section
/-! PROOF. Writes of system registers that complete later: core resets, placement changes and map publications (R298, R302, R305, R321). -/
namespace Sys2Proof.Machine
open Sys2Proof

/-! ### An access whose completion comes later -/

/-- A wave whose oldest access has left the table, with what is left to undo. -/
def Wave.leave (x : Wave) (rest : List Acc) : Wave := { x with pend := rest, undo := undoAfter x rest }

theorem deferHead_cons {u : State} {w : Nat} {a : Acc} {rest : List Acc} (hp : (u.wave w).pend = a :: rest) (kind arg : Nat) :
    u.deferHead w kind arg = { u with
      waves := (u.modWave w (·.leave rest)).waves, asyncs := u.asyncs ++ [{ uid := a.uid, wave := w, kind := kind, arg := arg }] } := by
  rw [State.deferHead, hp]
  cases rest <;> rfl

/-- The head leaves the table and stands among the operations under way, whatever else its wave has taken. -/
theorem deferHead_spec {s u : State} {w : Nat} {x : Wave} {a : Acc} {rest : List Acc} (hp : (u.wave w).pend = a :: rest)
    (hc : (u.wave w).ctrs = x.ctrs) (ha : u.asyncs = s.asyncs) (kind arg : Nat) :
    Deferred s (u.deferHead w kind arg) w x a rest kind arg := by
  have hwaves : (u.deferHead w kind arg).waves = (u.modWave w (·.leave rest)).waves := by rw [deferHead_cons hp]
  have hw : (u.deferHead w kind arg).wave w = (u.wave w).leave rest := (State.wave_congr hwaves w).trans (wave_modWave ..)
  refine ⟨?_, by rw [hw]; rfl, fun n => ?_, ?_⟩
  · rw [hw, hwaves, kget_modWave, if_pos rfl]
  · rw [hw]
    exact congrArg (dget Ctr.zero · n) hc
  · rw [deferHead_cons hp, ha]

section
variable {s u : State} {w : Nat} {x : Wave} {a : Acc} {rest : List Acc} (h : AtHead s w x a rest) (hw : u.waves = s.waves)
  (ha : u.asyncs = s.asyncs)
include h hw ha

/-- A placement change moves its wave's time before the head leaves (R242). -/
theorem joined_deferred (ts : Nat) : Deferred s ((u.joinPts w ts).deferHead w 0 0) w x a rest 0 0 := by
  have hx : u.wave w = x := (State.wave_congr hw w).trans (wave_of h.wave)
  have hjoin : (u.joinPts w ts).wave w = { x with pts := max x.pts ts } := by rw [State.joinPts, wave_modWave, hx]
  have hpend : ((u.joinPts w ts).wave w).pend = a :: rest := by rw [hjoin, h.pend]
  exact deferHead_spec hpend (by rw [hjoin]) ha 0 0
end

/-- Leaving the table changes no more than the wave and the operations under way. -/
theorem joined_eq (u : State) (w ts : Nat) : (u.joinPts w ts).deferHead w 0 0 =
    { u with waves := ((u.joinPts w ts).deferHead w 0 0).waves, asyncs := ((u.joinPts w ts).deferHead w 0 0).asyncs } :=
  deferHead_eq ..

/-! ### Core resets (R321) -/

theorem State.clearBytes_clk (s : State) (k n : Nat) : (s.clearBytes k n).clk = s.clk := rfl

/-- The scratchpad's bytes are cleared last, and the core's clock starts at the time of the reset: what ends its tasks takes no time. -/
theorem resetCore_spec (s : State) (core : Nat) : kget (s.resetCore core).coreReset core = some s.clk ∧
    ∀ k, scratchKey core 0 ≤ k → k < scratchKey core 0 + 786432 → (s.resetCore core).byte k = unlisted := by
  constructor
  · refine (kget_kset_same ..).trans (congrArg some ((State.clearBytes_clk _ (scratchKey core 0) 786432).trans (foldl_clk (fun s b => ?_) _ s)))
    rw [foldl_clk fun (s : State) (e : Nat × Win) => s.loseWin_clk e.1 e.2, State.endTask_clk]
  · intro k hlow hhigh
    exact (memByte_memClear ..).trans (if_pos ⟨hlow, hhigh⟩)

/-- With no block on the core nothing ends. -/
theorem resetCore_idle {s : State} {core : Nat} (h : s.blocksOn core = []) : s.resetCore core =
    { s.clearBytes (scratchKey core 0) 786432 with coreReset := kset s.coreReset core s.clk, crept := kdel s.crept core } := by
  rw [State.resetCore, h]
  rfl

/-- R321: the core that a write of CRST names is reset; a number of 192 or more names none (assumption 40). -/
def State.resetNamed (s : State) (core : Nat) : State := if core < 192 then s.resetCore core else s

section
variable {s : State} {w : Nat} {x : Wave} {a : Acc} {rest : List Acc} (h : AtHead s w x a rest) {reg inst : Nat} {v : BitVec 64}
  (hop : a.op = .syswr reg inst v) (hreg : reg = 0x0207)
include h hop hreg

theorem crst_waits (hcore : v.toNat % 256 < 192) (hroom : s.resetRoom (v.toNat % 256) = false) : exec (.crst w) s = .next s := by
  subst hreg
  rw [exec_crst, execCrst, onWrite_eq h hop, if_pos ⟨hcore, hroom⟩]

theorem crst_resets (hroom : v.toNat % 256 < 192 → s.resetRoom (v.toNat % 256) = true) :
    exec (.crst w) s = .next ((s.resetNamed (v.toNat % 256)).deferHead w 0 0) := by
  subst hreg
  rw [exec_crst, execCrst, onWrite_eq h hop, if_neg fun hw => Bool.false_ne_true (hw.2.symm.trans (hroom hw.1))]
  rfl
end

/-! ### Placement changes (R305, R329) -/

theorem Behind.waves {s t : State} (h : Behind s t) : t.waves = s.waves := (congrArg State.waves h.rest :)

theorem Behind.asyncs {s t : State} (h : Behind s t) : t.asyncs = s.asyncs := (congrArg State.asyncs h.rest :)

theorem Behind.wins {s t : State} (h : Behind s t) : t.wins = s.wins := (congrArg State.wins h.rest :)

theorem Behind.leaves {s t : State} (h : Behind s t) : t.leaves = s.leaves := (congrArg State.leaves h.rest :)

/-- The fields of L2HM that place lines are among those that a write keeps. -/
theorem l2hm_kept (v : BitVec 64) : (v &&& writeMask 0x0110).extractLsb' 56 7 = v.extractLsb' 56 7 ∧
    (v &&& writeMask 0x0110).extractLsb' 53 3 = v.extractLsb' 53 3 := by
  constructor <;> rw [BitVec.extractLsb'_and] <;> exact BitVec.and_allOnes

/-- A write of L2HM whose base suits its count stores the value, then moves lines at most; another does nothing. -/
theorem writeL2hm_spec (s : State) {inst : Nat} (hinst : inst < 65536) (v : BitVec 64) : let t := (s.writeL2hm inst v).1
    t.waves = s.waves ∧ t.asyncs = s.asyncs ∧ t.sysReg 0x0110 inst =
      if (v.extractLsb' 56 7).toNat % 2 ^ (v.extractLsb' 53 3).toNat = 0 then v &&& 0xFFE000000000007F else s.sysReg 0x0110 inst := by
  obtain ⟨hbase, hcount⟩ := l2hm_kept v
  unfold State.writeL2hm
  dsimp only
  rw [hbase, hcount]
  by_cases hfit : (v.extractLsb' 56 7).toNat % 2 ^ (v.extractLsb' 53 3).toNat = 0
  · rw [if_neg (not_not.2 hfit), if_pos hfit]
    have hset := sysReg_setSys s 0x0110 inst (v &&& writeMask 0x0110)
    split
    · exact ⟨rfl, rfl, hset⟩
    · refine ⟨(moveLines_behind ..).waves, (moveLines_behind ..).asyncs, ?_⟩
      exact ((moveLines_behind ..).regs 0x0110 inst (by decide) hinst).trans hset
  · rw [if_pos hfit, if_neg hfit]
    exact ⟨rfl, rfl, rfl⟩

/-! ### Map publications (R302) -/

theorem publishLeaves_eq (s : State) (ctx k base size : Nat) : s.publishLeaves ctx k base size =
    { s with leaves := (s.publishLeaves ctx k base size).leaves } := by
  unfold State.publishLeaves
  dsimp only
  exact List.foldlRecOn (motive := fun t : State => t = { s with leaves := t.leaves }) _ _ rfl fun t ht g _ => by
    rw [State.showLeaf, ht]

/-- An arena read again changes windows and the leaves that core checks see. -/
theorem publish_eq (s : State) (ctx : Nat) (g : Bool) (id : Nat) : s.publish ctx g id =
    { s with wins := (s.publish ctx g id).wins, leaves := (s.publish ctx g id).leaves } := by
  unfold State.publish
  dsimp only
  rw [publishLeaves_eq]
  split
  · rfl
  · split <;> rfl

/-- Every context's window of an arena read again. -/
def State.publishAll (s : State) (ctxs : List Nat) (g : Bool) (id : Nat) : State := ctxs.foldl (fun s c => s.publish c g id) s

theorem publishAll_eq (s : State) (ctxs : List Nat) (g : Bool) (id : Nat) : s.publishAll ctxs g id =
    { s with wins := (s.publishAll ctxs g id).wins, leaves := (s.publishAll ctxs g id).leaves } :=
  List.foldlRecOn (motive := fun t : State => t = { s with wins := t.wins, leaves := t.leaves }) _ _ rfl fun t ht c _ => by
    rw [publish_eq, ht]

/-- AMINV of an arena: its windows are read again in some contexts, the named one alone but for a GLOBAL arena; then a new placement may
take effect and move lines. -/
theorem aminvArena_spec (s : State) {v : BitVec 64} (hid : v.toNat % 4096 ≠ 0) : ∃ (ctxs : List Nat) (place : Tbl (BitVec 64)),
    (v.getLsbD 57 = false → ctxs = [(v.extractLsb' 58 6).toNat]) ∧
    Behind { s.publishAll ctxs (v.getLsbD 57) (v.toNat % 4096) with place := place } (s.aminvArena v).1 := by
  unfold State.aminvArena
  dsimp only
  rw [if_neg hid]
  generalize hctxs : (if v.getLsbD 57 = true then _ else _ : List Nat) = ctxs
  have hone : v.getLsbD 57 = false → ctxs = [(v.extractLsb' 58 6).toNat] := fun hg => by rw [← hctxs, hg]; rfl
  rw [← State.publishAll]
  split
  · exact ⟨ctxs, _, hone, Behind.refl _⟩
  · split
    · exact ⟨ctxs, _, hone, Behind.refl _⟩
    · exact ⟨ctxs, _, hone, moveLines_behind ..⟩

end Sys2Proof.Machine
end

section
/-! PROOF. Writes of system registers settled (R178, R293, R298, R304, R321, R325). -/
namespace Sys2Proof.Machine
open Sys2Proof

section
variable {s : State} {w : Nat} {x : Wave} {a : Acc} {rest : List Acc} (h : AtHead s w x a rest) {reg inst : Nat} {v : BitVec 64}
  (hop : a.op = .syswr reg inst v)
include h hop

/-! ### Messages and power requests (R292, R325) -/

theorem icmsg_done (hreg : reg = 0x0020) : ∃ t, exec (.icmsg w) s = .next t ∧ Performed s t w x a rest x.pts ∧
    (t.ctlRegs inst).icpend = (s.ctlRegs inst).icpend ||| (1#64 <<< (w % 16)) ∧ ∀ k, k ≠ inst → t.ctlRegs k = s.ctlRegs k := by
  subst hreg
  rw [exec_icmsg, execIcmsg, onWrite_eq h hop, State.postMessage]
  refine finishHead_written h (s.setCtl_waves ..) (s.setCtl_clk ..) ?_
  exact ⟨congrArg CtlRegs.icpend ((ctlRegs_setCtl ..).trans (if_pos rfl)), fun k hk => (ctlRegs_setCtl ..).trans (if_neg hk)⟩

theorem hirq_done (hreg : reg = 0x0030) : ∃ t, exec (.hirq w) s = .next t ∧ Performed s t w x a rest x.pts ∧
    t.irqs = s.irqs ++ [v.toNat % 64] ∧ t.sys = s.sys ∧ t.ctl = s.ctl := by
  subst hreg
  rw [exec_hirq, execHirq, onWrite_eq h hop]
  refine finishHead_written h (s.raiseIrq_waves ..) (s.raiseIrq_clk ..) ?_
  exact ⟨rfl, rfl, rfl⟩

theorem pwrst_done (hreg : reg = 0x0208) : ∃ t, exec (.pwrstRequest w) s = .next t ∧ Performed s t w x a rest x.pts ∧
    (∀ k, k ≠ sysKey reg inst → kget t.sys k = kget s.sys k) ∧
    t.sysReg reg inst = if v.toNat % 4 = 3 then s.sysReg reg inst else (s.sysReg reg inst &&& 0xC) ||| (v &&& 3) := by
  subst hreg
  have hframe := sysWrite_frame s (w % 16) 0x0208 inst v
  obtain ⟨hstored, hothers, -, -⟩ := stored_spec s 0x0208 inst (s.sysStored 0x0208 inst v)
  rw [← sysWrite_plain s (w % 16) (by decide)] at hstored hothers
  rw [exec_pwrstRequest, execPwrstRequest, onWrite_eq h hop]
  refine finishHead_written h (congrArg State.waves hframe :) (congrArg State.clk hframe :) ⟨hothers, hstored.trans ?_⟩
  rw [sysStored_pwrst]
  split <;> rfl

/-! ### Core resets (R321) -/

/-- The scratchpad of a core that is reset reads zero, and its clock starts at the time of the reset, whatever ends with it. -/
theorem crst_clears (hreg : reg = 0x0207) (hcore : v.toNat % 256 < 192) (hroom : s.resetRoom (v.toNat % 256) = true) :
    ∃ t, exec (.crst w) s = .next t ∧ kget t.coreReset (v.toNat % 256) = some s.clk ∧
      ∀ k, scratchKey (v.toNat % 256) 0 ≤ k → k < scratchKey (v.toNat % 256) 0 + 786432 → t.byte k = unlisted := by
  obtain ⟨hclock, hbytes⟩ := resetCore_spec s (v.toNat % 256)
  rw [crst_resets h hop hreg fun _ => hroom, State.resetNamed, if_pos hcore, deferHead_eq]
  exact ⟨_, rfl, hclock, hbytes⟩

/-- A reset of a core without blocks changes no other byte; one of a core that does not exist resets nothing (assumption 40). -/
theorem crst_deferred (hreg : reg = 0x0207)
    (hidle : v.toNat % 256 < 192 → s.blocksOn (v.toNat % 256) = [] ∧ s.resetRoom (v.toNat % 256) = true) :
    ∃ t, exec (.crst w) s = .next t ∧ Deferred s t w x a rest 0 0 ∧ (v.toNat % 256 < 192 →
      kget t.coreReset (v.toNat % 256) = some s.clk ∧ ∀ k, t.byte k =
        if scratchKey (v.toNat % 256) 0 ≤ k ∧ k < scratchKey (v.toNat % 256) 0 + 786432 then unlisted else s.byte k) := by
  rw [crst_resets h hop hreg fun hcore => (hidle hcore).2, State.resetNamed]
  by_cases hcore : v.toNat % 256 < 192
  · rw [if_pos hcore, resetCore_idle (hidle hcore).1]
    refine ⟨_, rfl, deferHead_deferred h 0 0 rfl rfl, fun _ => ?_⟩
    rw [deferHead_eq]
    exact ⟨kget_kset_same .., memByte_memClear s.mem _ 786432⟩
  · rw [if_neg hcore]
    exact ⟨_, rfl, deferHead_deferred h 0 0 rfl rfl, fun hin => absurd hin hcore⟩

/-! ### Placement writes and map publications (R302, R305, R329) -/

theorem l2hm_deferred (hinst : inst < 65536) (hreg : reg = 0x0110) : ∃ t, exec (.l2hmWrite w) s = .next t ∧ Deferred s t w x a rest 0 0 ∧
    t.sysReg reg inst =
      if (v.extractLsb' 56 7).toNat % 2 ^ (v.extractLsb' 53 3).toNat = 0 then v &&& 0xFFE000000000007F else s.sysReg reg inst := by
  subst hreg
  obtain ⟨hwaves, hasyncs, hstored⟩ := writeL2hm_spec s hinst v
  rw [exec_l2hmWrite, execL2hmWrite, onWrite_eq h hop]
  generalize s.writeL2hm inst v = moved at *
  obtain ⟨t, ts⟩ := moved
  refine ⟨(t.joinPts w ts).deferHead w 0 0, rfl, joined_deferred h hwaves hasyncs ts, ?_⟩
  rw [joined_eq]
  exact hstored

/-- No arena has identifier 0: its AMINV publishes nothing. -/
theorem aminv_none (hreg : reg = 0x0103) (hid : v.toNat % 4096 = 0) : ∃ t, exec (.aminv w) s = .next t ∧ Deferred s t w x a rest 0 0 ∧
    t.wins = s.wins ∧ t.leaves = s.leaves ∧ t.mem = s.mem := by
  subst hreg
  rw [exec_aminv, execAminv, onWrite_eq h hop, State.aminvArena]
  dsimp only
  rw [if_pos hid]
  refine ⟨_, rfl, joined_deferred h rfl rfl _, ?_⟩
  rw [joined_eq]
  exact ⟨rfl, rfl, rfl⟩

theorem aminv_published (hreg : reg = 0x0103) (hid : v.toNat % 4096 ≠ 0) :
    let published := s.publish (v.extractLsb' 58 6).toNat false (v.toNat % 4096)
    let key := winKey (v.extractLsb' 58 6).toNat false (v.toNat % 4096)
    ∃ t, exec (.aminv w) s = .next t ∧ Deferred s t w x a rest 0 0 ∧
      (v.getLsbD 57 = false → kget t.wins key = kget published.wins key ∧ t.leaves = published.leaves) := by
  subst hreg
  obtain ⟨ctxs, place, hone, hbehind⟩ := aminvArena_spec s hid
  have hframe := publishAll_eq s ctxs (v.getLsbD 57) (v.toNat % 4096)
  have hwaves := hbehind.waves.trans (congrArg State.waves hframe :)
  have hasyncs := hbehind.asyncs.trans (congrArg State.asyncs hframe :)
  rw [exec_aminv, execAminv, onWrite_eq h hop]
  generalize s.aminvArena v = moved at *
  obtain ⟨t, ts⟩ := moved
  refine ⟨(t.joinPts w ts).deferHead w 0 0, rfl, joined_deferred h hwaves hasyncs ts, fun hg => ?_⟩
  rw [hone hg, hg] at hbehind
  rw [joined_eq]
  exact ⟨congrArg (kget · _) hbehind.wins, hbehind.leaves⟩
end

/-- Settles O42: each event is the write of its register at its point; the plain ones and messages complete at once, the others later. -/
theorem registerWrites : Obligations.RegisterWrites := by
  intro s w x a rest reg inst v h hop _ hinst c done deferred others
  refine ⟨fun hown hreg hheld => sysregWrite_plain h hop hown hreg hheld, fun hheld => ⟨?tvec, ?tepc, ?tcause, ?fqrval⟩,
    icmsg_done h hop, hirq_done h hop, pwrst_done h hop, crst_waits h hop, crst_deferred h hop, crst_clears h hop,
    l2hm_deferred h hop hinst, aminv_none h hop, aminv_published h hop⟩
  all_goals
    rintro rfl
    exact sysregWrite_control h hop rfl hheld rfl

end Sys2Proof.Machine
end

section
/-! PROOF. Halt requests (R177, R185, R197, R318). -/
namespace Sys2Proof.Machine
open Sys2Proof

/-- The wave with a number is read off its entry alone. -/
theorem wave_eq_of_entry {s t : State} {v : Nat} (h : kget t.waves v = kget s.waves v) : t.wave v = s.wave v :=
  congrArg (·.getD { Wave.launch with pca := Path.dead, ended := true }) h

/-! ### Commands taken off their queues (R197) -/

section
variable (s : State) (keep : Cmd → Bool)

/-- What `State.cancelCmds` takes off the queues. -/
def State.cancelled : Tbl Cmd := s.cmds.filter fun e => !e.2.started && !keep e.2

theorem mem_cancelled {e : Nat × Cmd} : e ∈ s.cancelled keep ↔ e ∈ s.cmds ∧ e.2.started = false ∧ keep e.2 = false := by
  simp [State.cancelled]

theorem cancelCmds_eq : s.cancelCmds keep = { s with
    cmds := s.cmds.filter fun e => e.2.started || keep e.2, waves := (s.cancelCmds keep).waves } := by
  unfold State.cancelCmds
  exact List.foldlRecOn (motive := fun t : State => t = { s with cmds := _, waves := t.waves }) _ _ rfl fun t ht e _ => by
    rw [State.modWave, State.setWave, ht]

/-- Only counters of a wave may change. -/
theorem cancelCmds_wave (v : Nat) : ∃ c, (s.cancelCmds keep).wave v = { s.wave v with ctrs := c } := by
  unfold State.cancelCmds
  refine List.foldlRecOn (motive := fun t : State => ∃ c, t.wave v = { s.wave v with ctrs := c }) _ _ ⟨_, rfl⟩ fun t ht e _ => ?_
  obtain ⟨c, hc⟩ := ht
  by_cases hv : v = e.2.wave
  · subst hv
    rw [State.wave_modWave_same, hc]
    exact ⟨_, rfl⟩
  · rw [wave_modWave_ne t _ hv]
    exact ⟨c, hc⟩

/-- A wave that gave none of the cancelled commands is as it was. -/
theorem cancelCmds_others {v : Nat} (hv : ∀ e ∈ s.cancelled keep, e.2.wave ≠ v) :
    kget (s.cancelCmds keep).waves v = kget s.waves v := by
  unfold State.cancelCmds
  exact List.foldlRecOn (motive := fun t : State => kget t.waves v = kget s.waves v) _ _ rfl fun t ht e he =>
    (waves_modWave t _ (hv e he).symm).trans ht
end

/-! ### Parked waves that a halt stops (R197) -/

/-- The wave issues nothing more and is not parked. -/
def Wave.Stands (x : Wave) : Prop := x.stopped = true ∧ x.skid = 0 ∧ x.park = none

theorem stopParked_stands (x : Wave) (p : Park) : (x.stopParked p).Stands := by
  unfold Wave.stopParked
  dsimp only
  split
  · split
    · exact ⟨Wave.setPath_stopped .., Wave.setPath_skid .., Wave.setPath_park ..⟩
    · exact ⟨rfl, rfl, rfl⟩
  · exact ⟨rfl, rfl, rfl⟩

/-- A wave stopped where it is parked. -/
def State.stopIfParked (s : State) (v : Nat) : State := match (s.wave v).park with
  | some p => s.modWave v fun y => y.stopParked p
  | none => s

section
variable (s : State)

theorem stopIfParked_eq (v : Nat) : s.stopIfParked v = { s with waves := (s.stopIfParked v).waves } := by
  unfold State.stopIfParked
  split <;> rfl

theorem stopIfParked_none {v : Nat} (h : (s.wave v).park = none) : s.stopIfParked v = s := by
  unfold State.stopIfParked
  rw [h]

theorem stopIfParked_others {v u : Nat} (h : v ≠ u) : kget (s.stopIfParked u).waves v = kget s.waves v := by
  unfold State.stopIfParked
  split
  · exact waves_modWave s _ h
  · rfl

theorem stopIfParked_stands {v : Nat} (h : (s.wave v).park ≠ none) : ((s.stopIfParked v).wave v).Stands := by
  unfold State.stopIfParked
  split
  · next p hp =>
    rw [State.wave_modWave_same]
    exact stopParked_stands ..
  · next hp => exact absurd hp h

/-- The parked waves of a list stopped. -/
def State.stopAllParked (vs : List Nat) : State := vs.foldl State.stopIfParked s

theorem stopAllParked_eq (vs : List Nat) : s.stopAllParked vs = { s with waves := (s.stopAllParked vs).waves } :=
  List.foldlRecOn (motive := fun t : State => t = { s with waves := t.waves }) _ _ rfl fun t ht v _ => by
    rw [stopIfParked_eq, ht]

/-- A wave that is not in the list, or not parked, is as it was. -/
theorem stopAllParked_others {vs : List Nat} {v : Nat} (h : v ∉ vs ∨ (s.wave v).park = none) :
    kget (s.stopAllParked vs).waves v = kget s.waves v := by
  refine List.foldlRecOn (motive := fun t : State => kget t.waves v = kget s.waves v) _ _ rfl fun t ht u hu => ?_
  by_cases hv : v = u
  · subst hv
    have hpark : (s.wave v).park = none := h.resolve_left (not_not.2 hu)
    rw [stopIfParked_none t (by rw [wave_eq_of_entry ht, hpark]), ht]
  · exact (stopIfParked_others t hv).trans ht

/-- A parked wave of the list stops; once stopped it is parked no more, so that no later turn changes it. -/
theorem stopAllParked_stands {vs : List Nat} {v : Nat} (hv : v ∈ vs) (h : (s.wave v).park ≠ none) :
    ((s.stopAllParked vs).wave v).Stands := by
  induction vs generalizing s with
  | nil => cases hv
  | cons u us ih =>
    show (((s.stopIfParked u).stopAllParked us).wave v).Stands
    by_cases hu : v = u
    · subst hu
      obtain ⟨-, -, hpark⟩ := stopIfParked_stands s h
      rw [wave_eq_of_entry (stopAllParked_others (s.stopIfParked v) (vs := us) (.inr hpark))]
      exact stopIfParked_stands s h
    · have hsame := wave_eq_of_entry (stopIfParked_others s hu)
      exact ih (s.stopIfParked u) ((List.mem_cons.1 hv).resolve_left hu) (by rwa [hsame])
end

/-! ### The two kinds of request -/

/-- The wave that traps, once its request is noted (R184, R197). -/
def Wave.trapped (x : Wave) (pcb : Bool) (t : Trap) : Wave := { x with stopped := true, skid := 0, lastPcb := pcb, park := none, trap := some t }

/-- The waves and queues after a block's first request: the trapping wave has stopped, the block's commands that have not started are off
their queues, and its parked waves have stopped. -/
def State.haltWaves (s : State) (w : Nat) (pcb : Bool) (t : Trap) (bid n : Nat) : State :=
  ((s.modWave w (·.trapped pcb t)).cancelCmds fun c => c.block != bid).stopAllParked (blockWaves bid n)

/-- The notes of a block's first request, and a draw for each of its waves (R184, R318). -/
def State.markHalting (s : State) (bid w : Nat) (t : Trap) (core n : Nat) : State := { s.modBlock bid fun k => { k with
    stopping := true, primary := some w, halt := some t, haltClk := s.clk, haltForm := (s.sysReg 0x0201 core).getLsbD 0
    haltDraw := s.free } with free := s.free + n }

theorem kget_markHalting (s : State) (bid k w : Nat) (t : Trap) (core n : Nat) : kget (s.markHalting bid w t core n).blocks k =
    if k = bid then (kget s.blocks bid).map fun b => { b with
      stopping := true, primary := some w, halt := some t, haltClk := s.clk, haltForm := (s.sysReg 0x0201 core).getLsbD 0
      haltDraw := s.free } else kget s.blocks k :=
  State.kget_modBlock ..

section
variable {s : State} {w : Nat} {x : Wave} {b : Block} (hw : kget s.waves w = some x) (hb : kget s.blocks x.block = some b)
  (pcb : Bool) (t : Trap)

theorem haltWaves_eq (bid n : Nat) : s.haltWaves w pcb t bid n = { s with
    cmds := s.cmds.filter fun e => e.2.started || e.2.block != bid, waves := (s.haltWaves w pcb t bid n).waves } := by
  rw [State.haltWaves, stopAllParked_eq, cancelCmds_eq]
  rfl

/-- The trapping wave is parked no more, so that it is not among the waves that are stopped for their park. -/
theorem haltWaves_self (bid n : Nat) : ∃ c, (s.haltWaves w pcb t bid n).wave w = { (s.wave w).trapped pcb t with ctrs := c } := by
  obtain ⟨c, hc⟩ := cancelCmds_wave (s.modWave w (·.trapped pcb t)) (fun c => c.block != bid) w
  rw [State.wave_modWave_same] at hc
  exact ⟨c, (wave_eq_of_entry (stopAllParked_others _ (.inr (by rw [hc]; rfl)))).trans hc⟩

/-- Another wave of the block that is parked stops. -/
theorem haltWaves_parked {v bid n : Nat} (hv : v ∈ blockWaves bid n) (hne : v ≠ w) (hpark : (s.wave v).park ≠ none) :
    ((s.haltWaves w pcb t bid n).wave v).Stands := by
  obtain ⟨c, hc⟩ := cancelCmds_wave (s.modWave w (·.trapped pcb t)) (fun c => c.block != bid) v
  rw [wave_modWave_ne s _ hne] at hc
  exact stopAllParked_stands _ hv (by rw [hc]; exact hpark)

/-- A wave that gave none of the commands taken off, and is not parked in the block, is as it was. -/
theorem haltWaves_others {v bid n : Nat} (hne : v ≠ w) (hcmds : ∀ e ∈ s.cmds, e.2.block = bid → e.2.started = false → e.2.wave ≠ v)
    (hpark : v ∉ blockWaves bid n ∨ (s.wave v).park = none) : kget (s.haltWaves w pcb t bid n).waves v = kget s.waves v := by
  have hcancel : kget ((s.modWave w (·.trapped pcb t)).cancelCmds fun c => c.block != bid).waves v = kget s.waves v :=
    (cancelCmds_others _ _ fun e he => by
      obtain ⟨hmem, hstarted, hblock⟩ := (mem_cancelled ..).1 he
      exact hcmds e hmem (by simpa using hblock) hstarted).trans (waves_modWave s _ hne)
  exact (stopAllParked_others _ (hpark.imp_right (by rw [wave_eq_of_entry hcancel]; exact id))).trans hcancel

include hw hb

/-- A request in a block already stopping stops its own wave and gives up the block's primary record if that is the wave's. -/
theorem requestHalt_again (hstopping : b.stopping = true) : s.requestHalt w pcb t =
    (s.setWave w { x with stopped := true, lastPcb := pcb, park := none, trap := some t }).modBlock x.block
      fun k => { k with primary := if k.primary = some w then none else k.primary } := by
  unfold State.requestHalt State.modWave State.block?
  dsimp only
  rw [wave_of hw, hb]
  dsimp only
  rw [if_pos hstopping, if_pos hstopping]

/-- The first request: the waves stop and the queues are cleared, then the block takes its notes. -/
theorem requestHalt_first (hstopping : b.stopping = false) : s.requestHalt w pcb t =
    (s.haltWaves w pcb t x.block b.nwaves).markHalting x.block w t x.core b.nwaves := by
  unfold State.requestHalt State.haltWaves State.modWave State.block?
  dsimp only
  rw [wave_of hw, hb]
  dsimp only
  rw [hstopping]
  rfl
end

/-- BRK of a user wave requests a halt with its number and its active lanes (R177). -/
theorem execBrk_compute {s : State} {w : Nat} {pcb : Bool} {x : Wave} {f : Sched} (h : Turn s w pcb x) (ha : activeAt s w pcb f ≠ 0)
    (hx : x.super = false) (n : BitVec 16) : exec (.brk f n) s = .next (State.requestHalt { s with clk := s.issueTime w f } w pcb
      { code := 18, detail := 0, ctr := 0, mask := activeAt s w pcb f, va := 0, info := n.toNat, half := 0 }) := by
  have huser : ¬(({ s with clk := s.issueTime w f } : State).wave w).super = true := by
    rw [wave_of (s := { s with clk := s.issueTime w f }) h.wave, hx]
    exact Bool.false_ne_true
  rw [exec_brk, execBrk, timed_active h ha, if_neg (by rw [State.atIssue_super h.wave, hx]; exact Bool.false_ne_true),
    State.raiseIssue, State.raise]
  dsimp only
  rw [if_neg huser]
  rfl

/-- Settles O35: BRK raises its exception as a request; a further request meets a stopping block, and the first one is described wave by
wave above. -/
theorem haltRequest : Obligations.HaltRequest := by
  intro s w pcb x b t hw hb
  refine ⟨fun f n h ha hx => execBrk_compute h ha hx n, requestHalt_again hw hb pcb t, fun hstopping => ?_⟩
  dsimp only
  rw [requestHalt_first hw hb pcb t hstopping]
  have hrest := haltWaves_eq (s := s) (w := w) pcb t x.block b.nwaves
  obtain ⟨c, hself⟩ := haltWaves_self (s := s) (w := w) pcb t x.block b.nwaves
  refine ⟨?rest, ?block, fun k hk => ?blocks, congrArg State.cmds hrest, congrArg Wave.stopped hself, congrArg Wave.skid hself,
    congrArg Wave.lastPcb hself, congrArg Wave.park hself, congrArg Wave.trap hself,
    fun v hv hne hpark => haltWaves_parked pcb t hv hne hpark, fun v hne hcmds hpark => haltWaves_others pcb t hne hcmds hpark⟩
  case rest => rw [hrest]; rfl
  case block => rw [kget_markHalting, if_pos rfl, hrest, hb]; rfl
  case blocks => rw [kget_markHalting, if_neg hk, hrest]
end Sys2Proof.Machine
end

section
/-! PROOF. A range that finds its line ready meets its point at once, and performs there (R225). -/
namespace Sys2Proof.Machine
open Sys2Proof

/-! ### Lines whose times are raised (R228) -/

/-- The same line at times that are no smaller. -/
def Line.Later (x y : Line) : Prop := ∃ wts rts, y = { x with wts := wts, rts := rts } ∧ x.wts ≤ wts ∧ x.rts ≤ rts

theorem Line.Later.refl (x : Line) : x.Later x := ⟨x.wts, x.rts, rfl, le_rfl, le_rfl⟩

theorem Line.Later.trans {x y z : Line} : x.Later y → y.Later z → x.Later z
  | ⟨_, _, hy, hw, hr⟩, ⟨_, _, hz, hw', hr'⟩ => by
    subst hy
    exact ⟨_, _, hz, hw.trans hw', hr.trans hr'⟩

/-- No field but the times tells two such lines apart. -/
theorem Line.Later.congr {β : Type} {f : Line → β} (hf : ∀ x wts rts, f { x with wts := wts, rts := rts } = f x) {x y : Line} :
    x.Later y → f y = f x
  | ⟨_, _, hy, _, _⟩ => hy ▸ hf ..

/-- The base that a slice takes to hold the offset of a time does not pass that time. -/
theorem keepOffset_rebase (s : State) (sl t : Nat) : ∃ b ≤ t, s.keepOffset sl t = s.rebase sl b := ⟨_, Nat.sub_le .., rfl⟩

theorem setTimes_absent {s : State} {l : Loc} (hl : ¬3 ≤ l.kind) (hx : kget s.lines l.key = none) (wts rts : Nat) :
    s.setTimes l wts rts = s := by
  unfold State.setTimes
  rw [if_neg hl, hx]

theorem setTimes_present {s : State} {l : Loc} (hl : ¬3 ≤ l.kind) {x : Line} (hx : kget s.lines l.key = some x) (wts rts : Nat) :
    ∃ b ≤ rts, s.setTimes l wts rts =
      State.rebase { s with lines := kset s.lines l.key { x with wts := wts, rts := rts } } x.slice b := by
  unfold State.setTimes
  rw [if_neg hl, hx]
  exact keepOffset_rebase ..

section
variable {β : Type} {f : Line → β}

theorem map_kget_kmod {g : Line → Line} (hg : ∀ x, f (g x) = f x) (t : Tbl Line) (j k : Nat) :
    (kget (kmod t j g) k).map f = (kget t k).map f := by
  rw [kget_kmod]
  split
  · next hk => rw [hk, Option.map_map]; exact Option.map_congr fun x _ => hg x
  · rfl

variable (hf : ∀ x wts rts, f { x with wts := wts, rts := rts } = f x)
include hf

theorem map_kget_rebase (s : State) (sl b k : Nat) : (kget (s.rebase sl b).lines k).map f = (kget s.lines k).map f := by
  obtain ⟨g, hg, hlater⟩ := kget_rebase s sl b k
  rw [hg, Option.map_map]
  exact Option.map_congr fun x _ => Line.Later.congr hf (hlater x)

theorem map_kget_setTimes (s : State) {l : Loc} (hl : ¬3 ≤ l.kind) (wts rts k : Nat) :
    (kget (s.setTimes l wts rts).lines k).map f = (kget s.lines k).map f := by
  cases hx : kget s.lines l.key with
  | none => rw [setTimes_absent hl hx]
  | some x =>
    obtain ⟨b, -, hset⟩ := setTimes_present hl hx wts rts
    rw [hset, map_kget_rebase hf, kget_kset]
    split
    · next hk => rw [hk, hx]; exact congrArg some (hf ..)
    · rfl
end

theorem setTimes_eq (s : State) {l : Loc} (hl : ¬3 ≤ l.kind) (wts rts : Nat) : s.setTimes l wts rts =
    { s with lines := (s.setTimes l wts rts).lines, sliceBase := (s.setTimes l wts rts).sliceBase } := by
  cases hx : kget s.lines l.key with
  | none => rw [setTimes_absent hl hx]
  | some x =>
    obtain ⟨b, -, hset⟩ := setTimes_present hl hx wts rts
    rw [hset, rebase_eq]

/-- A base that does not pass a line's read time leaves it. -/
theorem kget_rebase_rts {s : State} {k b : Nat} {x : Line} (hx : kget s.lines k = some x) (hb : b ≤ x.rts) (sl : Nat) :
    ∃ w, kget (s.rebase sl b).lines k = some { x with wts := w } := by
  unfold State.rebase
  split
  · exact ⟨x.wts, hx⟩
  · have hmap := kget_map s.lines (fun _ y => if y.slice = sl then { y with wts := max b y.wts, rts := max b y.rts } else y) k
    rw [hx, Option.map_some] at hmap
    by_cases hsl : x.slice = sl
    · exact ⟨max b x.wts, hmap.trans (by rw [if_pos hsl, max_eq_right hb])⟩
    · exact ⟨x.wts, hmap.trans (by rw [if_neg hsl])⟩

theorem kget_setTimes_same {s : State} {l : Loc} (hl : ¬3 ≤ l.kind) {x : Line} (hx : kget s.lines l.key = some x) (wts rts : Nat) :
    ∃ w, kget (s.setTimes l wts rts).lines l.key = some { x with wts := w, rts := rts } := by
  obtain ⟨b, hb, hset⟩ := setTimes_present hl hx wts rts
  rw [hset]
  exact kget_rebase_rts (x := { x with wts := wts, rts := rts }) (kget_kset_same ..) hb x.slice

/-! ### A range that meets a ready line -/

section
variable {s : State} {ctx : Nat} {r : Req} {win : Win} {l : Line} {wr : Bool}

theorem LineReady.locOf_key (h : LineReady s ctx r win l wr) : (s.locOf r).key = lineTag r.win r.gen r.va := by rw [h.locOf]

theorem LineReady.locOf_line (h : LineReady s ctx r win l wr) : kget s.lines (s.locOf r).key = some l := h.locOf_key ▸ h.line

theorem LineReady.times (h : LineReady s ctx r win l wr) : s.times (s.locOf r) = (l.wts, l.rts) := by
  unfold State.times
  rw [if_neg h.slice_kind, h.locOf_line]

theorem LineReady.readAt (h : LineReady s ctx r win l wr) (n : Nat) : s.readAt (s.locOf r) r.va n = (l.data.drop (r.va % 128)).take n := by
  unfold State.readAt
  rw [if_neg h.slice_kind, h.locOf_line]

theorem LineReady.notPoisoned (h : LineReady s ctx r win l wr) (n : Nat) : s.poisoned (s.locOf r) r.va n = false := by
  unfold State.poisoned
  dsimp only
  rw [if_neg h.slice_kind, h.locOf_line]
  simp [h.poison]

/-- The line is in its slice, and dirty where it is to be written, so that nothing goes behind the slice. -/
theorem LineReady.reach {a : Who} (h : LineReady s a.ctx r win l wr) {ty : Nat} (hty : behindSlice ty = false) (rd : Bool) (pts : Nat)
    (keep : List Nat) : s.reach a (s.locOf r) win r.gen rd wr ty pts keep = .ok s := by
  have hfill : wr = false ∨ l.dirty = true := by
    cases wr
    · exact .inl rfl
    · exact .inr (h.dirty rfl)
  unfold State.reach State.fill
  rw [h.locOf_line]
  dsimp only
  rw [if_pos hfill]
  simp [hty]

theorem LineReady.meet {a : Who} (h : LineReady s a.ctx r win l wr) {ty : Nat} (hty : behindSlice ty = false) (rd : Bool) (pts : Nat)
    (keep : List Nat) : s.meet a ty pts rd wr keep r = (s, r, .ok) := by
  have hlive : ¬(win.state = .dropped ∨ win.state = .free ∨ r.va < win.base ∨ win.base + win.size ≤ r.va) := by
    obtain ⟨hlow, hhigh⟩ := h.inside
    rcases h.live with e | e <;> simp [e] <;> omega
  have hpad : (s.locOf r).kind ≠ 3 := fun e => h.slice_kind e.ge
  have hmerge : s.mergeHolds r.win (s.locOf r).va = false := by rw [h.locOf]; exact h.merge
  unfold State.meet
  simp only [h.real, h.pad, h.there, hlive, h.lost, h.gen, hmerge, hpad, h.moves, h.host, h.frozen, h.reach hty, h.notPoisoned, if_false, ne_eq,
    not_true_eq_false, false_and, Bool.false_and, Bool.and_false, Bool.false_eq_true, and_false]

theorem LineReady.meetAll {a : Who} (h : LineReady s a.ctx r win l wr) {ty : Nat} (hty : behindSlice ty = false) (rd : Bool) (pts : Nat)
    (keep : List Nat) : s.meetAll a ty pts rd wr keep [r] = (s, [(r, .ok)]) := by
  simp only [State.meetAll, h.meet hty]

theorem LineReady.tsOf (h : LineReady s ctx r win l wr) (pts : Nat) :
    s.tsOf pts wr [s.locOf r] = max pts (if wr then l.rts + 1 else l.wts) := by
  show max pts (s.bound (s.locOf r) wr) = _
  unfold State.bound
  rw [h.times, h.notSync]
  rfl

/-- A read of one ready line performs at the line's write time, or at the reader's where that is later (R225). -/
theorem LineReady.performRanges_read {a : Who} (h : LineReady s a.ctx r win l false) {ty : Nat} (hty : behindSlice ty = false) (pts : Nat)
    (copy : Bool) :
    s.performRanges a pts ty true false copy none [r] readOp = .done (s.loadTimes a copy (max pts l.wts) (s.locOf r)) (max pts l.wts)
      [(r, ofBytes ((l.data.drop (r.va % 128)).take r.len))] [] none := by
  have hdup : [s.locOf r].eraseDups = [s.locOf r] := by simp [List.eraseDups_cons]
  have hts : s.tsOf pts false [s.locOf r] = max pts l.wts := h.tsOf pts
  unfold State.performRanges
  simp only [h.meetAll hty, State.locsOf, List.map_cons, List.map_nil]
  simp [runOps, readOp, hdup, hts, h.readAt, faultOf, hty, h.locOf_line]

end
end Sys2Proof.Machine
end

section
/-! PROOF. Acknowledgements of SYNC pushes, and the renewal of expired copies (R230, R234). -/
namespace Sys2Proof.Machine
open Sys2Proof

/-! ### One acknowledgement (R234) -/

/-- A line whose read time a cluster has raised as it left the sharers, where `hit` says that it is one acknowledged. -/
def Line.acked (x : Line) (c : Nat) (hit : Bool) : Line :=
  if hit then { x with rts := max x.rts (dget 0 x.sharers c), sharers := kdel x.sharers c } else x

theorem dget_kdel_same (t : Tbl Nat) (c : Nat) : dget 0 (kdel t c) c = 0 := by
  unfold dget
  rw [kget_kdel, if_pos rfl]
  rfl

theorem Line.acked_acked (x : Line) (c : Nat) (p q : Bool) : (x.acked c p).acked c q = x.acked c (p || q) := by
  cases p
  · rfl
  cases q
  · rfl
  have hdel : kdel (kdel x.sharers c) c = kdel x.sharers c := by simp [kdel]
  simp [Line.acked, dget_kdel_same, hdel]

theorem Line.Later.acked {x y : Line} (c : Nat) (hit : Bool) : x.Later y → (x.acked c hit).Later (y.acked c hit)
  | ⟨_, _, hy, hw, hr⟩ => by
    subst hy
    cases hit
    · exact ⟨_, _, rfl, hw, hr⟩
    · exact ⟨_, _, rfl, hw, max_le_max_right _ hr⟩

theorem Line.acked_congr {β : Type} {f : Line → β} (hf : ∀ x rts sharers, f { x with rts := rts, sharers := sharers } = f x) (x : Line) (c : Nat)
    (hit : Bool) : f (x.acked c hit) = f x := by
  cases hit
  · rfl
  · exact hf ..

theorem le_rebase (s : State) (sl b i : Nat) : dget 0 s.sliceBase i ≤ dget 0 (s.rebase sl b).sliceBase i := by
  unfold State.rebase
  split
  · exact le_rfl
  next hb =>
    show _ ≤ dget 0 (dset 0 s.sliceBase sl b) i
    rw [dget_dset]
    split
    · next hi => rw [hi]; exact (not_le.1 hb).le
    · exact le_rfl

/-- A rebase that does not raise its slice's base does nothing. -/
theorem rebase_kept {s : State} {sl b : Nat} (h : dget 0 (s.rebase sl b).sliceBase sl ≤ dget 0 s.sliceBase sl) : s.rebase sl b = s := by
  unfold State.rebase at h ⊢
  split
  · rfl
  next hb =>
    rw [if_neg hb] at h
    dsimp only at h
    rw [dget_dset_same] at h
    exact absurd h hb

/-- A cluster has acknowledged the lines whose keys `hit` picks: their read times and sharers, its copies of them, and the bases that rise. -/
structure Acked (s t : State) (c : Nat) (hit : Nat → Bool) : Prop where
  rest : { t with lines := s.lines, l1 := s.l1, sliceBase := s.sliceBase } = s
  base : ∀ i, dget 0 s.sliceBase i ≤ dget 0 t.sliceBase i
  line : ∀ k, ∃ g : Line → Line, kget t.lines k = (kget s.lines k).map g ∧ (∀ x : Line, (x.acked c (hit k)).Later (g x)) ∧
    ((∀ i, dget 0 t.sliceBase i ≤ dget 0 s.sliceBase i) → ∀ x : Line, g x = x.acked c (hit k))
  copy : ∀ k z, kget s.l1 (l1Key c k) = some z → ∃ held, kget t.l1 (l1Key c k) = some { z with held := held } ∧
    (z.held = true ∨ hit k = true ∧ (kget s.lines k).isSome = true → held = true)

section
variable {s t u : State} {c : Nat} {p q : Nat → Bool}

/-- Where no line that is picked is present, nothing changes. -/
theorem Acked.refl (hp : ∀ k, p k = true → kget s.lines k = none) : Acked s s c p where
  rest := rfl
  base _ := le_rfl
  line k := by
    cases hk : p k with
    | false => exact ⟨id, by simp, fun x => Line.Later.refl x, fun _ _ => rfl⟩
    | true => exact ⟨fun x => x.acked c true, by simp [hp k hk], fun x => Line.Later.refl _, fun _ _ => rfl⟩
  copy k z hz := ⟨z.held, hz, fun h => h.elim id fun h => by simp [hp k h.1] at h⟩

theorem Acked.trans (h : Acked s t c p) (h' : Acked t u c q) : Acked s u c fun k => p k || q k where
  rest := by rw [← h.rest, ← h'.rest]
  base i := (h.base i).trans (h'.base i)
  line k := by
    obtain ⟨g, hg, hlater, hexact⟩ := h.line k
    obtain ⟨g', hg', hlater', hexact'⟩ := h'.line k
    refine ⟨g' ∘ g, by rw [hg', hg, Option.map_map], fun x => ?_, fun hbase x => ?_⟩
    · have := (hlater x).acked c (q k)
      rw [Line.acked_acked] at this
      exact this.trans (hlater' (g x))
    · rw [Function.comp, hexact' fun i => (hbase i).trans (h.base i), hexact fun i => (h'.base i).trans (hbase i), Line.acked_acked]
  copy k z hz := by
    obtain ⟨b, hb, hheld⟩ := h.copy k z hz
    obtain ⟨b', hb', hheld'⟩ := h'.copy k _ hb
    have hsome : (kget t.lines k).isSome = (kget s.lines k).isSome := by
      obtain ⟨g, hg, -⟩ := h.line k
      rw [hg, Option.isSome_map]
    refine ⟨b', hb', fun hz => hheld' ?_⟩
    rw [Bool.or_eq_true, or_and_right] at hz
    rcases hz with hz | hz | ⟨hhit, hline⟩
    · exact .inl (hheld (.inl hz))
    · exact .inl (hheld (.inr hz))
    · exact .inr ⟨hhit, hsome ▸ hline⟩

/-- A slice that raises its base acknowledges nothing. -/
theorem Acked.rebase (s : State) (c sl b : Nat) : Acked s (s.rebase sl b) c fun _ => false where
  rest := by rw [rebase_eq]
  base := le_rebase s sl b
  line k := by
    obtain ⟨g, hg, hlater⟩ := kget_rebase s sl b k
    by_cases hbase : dget 0 (s.rebase sl b).sliceBase sl ≤ dget 0 s.sliceBase sl
    · exact ⟨id, by rw [rebase_kept hbase, Option.map_id, id], fun x => Line.Later.refl x, fun _ _ => rfl⟩
    · exact ⟨g, hg, hlater, fun h => absurd (h sl) hbase⟩
  copy k z hz := ⟨z.held, by rw [rebase_eq]; exact hz, fun h => h.elim id fun h => by simp at h⟩

theorem l1Key_inj (c k j : Nat) : l1Key c k = l1Key c j ↔ k = j := Nat.add_left_cancel_iff

/-- A present line of a key acknowledged, before its slice looks at the offset of its time. -/
def State.applyAck (s : State) (c j : Nat) (x : Line) : State := { s with
  lines := kset s.lines j (x.acked c true), l1 := kmod s.l1 (l1Key c j) fun y => { y with held := true } }

theorem ackLine_present {l : Loc} {x : Line} (hsync : s.isSync l = true) (hx : kget s.lines l.key = some x) (c : Nat) :
    ∃ b, s.ackLine c l = (s.applyAck c l.key x).rebase x.slice b := by
  rw [State.ackLine, hsync, if_pos rfl, hx]
  obtain ⟨b, -, hb⟩ := keepOffset_rebase (s.applyAck c l.key x) x.slice (dget 0 x.sharers c)
  exact ⟨b, hb⟩

theorem Acked.applyAck {j : Nat} {x : Line} (hx : kget s.lines j = some x) (c : Nat) : Acked s (s.applyAck c j x) c fun k => j == k where
  rest := rfl
  base _ := le_rfl
  line k := by
    refine ⟨fun y => y.acked c (j == k), ?_, fun y => Line.Later.refl _, fun _ _ => rfl⟩
    by_cases hk : k = j
    · simp [State.applyAck, hk, hx]
    · simp [State.applyAck, kget_kset, hk, beq_eq_false_iff_ne.2 (Ne.symm hk), Line.acked]
  copy k z hz := by
    by_cases hk : k = j
    · subst hk
      exact ⟨true, by simp [State.applyAck, kget_kmod, hz], fun _ => rfl⟩
    · refine ⟨z.held, by simp [State.applyAck, kget_kmod, l1Key_inj, hk, hz], fun h => h.elim id fun h => ?_⟩
      exact absurd (beq_iff_eq.1 h.1).symm hk

/-- One cluster's acknowledgement of one line, where that is a present one of a SYNC arena. -/
theorem Acked.ackLine (s : State) (c : Nat) (l : Loc) : Acked s (s.ackLine c l) c fun k => s.isSync l && l.key == k := by
  cases hsync : s.isSync l with
  | false => rw [State.ackLine, hsync]; exact Acked.refl fun k hk => Bool.noConfusion hk
  | true =>
    cases hx : kget s.lines l.key with
    | none =>
      rw [State.ackLine, hsync, hx]
      exact Acked.refl fun k hk => beq_iff_eq.1 hk ▸ hx
    | some x =>
      obtain ⟨b, hb⟩ := ackLine_present hsync hx c
      rw [hb]
      simpa using (Acked.applyAck hx c).trans (Acked.rebase _ c x.slice b)

theorem Acked.isSync (h : Acked s t c p) (l : Loc) : t.isSync l = s.isSync l := by rw [← h.rest]; rfl

theorem Acked.ackLines (c : Nat) : ∀ (ls : List Loc) (s : State),
    Acked s (ls.foldl (fun s l => s.ackLine c l) s) c fun k => ls.any fun l => s.isSync l && l.key == k
  | [], s => Acked.refl fun k hk => Bool.noConfusion hk
  | l :: ls, s => by
    have hhead := Acked.ackLine s c l
    have htail := Acked.ackLines c ls (s.ackLine c l)
    simp only [hhead.isSync] at htail
    exact hhead.trans htail

/-- No field of a line tells an acknowledged line apart but its times and sharers. -/
theorem Acked.map_line {β : Type} {f : Line → β} (h : Acked s t c p)
    (hf : ∀ x wts rts sharers, f { x with wts := wts, rts := rts, sharers := sharers } = f x) (k : Nat) :
    (kget t.lines k).map f = (kget s.lines k).map f := by
  obtain ⟨g, hg, hlater, -⟩ := h.line k
  rw [hg, Option.map_map]
  refine Option.map_congr fun x _ => ?_
  exact (Line.Later.congr (fun x wts rts => hf x wts rts x.sharers) (hlater x)).trans
    (Line.acked_congr (fun x rts sharers => hf x x.wts rts sharers) x c (p k))

/-- A line that was not acknowledged keeps its sharers, and all of it where no base rose. -/
theorem Acked.other (h : Acked s t c p) {k : Nat} (hk : p k = false) :
    (kget t.lines k).map (·.sharers) = (kget s.lines k).map (·.sharers) ∧ (t.sliceBase = s.sliceBase → kget t.lines k = kget s.lines k) := by
  obtain ⟨g, hg, hlater, hexact⟩ := h.line k
  rw [hk] at hlater hexact
  refine ⟨?_, fun hbase => ?_⟩
  · rw [hg, Option.map_map]
    exact Option.map_congr fun x _ => Line.Later.congr (fun _ _ _ => rfl) (hlater x)
  · rw [hg, show g = id from funext (hexact fun i => by rw [hbase])]
    exact Option.map_id_apply

/-- An acknowledged line: its read time is at least the sharer's, and the cluster is no sharer any more. -/
theorem Acked.same (h : Acked s t c p) {k : Nat} (hk : p k = true) {y : Line} (hy : kget s.lines k = some y) :
    (∃ z, kget t.lines k = some z ∧ z.sharers = kdel y.sharers c ∧ y.wts ≤ z.wts ∧ max y.rts (dget 0 y.sharers c) ≤ z.rts) ∧
    (t.sliceBase = s.sliceBase → kget t.lines k = some { y with rts := max y.rts (dget 0 y.sharers c), sharers := kdel y.sharers c }) ∧
    ∀ z, kget s.l1 (l1Key c k) = some z → kget t.l1 (l1Key c k) = some { z with held := true } := by
  obtain ⟨g, hg, hlater, hexact⟩ := h.line k
  rw [hk] at hlater hexact
  rw [hy, Option.map_some] at hg
  refine ⟨?_, fun hbase => ?_, fun z hz => ?_⟩
  · obtain ⟨wts, rts, hz, hw, hr⟩ := hlater y
    exact ⟨g y, hg, by rw [hz]; rfl, by rw [hz]; exact hw, by rw [hz]; exact hr⟩
  · rw [hg, hexact (fun i => by rw [hbase]) y]
    rfl
  · obtain ⟨held, hcopy, hheld⟩ := h.copy k z hz
    rw [hcopy, hheld (.inr ⟨hk, by rw [hy]; rfl⟩)]

end

theorem exec_syncPushAck_of {s : State} {w c : Nat} {x : Wave} {a : Acc} {rest : List Acc} {out gave : List Nat}
    (hw : kget s.waves w = some x) (hp : x.pend = a :: rest) (hacks : a.acks = some (out, gave)) (hc : c ∈ out) :
    exec (.syncPushAck w c) s = .next (((s.locsOf a.reqs).foldl (fun s l => s.ackLine c l) s).modWave w fun x =>
      x.setHead { a with acks := some (out.filter (· != c), gave ++ [c]) }) := by
  rw [exec_syncPushAck, execSyncPushAck, wave_of hw, Wave.head, hp, List.head?_cons]
  dsimp only
  rw [hacks]
  dsimp only
  rw [if_pos (List.contains_iff_mem.2 hc)]


/-! ### A load whose copy has expired (R220, R230) -/

/-- A load, LD.LAST apart: the accesses that may have used an expired copy. -/
def Acc.IsLoad (a : Acc) : Prop := (∃ d sgn, a.op = .loadS d sgn) ∨ ∃ d n sgn, a.op = .loadV d n sgn false

theorem Acc.IsLoad.setTook {a : Acc} (h : a.IsLoad) (b : Bool) : a.setTook b = a := by
  rcases h with ⟨_, _, h⟩ | ⟨_, _, _, h⟩ <;> simp [Acc.setTook, h]

theorem Acc.IsLoad.not_posting {a : Acc} (h : a.IsLoad) (s : State) (w : Nat) : s.awaitsPost w a = false := by
  rcases h with ⟨_, _, h⟩ | ⟨_, _, _, h⟩ <;> simp [State.awaitsPost, h]

theorem Acc.IsLoad.not_named {a : Acc} (h : a.IsLoad) : a.named = false := by
  rcases h with ⟨_, _, h⟩ | ⟨_, _, _, h⟩ <;> simp [Acc.named, Acc.regOp, h]

/-- What a rewind looks at of the wave, as no restored register changes it. -/
theorem restore_kept (x : Wave) (u : Undo) : (x.restore u).pend = x.pend ∧ (x.restore u).park = x.park ∧ (x.restore u).block = x.block := by
  cases u with
  | p k old bad => exact ⟨Wave.setPred_pend .., Wave.setPred_park .., Wave.setPred_block ..⟩
  | _ => exact ⟨rfl, rfl, rfl⟩

theorem rewound_kept (x : Wave) (a : Acc) : (x.rewound a).pend = x.pend.filter (fun b => decide (b.uid ≤ a.uid)) ∧
    (x.rewound a).park = x.park ∧ (x.rewound a).block = x.block := by
  have hfold : ∀ (us : List (Nat × Undo)), (us.foldl (fun x e => x.restore e.2) x).pend = x.pend ∧
      (us.foldl (fun x e => x.restore e.2) x).park = x.park ∧ (us.foldl (fun x e => x.restore e.2) x).block = x.block := fun us =>
    List.foldlRecOn (motive := fun y : Wave => y.pend = x.pend ∧ y.park = x.park ∧ y.block = x.block) us _ ⟨rfl, rfl, rfl⟩ fun y hy e _ => by
      obtain ⟨hpend, hpark, hblock⟩ := hy
      obtain ⟨hpend', hpark', hblock'⟩ := restore_kept y e.2
      exact ⟨hpend'.trans hpend, hpark'.trans hpark, hblock'.trans hblock⟩
  obtain ⟨hpend, hpark, hblock⟩ := hfold (x.undo.filter fun e => decide (a.uid < e.1))
  exact ⟨by rw [Wave.rewound]; dsimp only; rw [hpend], hpark, hblock⟩

/-- An access stands first in a wave that is neither parked nor of a saved block. -/
def Foremost (s : State) (w : Nat) (a : Acc) : Prop :=
  ∃ y rest, kget s.waves w = some y ∧ y.pend = a :: rest ∧ y.park = none ∧ s.waveAway y = false

section
variable {s : State} {w : Nat} {x : Wave} {a : Acc} {rest : List Acc}

theorem AtHead.foremost (h : AtHead s w x a rest) : Foremost s w a := ⟨x, rest, h.wave, h.pend, h.park, h.here⟩

theorem Foremost.atHead (h : Foremost s w a) (hl : a.IsLoad) (hr : a.reply = none) (ha : a.acks = none) : ∃ y rest, AtHead s w y a rest := by
  obtain ⟨y, rest, hw, hp, hk, haway⟩ := h
  exact ⟨y, rest, hw, hp, hr, ha, hk, haway, hl.not_posting s w⟩

/-- A change of waves that leaves the first access of each, its park and its block. -/
theorem Foremost.modWave (h : Foremost s w a) (v : Nat) {g : Wave → Wave} (hpend : ∀ y r, y.pend = a :: r → ∃ r', (g y).pend = a :: r')
    (hpark : ∀ y, (g y).park = y.park) (hblock : ∀ y, (g y).block = y.block) : Foremost (s.modWave v g) w a := by
  obtain ⟨y, r, hw, hp, hk, haway⟩ := h
  by_cases hv : w = v
  · subst hv
    obtain ⟨r', hp'⟩ := hpend y r hp
    refine ⟨g y, r', by rw [kget_modWave, if_pos rfl, wave_of hw], hp', (hpark y).trans hk, ?_⟩
    rw [State.waveAway, hblock]
    exact haway
  · exact ⟨y, r, (waves_modWave s g hv).trans hw, hp, hk, haway⟩

theorem Foremost.modBlock (h : Foremost s w a) (bid : Nat) {g : Block → Block} (hg : ∀ b, (g b).away = b.away) :
    Foremost (s.modBlock bid g) w a := by
  obtain ⟨y, r, hw, hp, hk, haway⟩ := h
  refine ⟨y, r, hw, hp, hk, ?_⟩
  unfold State.waveAway State.block? at haway ⊢
  rw [State.kget_modBlock]
  by_cases hb : y.block = bid
  · subst hb
    rw [if_pos rfl]
    cases hk : kget s.blocks y.block with
    | none => rfl
    | some b => rw [hk] at haway; exact (hg b).trans haway
  · rwa [if_neg hb]

/-- A tracker entry given back passes to HDL.INITs alone. -/
theorem Foremost.giveTracker (h : Foremost s w a) (hl : a.IsLoad) (bid va : Nat) : Foremost (s.giveTracker bid va) w a := by
  unfold State.giveTracker
  split
  · exact h
  · split
    · refine h.modWave _ (fun y r hp => ?_) (fun _ => rfl) fun _ => rfl
      dsimp only
      rw [hp, List.map_cons, hl.setTook, ite_self]
      exact ⟨_, rfl⟩
    · exact h.modBlock bid fun _ => rfl

theorem Foremost.cancelCmds (h : Foremost s w a) (keep : Cmd → Bool) : Foremost (s.cancelCmds keep) w a := by
  unfold State.cancelCmds
  exact List.foldlRecOn (motive := fun t => Foremost t w a) _ _ h fun t ht e _ =>
    ht.modWave e.2.wave (fun _ r hp => ⟨r, hp⟩) (fun _ => rfl) fun _ => rfl

/-- A rewind to a load takes only what is younger. -/
theorem Foremost.rewind (h : Foremost s w a) (hl : a.IsLoad) : Foremost (s.rewind w a) w a := by
  unfold State.rewind
  refine List.foldlRecOn (motive := fun t => Foremost t w a) _ _ ?_ fun t ht va _ => ht.giveTracker hl _ va
  refine (h.cancelCmds _).modWave w (fun y r hp => ?pend) (fun y => ?park) fun y => ?block <;>
    obtain ⟨hpend, hpark, hblock⟩ := rewound_kept y a
  case pend =>
    rw [hpend, hp]
    exact ⟨_, List.filter_cons_of_pos (by simp)⟩
  case park => exact hpark
  case block => exact hblock

variable (h : AtHead s w x a rest) (hl : a.IsLoad)
include h hl

theorem exec_accessPerform_load : exec (.accessPerform w) s = .next (s.performHead w a) := by
  rw [exec_accessPerform, execAccessPerform, readyHead_of h]
  dsimp only
  rw [hl.not_named]
  rfl

theorem exec_accessPerform_rewound : exec (.accessPerform w) (s.rewind w a) = .next ((s.rewind w a).performHead w a) := by
  obtain ⟨_, _, hhead⟩ := (h.foremost.rewind hl).atHead hl h.reply h.acks
  exact exec_accessPerform_load hhead hl

/-- The reply of a renewal: the load performs, after a rewind where some line has another version. -/
theorem exec_l1RenewalReply_load (hne : s.renewals x a ≠ []) : exec (.l1RenewalReply w) s =
    .next ((if (s.renewals x a).all (· == true) then s else s.rewind w a).performHead w a) := by
  have hempty : (s.renewals x a).isEmpty = false := List.isEmpty_eq_false_iff.2 hne
  rw [exec_l1RenewalReply, execL1RenewalReply, readyHead_of h]
  dsimp only
  rw [wave_of h.wave, hempty]
  rcases hl with ⟨_, _, hop⟩ | ⟨_, _, _, hop⟩ <;>
    (rw [hop]; exact congrArg Host.Outcome.next (apply_ite (State.performHead · w a) ..).symm)

theorem renewed_same (hne : s.renewals x a ≠ []) (hall : ∀ b ∈ s.renewals x a, b = true) :
    exec (.l1RenewalReply w) s = exec (.accessPerform w) s := by
  rw [exec_l1RenewalReply_load h hl hne, exec_accessPerform_load h hl, if_pos (List.all_eq_true.2 fun b hb => beq_iff_eq.2 (hall b hb))]

theorem renewed_other (hne : s.renewals x a ≠ []) (hex : ∃ b ∈ s.renewals x a, b = false) :
    exec (.l1RenewalReply w) s = exec (.accessPerform w) (s.rewind w a) := by
  obtain ⟨b, hb, hfalse⟩ := hex
  rw [exec_l1RenewalReply_load h hl hne, exec_accessPerform_rewound h hl, if_neg fun hall => ?_]
  have := List.all_eq_true.1 hall b hb
  rw [hfalse] at this
  cases this
end

/-! ### A scalar load that goes past an expired copy to its line (R225, R230) -/

theorem makeL1Room_eq (s : State) (c k : Nat) : s.makeL1Room c k = { s with l1 := (s.makeL1Room c k).l1, free := (s.makeL1Room c k).free } := by
  unfold State.makeL1Room
  dsimp only
  split
  · rfl
  · split <;> rfl

/-- What a load brings about at a line: times, an owner, a copy and the draw for the copy given up. -/
theorem loadTimes_eq (s : State) (a : Who) (copy : Bool) (ts : Nat) {l : Loc} (hl : ¬3 ≤ l.kind) (hs : s.isSync l = false) :
    s.loadTimes a copy ts l = { s with
      lines := (s.loadTimes a copy ts l).lines, l1 := (s.loadTimes a copy ts l).l1
      sliceBase := (s.loadTimes a copy ts l).sliceBase, free := (s.loadTimes a copy ts l).free } := by
  have htimes := setTimes_eq (s.recall l a.cluster) hl
  have hsync : (s.recall l a.cluster).isSync l = false := hs
  unfold State.loadTimes
  dsimp only
  rw [hsync]
  simp only [Bool.false_eq_true, if_false]
  rw [htimes]
  split
  · split
    · rfl
    · rw [makeL1Room_eq]
      rfl
  · rfl

section
variable {s : State} {w : Nat} {x : Wave} {a : Acc} {rest : List Acc} {r : Req} {win : Win} {l : Line} {c : Nat} {y : Copy}

/-- No copy of the cluster serves the load: its own is expired. -/
theorem LineReady.performLoad_expired (h : LineReady s x.ctx r win l false) (hc : x.who.cluster = some c)
    (hy : kget s.l1 (l1Key c (lineTag r.win r.gen r.va)) = some y) (hexp : y.rts < x.pts) :
    s.performLoad x.who x.pts 0 true [r] = .done (s.loadTimes x.who true (max x.pts l.wts) (s.locOf r)) (max x.pts l.wts)
      [(r, ofBytes ((l.data.drop (r.va % 128)).take r.len))] [] none := by
  have hlocs : s.locsOf [r] = [s.locOf r] := by simp [State.locsOf, List.eraseDups_cons]
  have hheld : s.copyHeld x.who [s.locOf r] = false := by simp [State.copyHeld, hc, h.notSync]
  have hmiss : s.l1Hit x.who x.pts (s.locOf r) = none := by
    unfold State.l1Hit
    rw [hc]
    dsimp only
    rw [h.locOf_key, hy]
    simp [h.slice_kind, h.notSync, Nat.not_le.2 hexp]
  have hall : s.l1All x.who x.pts [r] = none := by simp [State.l1All, hlocs, hmiss]
  unfold State.performLoad
  rw [hlocs, hheld, hall]
  exact h.performRanges_read rfl x.pts true

/-- The line still has the version that the expired copy had, as their write times agree. -/
theorem LineReady.renewals_same (h : LineReady s x.ctx r win l false) (hreqs : a.reqs = [r]) (hc : x.who.cluster = some c)
    (hy : kget s.l1 (l1Key c (lineTag r.win r.gen r.va)) = some y) (hexp : y.rts < x.pts) (hwts : y.wts = l.wts) :
    s.renewals x a = [true] := by
  have hlocs : s.locsOf [r] = [s.locOf r] := by simp [State.locsOf, List.eraseDups_cons]
  have hkind : (s.locOf r).kind < 3 := not_le.1 h.slice_kind
  unfold State.renewals
  rw [hreqs, hlocs]
  simp [hc, h.locOf_key, hy, hkind, h.notSync, hexp, h.times, hwts]

/-- A scalar load whose one range performs: its destination takes the value, and it leaves the table. -/
theorem performHead_loadS {u : State} {ts v : Nat} {d : Reg} {sgn : Bool} (hw : kget s.waves w = some x) (hop : a.op = .loadS d sgn)
    (hreqs : a.reqs = [r]) (hgot : a.got = []) (hlane : r.lane = 0) (hidx : r.idx = 0)
    (hload : s.performLoad x.who x.pts 0 true [r] = .done u ts [(r, v)] [] none) :
    s.performHead w a = (u.modWave w fun x => landScalar x d sgn r.len (BitVec.ofNat 128 v)).finishHead w ts := by
  have hval : gotAt (a.got ++ gotOf [(r, v)]) 0 0 = some (BitVec.ofNat 128 v) := by simp [hgot, gotOf, gotAt, hlane, hidx]
  have hwidth : a.width = r.len := by rw [Acc.width, hreqs]
  unfold State.performHead
  rw [hop]
  dsimp only
  unfold State.performHeadLoad
  rw [wave_of hw, hreqs]
  simp only [Bool.false_eq_true, if_false, hload]
  rw [hval, hwidth]

theorem landScalar_eq (x : Wave) (d : Reg) (sgn : Bool) (len : Nat) (v : BitVec 128) : landScalar x d sgn len v =
    { x with s := (landScalar x d sgn len v).s, late := (landScalar x d sgn len v).late, bad := (landScalar x d sgn len v).bad } := by
  unfold landScalar
  split
  · rw [landU_eq, landU_eq]
  · rw [landU_eq]

/-- The renewed load performs at the line's point. -/
theorem renewed_load {d : Reg} {sgn : Bool} (hhead : AtHead s w x a rest) (hop : a.op = .loadS d sgn) (hreqs : a.reqs = [r])
    (hgot : a.got = []) (hlane : r.lane = 0) (hidx : r.idx = 0) (h : LineReady s x.ctx r win l false) (hc : x.who.cluster = some c)
    (hy : kget s.l1 (l1Key c (lineTag r.win r.gen r.va)) = some y) (hexp : y.rts < x.pts) (hwts : y.wts = l.wts) :
    ∃ t, exec (.l1RenewalReply w) s = .next t ∧ Performed s t w x a rest (max x.pts l.wts) ∧
      (t.wave w).s = (landScalar x d sgn r.len (BitVec.ofNat 128 (ofBytes ((l.data.drop (r.va % 128)).take r.len)))).s ∧
      (t.wave w).v = x.v ∧ (t.wave w).p = x.p ∧ ∀ k, t.byte k = s.byte k := by
  have hren := h.renewals_same hreqs hc hy hexp hwts
  have hl : a.IsLoad := .inl ⟨d, sgn, hop⟩
  have hexec := renewed_same hhead hl (by simp [hren]) (by simp [hren])
  rw [exec_accessPerform_load hhead hl,
    performHead_loadS hhead.wave hop hreqs hgot hlane hidx (h.performLoad_expired hc hy hexp)] at hexec
  generalize hv : BitVec.ofNat 128 (ofBytes ((l.data.drop (r.va % 128)).take r.len)) = v at hexec ⊢
  rw [loadTimes_eq s x.who true _ h.slice_kind h.notSync] at hexec
  generalize hu : ({ s with lines := _, l1 := _, sliceBase := _, free := _ } : State) = u at hexec
  have hwave : (u.modWave w fun x => landScalar x d sgn r.len v).wave w = landScalar x d sgn r.len v := by
    rw [State.wave_modWave_same, ← hu]
    exact congrArg (landScalar · d sgn r.len v) (wave_of hhead.wave)
  have hland := landScalar_eq x d sgn r.len v
  obtain ⟨hs, hvec, hpred, -⟩ := finishHead_regs (u.modWave w fun x => landScalar x d sgn r.len v) w (max x.pts l.wts)
  refine ⟨_, hexec, ?_, hs.trans (congrArg Wave.s hwave), hvec.trans ?_, hpred.trans ?_, fun k => ?_⟩
  · refine finishHead_performed hhead _ (by rw [← hu]; rfl) ?_ ?_ ?_ ?_ ?_ ?_ ?_ ?_ <;> rw [hwave, hland]
  · rw [hwave, hland]
  · rw [hwave, hland]
  · rw [← hu]; rfl
end

/-- Settles O40: each acknowledgement changes the lines it names as `Acked` says, and a renewal is the load performing, or performing after
a rewind that leaves the load first. -/
theorem orderingReplies : Obligations.OrderingReplies := by
  intro s w x a rest hw hp
  refine ⟨fun out gave c hacks hc => ?_, fun hhead hl hne => ⟨renewed_same hhead hl hne, renewed_other hhead hl hne⟩, ?_⟩
  · have hacked := Acked.ackLines c (s.locsOf a.reqs) s
    have hexec := exec_syncPushAck_of hw hp hacks hc
    generalize (s.locsOf a.reqs).foldl (fun s l => s.ackLine c l) s = u at hacked hexec
    have hwaves : u.waves = s.waves := by rw [← hacked.rest]
    refine ⟨_, hexec, ?_, ?_, fun v hv => ?_, fun l hl hsync y hy => ?_, fun k => ?_, fun k hk => ?_⟩
    · rw [State.wave_modWave_same, State.wave_congr hwaves, wave_of hw, Wave.setHead, hp]
      rfl
    · rw [← hwaves]; exact hacked.rest
    · rw [waves_modWave u _ hv, hwaves]
    · have hhit : (s.locsOf a.reqs).any (fun q => s.isSync q && q.key == l.key) = true := List.any_eq_true.2 ⟨l, hl, by simp [hsync]⟩
      exact hacked.same hhit hy
    · exact hacked.map_line (fun _ _ _ _ => rfl) k
    · have hmiss : (s.locsOf a.reqs).any (fun q => s.isSync q && q.key == k) = false := by
        rw [List.any_eq_false]
        intro l hl
        simp [hk l hl]
      exact hacked.other hmiss
  · intro r win l c y d sgn hhead hop hreqs hgot hlane hidx _ hready hc hy _ hexp hwts
    exact renewed_load hhead hop hreqs hgot hlane hidx hready hc hy hexp hwts

end Sys2Proof.Machine
end

section
/-! PROOF. Host snoops, and acknowledged back-invalidations (R240, R322, R323). -/
namespace Sys2Proof.Machine
open Sys2Proof

/-! ### Watches that fire (R129) -/

/-- A watch once an access or a snoop has met the line of a key. -/
def Watch.met (q : Watch) (key : Nat) : Watch := if q.armed && q.line == key then { q with fired := true } else q

theorem Watch.met_met (q : Watch) (key : Nat) : (q.met key).met key = q.met key := by
  unfold Watch.met
  split
  · rfl
  · rfl

theorem Watch.met_fired (q : Watch) (key : Nat) : (q.met key).fired = (q.fired || (q.armed && q.line == key)) := by
  unfold Watch.met
  split
  · next h => rw [h, Bool.or_true]
  · next h => rw [Bool.eq_false_of_not_eq_true h, Bool.or_false]

/-- Every watch of every wave has met the line of a key. -/
def Fired (s t : State) (key : Nat) : Prop :=
  ∀ w y, kget s.waves w = some y → ∃ z, kget t.waves w = some z ∧ ∀ n, z.watch n = (y.watch n).met key

theorem Fired.trans {s t u : State} {key : Nat} (h : Fired s t key) (g : Fired t u key) : Fired s u key := fun w y hy => by
  obtain ⟨z, hz, hmet⟩ := h w y hy
  obtain ⟨z', hz', hmet'⟩ := g w z hz
  exact ⟨z', hz', fun n => by rw [hmet', hmet, Watch.met_met]⟩

theorem Fired.fired {s t : State} {key : Nat} (h : Fired s t key) {w : Nat} {y : Wave} (hy : kget s.waves w = some y) (n : Nat) :
    ((t.wave w).watch n).fired = ((y.watch n).fired || ((y.watch n).armed && (y.watch n).line == key)) := by
  obtain ⟨z, hz, hmet⟩ := h w y hy
  rw [wave_of hz, hmet, Watch.met_fired]

/-- A wave whose watches have met the line. -/
def Wave.meetLine (x : Wave) (key : Nat) : Wave :=
  if x.watches.any (fun t => t.2.armed && t.2.line == key) then { x with watches := x.watches.map fun t => (t.1, t.2.met key) } else x

theorem watch_meetLine (x : Wave) (key n : Nat) : (x.meetLine key).watch n = (x.watch n).met key := by
  unfold Wave.meetLine Wave.watch dget
  split
  · dsimp only
    rw [kget_map x.watches (fun _ q => q.met key)]
    cases kget x.watches n <;> rfl
  next hany =>
    cases hk : kget x.watches n with
    | none => rfl
    | some q => exact (if_neg fun hmet => hany (List.any_eq_true.2 ⟨(n, q), mem_of_kget hk, hmet⟩)).symm

theorem Fired.fireWatches (s : State) (key : Nat) : Fired s (s.fireWatches key) key := fun w y hy =>
  ⟨y.meetLine key, (kget_map s.waves (fun _ x => x.meetLine key) w).trans (by rw [hy]; rfl), watch_meetLine y key⟩

/-- The bytes of every line but one are as they were. -/
def OthersKept (s t : State) (key : Nat) : Prop := ∀ k, k ≠ key → (kget t.lines k).map (·.data) = (kget s.lines k).map (·.data)

/-! ### M halves written to host memory (R322) -/

theorem spillHalf_eq (s : State) (k : Nat) (x : Line) (upper : Bool) : s.spillHalf k x upper =
    { s with mem := (s.spillHalf k x upper).mem, poison := (s.spillHalf k x upper).poison } := by
  unfold State.spillHalf
  dsimp only
  rw [setBytes_eq]

/-- Only memory behind the line changes, and what a translation changes. -/
theorem spillHalves_eq (s : State) (key : Nat) : s.spillHalves key = { s with
    mem := (s.spillHalves key).mem, poison := (s.spillHalves key).poison, trans := (s.spillHalves key).trans
    free := (s.spillHalves key).free } := by
  unfold State.spillHalves
  split
  · split
    · rfl
    next htrans =>
      rw [translate_eq htrans]
      dsimp only
      split <;> split
      · rw [spillHalf_eq, spillHalf_eq]
      · rw [spillHalf_eq]
      · rw [spillHalf_eq]
      · rfl
  · rfl

theorem spillHalves_absent {s : State} {key : Nat} (hx : kget s.lines key = none) : s.spillHalves key = s := by
  unfold State.spillHalves
  rw [hx]

theorem spillHalves_mem {s : State} {key : Nat} {x : Line} (hx : kget s.lines key = some x) (hlow : x.halves.1 ≠ 3) (hhigh : x.halves.2 ≠ 3) :
    (s.spillHalves key).mem = s.mem := by
  unfold State.spillHalves
  rw [hx]
  split
  next htrans y _ _ hy _ =>
    obtain rfl := Option.some.inj hy
    split
    · rfl
    next htrans =>
      rw [translate_eq htrans]
      dsimp only
      rw [if_neg hlow, if_neg hhigh]
  · rfl

/-! ### Snoops (R240, R322) -/

/-- A line whose halves the host has too. -/
def Line.shared (x : Line) : Line := { x with dirty := false, halves := (1, 1) }

/-- A line shared with the host at a time of the bridge. -/
def State.shareLine (s : State) (key ts : Nat) : State := { s with bridgePts := ts, lines := kmod s.lines key Line.shared }

section
variable {s : State} {key : Nat}

theorem hostLine_absent (hx : kget s.lines key = none) : s.hostLine key = false := by rw [State.hostLine, hx]

theorem hostCopy_absent (h : s.hostCopy key = true) : kget s.lines key = none := by
  unfold State.hostCopy at h
  simp only [Bool.and_eq_true, Option.isNone_iff_eq_none] at h
  obtain ⟨⟨-, hnone⟩, -⟩ := h
  exact hnone

theorem snoops_ignored (h : s.mergeTag key = true ∨ s.hostLine key = false ∧ s.hostCopy key = false) :
    s.snoopData key = s ∧ s.snoopInv key = s ∧ s.snoopCur key = s := by
  unfold State.snoopData State.snoopInv State.snoopCur
  rcases h with h | ⟨hline, hcopy⟩
  · simp [h]
  · simp [hline, hcopy]

/-- Where only an L1 copy is left, the snoop takes its time from the base of the line's home. -/
theorem snoopInv_copy (hcopy : s.hostCopy key = true) (hmerge : s.mergeTag key = false) : s.snoopInv key =
    (State.fireWatches { s with bridgePts := max s.bridgePts (dget 0 s.sliceBase (s.tagHome key) + 1) } key).rebase (s.tagHome key)
      (max s.bridgePts (dget 0 s.sliceBase (s.tagHome key) + 1)) := by
  have hx := hostCopy_absent hcopy
  unfold State.snoopInv
  rw [spillHalves_absent hx, hcopy, hmerge]
  unfold State.snoopPoint
  rw [hx]
  have hx' : kget (State.fireWatches { s with bridgePts := max s.bridgePts (dget 0 s.sliceBase (s.tagHome key) + 1) } key).lines key = none := hx
  simp only [Bool.or_true, Bool.not_false, Bool.and_self, if_true, hx']
  rfl

theorem le_rebase_same (s : State) (sl b : Nat) : b ≤ dget 0 (s.rebase sl b).sliceBase sl := by
  unfold State.rebase
  split
  · assumption
  · exact (dget_dset_same ..).ge

variable {x : Line} (hline : s.hostLine key = true) (hmerge : s.mergeTag key = false) (hx : kget s.lines key = some x)
include hline hx

theorem hostLine_window : ∃ k win, s.winOfTag key = some (k, win) := by
  unfold State.hostLine at hline
  rw [hx] at hline
  cases hw : s.winOfTag key with
  | none => rw [hw] at hline; cases hline
  | some e => exact ⟨e.1, e.2, rfl⟩

include hmerge

theorem snoopCur_line : s.snoopCur key = { s with
    hostData := s.hostData ++ x.data.zipIdx.map fun b => if x.poison.contains (b.2 / 8) then none else some b.1 } := by
  unfold State.snoopCur
  rw [hline, hmerge, hx]
  rfl

/-- SnpData: the spilled line's halves become S, at a time that follows its last write. -/
theorem snoopData_line : ∃ k, s.snoopData key = ((s.spillHalves key).shareLine key (max s.bridgePts x.wts)).setTimes
    { kind := 1, key := key, wk := k, va := tagVa key } x.wts (max x.rts (max s.bridgePts x.wts)) := by
  obtain ⟨k, win, hw⟩ := hostLine_window hline hx
  refine ⟨k, ?_⟩
  have hlines : kget (s.spillHalves key).lines key = some x := by rw [spillHalves_eq]; exact hx
  have hwin : (s.spillHalves key).winOfTag key = some (k, win) := by rw [spillHalves_eq]; exact hw
  have hpts : (s.spillHalves key).bridgePts = s.bridgePts := by rw [spillHalves_eq]
  unfold State.snoopData State.snoopPoint
  rw [hline, hmerge]
  generalize s.spillHalves key = u at hlines hwin hpts
  have hwin' (b : Nat) : State.winOfTag { u with bridgePts := b } key = some (k, win) := hwin
  simp only [hlines, hpts, hwin', Bool.not_false, Bool.and_self, if_true, Bool.false_eq_true, if_false]
  rfl

/-- SnpInv: the spilled line leaves, its watches fire, and the base of its slice rises to a time that follows its last read. -/
theorem snoopInv_line : s.snoopInv key = State.rebase { State.fireWatches { s.spillHalves key with bridgePts := max s.bridgePts (x.rts + 1) } key with
    lines := kdel (s.spillHalves key).lines key } x.slice (max s.bridgePts (x.rts + 1)) := by
  have hlines : kget (s.spillHalves key).lines key = some x := by rw [spillHalves_eq]; exact hx
  have hpts : (s.spillHalves key).bridgePts = s.bridgePts := by rw [spillHalves_eq]
  unfold State.snoopInv State.snoopPoint
  rw [hline, hmerge]
  generalize s.spillHalves key = u at hlines hpts
  have hfire (b : Nat) : kget (State.fireWatches { u with bridgePts := b } key).lines key = some x := hlines
  simp only [hlines, hpts, hfire, Bool.true_or, Bool.not_false, Bool.and_self, if_true]
  rfl

end

/-! ### The snoops of a line that is held, said by what they leave (R322) -/

section
variable {s : State} {key : Nat} {x : Line} (hline : s.hostLine key = true) (hmerge : s.mergeTag key = false)
  (hx : kget s.lines key = some x)
include hline hmerge hx

theorem snoopData_spec : ∃ x', kget (s.snoopData key).lines key = some x' ∧ x'.data = x.data ∧ x'.dirty = false ∧ x'.halves = (1, 1) ∧
    OthersKept s (s.snoopData key) key ∧ (s.snoopData key).l1 = s.l1 ∧ (s.snoopData key).bridgePts = max s.bridgePts x.wts ∧
    (x.halves.1 ≠ 3 → x.halves.2 ≠ 3 → (s.snoopData key).mem = s.mem) := by
  obtain ⟨k, hdata⟩ := snoopData_line hline hmerge hx
  have hl : ¬3 ≤ ({ kind := 1, key := key, wk := k, va := tagVa key } : Loc).kind := by show ¬3 ≤ 1; decide
  have hspill := spillHalves_eq s key
  have hmem := spillHalves_mem hx
  generalize s.spillHalves key = v at hdata hspill hmem
  have hlines : v.lines = s.lines := by rw [hspill]
  have hu : kget (v.shareLine key (max s.bridgePts x.wts)).lines key = some x.shared :=
    (kget_kmod ..).trans (by rw [if_pos rfl, hlines, hx]; rfl)
  obtain ⟨w, hw⟩ := kget_setTimes_same hl hu x.wts (max x.rts (max s.bridgePts x.wts))
  rw [hdata]
  refine ⟨_, hw, rfl, rfl, rfl, fun q _ => ?_, ?_, ?_, fun hlow hhigh => ?_⟩
  · rw [map_kget_setTimes (fun _ _ _ => rfl) _ hl, ← hlines]
    exact map_kget_kmod (g := Line.shared) (fun _ => rfl) v.lines key q
  · rw [setTimes_eq _ hl, hspill]
    rfl
  · rw [setTimes_eq _ hl]
    rfl
  · rw [setTimes_eq _ hl]
    exact hmem hlow hhigh

theorem snoopInv_spec : kget (s.snoopInv key).lines key = none ∧ (s.snoopInv key).l1 = s.l1 ∧
    (s.snoopInv key).bridgePts = max s.bridgePts (x.rts + 1) ∧ OthersKept s (s.snoopInv key) key ∧
    (x.halves.1 ≠ 3 → x.halves.2 ≠ 3 → (s.snoopInv key).mem = s.mem) ∧ Fired s (s.snoopInv key) key := by
  have hinv := snoopInv_line hline hmerge hx
  have hspill := spillHalves_eq s key
  have hmem := spillHalves_mem hx
  generalize s.spillHalves key = u at hinv hspill hmem
  have hwaves : u.waves = s.waves := by rw [hspill]
  have hlines : u.lines = s.lines := by rw [hspill]
  rw [hinv, hlines]
  refine ⟨?_, ?_, ?_, fun q hq => ?_, fun hlow hhigh => ?_, fun w y hy => ?_⟩
  · obtain ⟨g, hg, -⟩ := kget_rebase { State.fireWatches { u with bridgePts := max s.bridgePts (x.rts + 1) } key with lines := kdel s.lines key }
      x.slice (max s.bridgePts (x.rts + 1)) key
    rw [hg, kget_kdel, if_pos rfl]
    rfl
  · rw [rebase_eq, hspill]
    rfl
  · rw [rebase_eq]
    rfl
  · rw [map_kget_rebase fun _ _ _ => rfl, kget_kdel, if_neg hq]
  · rw [rebase_eq]
    exact hmem hlow hhigh
  · rw [rebase_eq]
    exact Fired.fireWatches { u with bridgePts := max s.bridgePts (x.rts + 1) } key w y (hwaves ▸ hy)

end

theorem snoopInv_copy_spec {s : State} {key : Nat} (hcopy : s.hostCopy key = true) (hmerge : s.mergeTag key = false) :
    (s.snoopInv key).l1 = s.l1 ∧ (s.snoopInv key).mem = s.mem ∧ OthersKept s (s.snoopInv key) key ∧ Fired s (s.snoopInv key) key ∧
    (s.snoopInv key).bridgePts = max s.bridgePts (dget 0 s.sliceBase (s.tagHome key) + 1) ∧
    (s.snoopInv key).bridgePts ≤ dget 0 (s.snoopInv key).sliceBase (s.tagHome key) := by
  rw [snoopInv_copy hcopy hmerge]
  generalize max s.bridgePts (dget 0 s.sliceBase (s.tagHome key) + 1) = ts
  have hfired := Fired.fireWatches { s with bridgePts := ts } key
  have hlines : (State.fireWatches { s with bridgePts := ts } key).lines = s.lines := rfl
  have hl1 : (State.fireWatches { s with bridgePts := ts } key).l1 = s.l1 := rfl
  have hmem : (State.fireWatches { s with bridgePts := ts } key).mem = s.mem := rfl
  have hpts : (State.fireWatches { s with bridgePts := ts } key).bridgePts = ts := rfl
  generalize State.fireWatches { s with bridgePts := ts } key = u at *
  have heq := rebase_eq u (s.tagHome key) ts
  refine ⟨by rw [heq, hl1], by rw [heq, hmem], fun q _ => ?_, fun w y hy => ?_, by rw [heq, hpts], ?_⟩
  · rw [map_kget_rebase fun _ _ _ => rfl, hlines]
  · rw [heq]
    exact hfired w y hy
  · rw [show (u.rebase (s.tagHome key) ts).bridgePts = ts by rw [heq, hpts]]
    exact le_rebase_same ..

end Sys2Proof.Machine
end

section
/-! PROOF. What the host held modified, written into a ready line when it acknowledges a back-invalidation (R240, R323). -/
namespace Sys2Proof.Machine
open Sys2Proof

/-! ### A write to a ready line -/

/-- The bookkeeping of a write at a line that is not of a SYNC arena (R225, R235). -/
theorem writeTimes_notSync {s : State} {l : Loc} (hl : ¬3 ≤ l.kind) (hs : s.isSync l = false) (a : Who) (ts : Nat) :
    s.writeTimes a true ts l = { ((s.recall l a.cluster).setTimes l ts ts).fireWatches l.key with
      lines := kmod ((s.recall l a.cluster).setTimes l ts ts).lines l.key fun x => { x with writer := a.core } } := by
  have hsync : ((s.recall l a.cluster).setTimes l ts ts).isSync l = false := by rw [setTimes_eq _ hl]; exact hs
  exact if_neg (Bool.not_eq_true _ ▸ hsync)

/-- The line of a key, with new bytes and not poisoned, has been written by the bridge at a time, which is its last read time too; its watches
have fired, and no other bytes have changed. -/
structure Taken (s t : State) (key : Nat) (data : List Byte) (ts : Nat) : Prop where
  rest : t = { s with lines := t.lines, waves := t.waves, sliceBase := t.sliceBase, bridgePts := t.bridgePts }
  line : ∃ y, kget t.lines key = some y ∧ y.data = data ∧ y.dirty = true ∧ y.poison = [] ∧ y.rts = ts
  others : OthersKept s t key
  fired : Fired s t key

theorem Taken.trans {s t u : State} {key : Nat} {d d' : List Byte} {ts ts' : Nat} (h : Taken s t key d ts) (g : Taken t u key d' ts') :
    Taken s u key d' ts' where
  rest := by rw [g.rest, h.rest]
  line := g.line
  others q hq := (g.others q hq).trans (h.others q hq)
  fired := h.fired.trans g.fired

/-- Bytes written into a line at its point at a time, by an agent other than a wave. -/
def State.wroteLine (s : State) (a : Who) (r : Req) (bs : List Byte) (ts : Nat) : State :=
  ((s.writeAt (s.locOf r) r.va bs).unpoison (s.locOf r) [r]).writeTimes a true ts (s.locOf r)

section
variable {s : State} {r : Req} {win : Win} {x : Line}

/-- The line between the write of its bytes and its bookkeeping. -/
theorem kget_writeAt_unpoison {l : Loc} (hl : ¬3 ≤ l.kind) (hx : kget s.lines l.key = some x) (hpoison : x.poison = []) (va : Nat)
    (bs : List Byte) (rs : List Req) : ∃ halves, kget ((s.writeAt l va bs).unpoison l rs).lines l.key =
      some { x with data := overlay x.data (va % 128) bs, dirty := true, halves := halves } := by
  unfold State.unpoison State.writeAt
  rw [if_neg hl, if_neg hl]
  refine ⟨if l.kind = 1 then storeHalves x.halves (va % 128) bs.length else x.halves, ?_⟩
  dsimp only
  rw [kget_kmod, if_pos rfl, kget_kmod, if_pos rfl, hx]
  simp [hpoison]

theorem writeAt_unpoison_eq {l : Loc} (hl : ¬3 ≤ l.kind) (va : Nat) (bs : List Byte) (rs : List Req) :
    (s.writeAt l va bs).unpoison l rs = { s with lines := ((s.writeAt l va bs).unpoison l rs).lines } := by
  unfold State.unpoison State.writeAt
  rw [if_neg hl, if_neg hl]

theorem kget_writeAt_unpoison_ne {l : Loc} (hl : ¬3 ≤ l.kind) (va : Nat) (bs : List Byte) (rs : List Req) {k : Nat} (hk : k ≠ l.key) :
    kget ((s.writeAt l va bs).unpoison l rs).lines k = kget s.lines k := by
  unfold State.unpoison State.writeAt
  rw [if_neg hl, if_neg hl]
  dsimp only
  rw [kget_kmod, if_neg hk, kget_kmod, if_neg hk]

theorem LineReady.taken_write {a : Who} (h : LineReady s a.ctx r win x true) (bs : List Byte) (ts : Nat) :
    Taken s (s.wroteLine a r bs ts) (lineTag r.win r.gen r.va) (overlay x.data (r.va % 128) bs) ts := by
  have hkey := h.locOf_key
  have hl := h.slice_kind
  have heq := writeAt_unpoison_eq (s := s) hl r.va bs [r]
  obtain ⟨halves, hu⟩ := kget_writeAt_unpoison hl h.locOf_line h.poison r.va bs [r]
  have hother := fun k => kget_writeAt_unpoison_ne (s := s) hl r.va bs [r] (k := k)
  unfold State.wroteLine
  generalize (s.writeAt (s.locOf r) r.va bs).unpoison (s.locOf r) [r] = u at heq hu hother
  have hs : u.isSync (s.locOf r) = false := by rw [heq]; exact h.notSync
  rw [writeTimes_notSync hl hs, ← hkey]
  generalize s.locOf r = l at *
  have hrecall : ∃ o, kget (u.recall l a.cluster).lines l.key =
      some { x with data := overlay x.data (r.va % 128) bs, dirty := true, halves := halves, owner := o } := by
    unfold State.recall
    dsimp only
    rw [kget_kmod, if_pos rfl, hu, Option.map_some]
    split
    · exact ⟨x.owner, rfl⟩
    · exact ⟨none, rfl⟩
  obtain ⟨o, ho⟩ := hrecall
  obtain ⟨w, hw⟩ := kget_setTimes_same hl ho ts ts
  have hset := setTimes_eq (u.recall l a.cluster) hl ts ts
  have hwaves : ((u.recall l a.cluster).setTimes l ts ts).waves = s.waves := by rw [hset, heq]; rfl
  have hline := kget_kmod ((u.recall l a.cluster).setTimes l ts ts).lines l.key l.key fun x => { x with writer := a.core }
  rw [if_pos rfl, hw, Option.map_some] at hline
  refine ⟨?_, ⟨_, hline, rfl, rfl, h.poison, rfl⟩, fun k hk => ?_, fun v y hy => ?_⟩
  · rw [hset, heq]
    rfl
  · have hmod := map_kget_kmod (f := (·.data)) (g := fun x : Line => { x with writer := a.core }) (fun _ => rfl)
      ((u.recall l a.cluster).setTimes l ts ts).lines l.key k
    refine hmod.trans ((map_kget_setTimes (fun _ _ _ => rfl) _ hl ts ts k).trans ?_)
    refine (map_kget_kmod (fun x => ?_) u.lines l.key k).trans (by rw [hother k hk])
    split <;> rfl
  · exact Fired.fireWatches ((u.recall l a.cluster).setTimes l ts ts) l.key v y (hwaves ▸ hy)

/-- A write of the bridge to one ready line performs there. -/
theorem LineReady.performRanges_plain {a : Who} (h : LineReady s a.ctx r win x true) (pts n : Nat) (bs : List Byte) :
    s.performRanges a pts 4 false true false none [r] (plainOp n (some bs)) =
      .done (s.wroteLine a r bs (max pts (x.rts + 1))) (max pts (x.rts + 1)) [(r, 0)] [] none := by
  have hdup : [s.locOf r].eraseDups = [s.locOf r] := by simp [List.eraseDups_cons]
  have hts : s.tsOf pts true [s.locOf r] = max pts (x.rts + 1) := h.tsOf pts
  have hnone : s.syncSharers [s.locOf r] = [] := by simp [State.syncSharers, h.notSync]
  have hloc (t : State) (ht : t.wins = s.wins) : t.locOf r = s.locOf r := by unfold State.locOf; rw [ht]
  have hu : (s.writeAt (s.locOf r) r.va bs).locOf r = s.locOf r := hloc _ (by rw [(Kept.writeAt s h.slice_kind r.va bs).rest])
  have ht : (s.wroteLine a r bs (max pts (x.rts + 1))).locOf r = s.locOf r := hloc _ (by rw [(h.taken_write bs _).rest])
  unfold State.wroteLine at ht ⊢
  unfold State.performRanges
  simp only [h.meetAll (rfl : behindSlice 4 = false), State.locsOf, List.map_cons, List.map_nil]
  simp [runOps, plainOp, hdup, hts, hnone, State.ackAll, State.reshare, faultOf, behindSlice, h.locOf_line, hu, ht]

end

/-! ### One half that the host held (R323) -/

/-- The range of a half of a key's line, in the window that shows its arena. -/
def halfReq (k key off : Nat) : Req := { mkReq 0 0 (tagVa key + off) 64 0 with win := k, gen := tagGen key }

/-- The parts of a tag put together are the tag (R217). -/
theorem lineTag_winOfTag {s : State} {key k : Nat} {own : Win} (hwin : s.winOfTag key = some (k, own)) {off : Nat} (hoff : off < 128) :
    lineTag k (tagGen key) (tagVa key + off) = key := by
  have hfound := List.find?_some hwin
  simp only [Bool.and_eq_true, beq_iff_eq] at hfound
  obtain ⟨hspace, hid⟩ := hfound
  unfold lineTag
  rw [hspace, hid]
  unfold tagSpace tagId tagGen tagVa
  omega

/-- A line is ready for the bridge, whose own snoop filter does not stand in its way. -/
def BridgeReady (s : State) (k key off : Nat) (win : Win) (x : Line) : Prop :=
  LineReady { s with hostHalf := kdel s.hostHalf key } (winCtx k) (halfReq k key off) win x true

section
variable {s t : State} {key k off ts : Nat} {own win : Win} {x : Line} {bs d : List Byte}

/-- Once one half has been taken the line is ready for the other. -/
theorem BridgeReady.taken (h : BridgeReady s k key off win x) (htag : lineTag k (tagGen key) (tagVa key + off) = key)
    (ht : Taken s t key d ts) : ∃ y, BridgeReady t k key off win y ∧ y.data = d ∧ y.rts = ts := by
  obtain ⟨hrest, ⟨y, hy, hdata, hdirty, hpoison, hrts⟩, -, -⟩ := ht
  refine ⟨y, ?_, hdata, hrts⟩
  unfold BridgeReady at h ⊢
  generalize t.lines = ls, t.waves = ws, t.sliceBase = sb, t.bridgePts = bp at hrest hy
  subst hrest
  exact ⟨h.there, h.real, h.live, h.gen, h.lost, h.pad, h.inside, h.kind, h.sync, (congrArg (kget ls) htag).trans hy, fun _ => hdirty, hpoison,
    h.merge, h.moves, h.frozen, h.host⟩

/-- The bridge's write of a half's bytes. -/
theorem BridgeReady.bridgeAcc (h : BridgeReady s k key off win x) (htag : lineTag k (tagGen key) (tagVa key + off) = key) (n : Nat) (bs : List Byte) :
    s.bridgeAcc (winCtx k) (halfReq k key off) n (some bs) = .done
      (State.wroteLine { s with hostHalf := kdel s.hostHalf key } (outsideWho (winCtx k)) (halfReq k key off) bs (max s.bridgePts (x.rts + 1)))
      (max s.bridgePts (x.rts + 1)) [(halfReq k key off, 0)] [] none := by
  have hkey : (s.locOf (halfReq k key off)).key = key := (LineReady.locOf_key h).trans htag
  unfold State.bridgeAcc
  rw [hkey]
  exact LineReady.performRanges_plain (a := outsideWho (winCtx k)) h s.bridgePts n bs

theorem BridgeReady.hostModified {upper : Bool} (h : BridgeReady s k key (if upper then 64 else 0) win x)
    (hwin : s.winOfTag key = some (k, own)) (hdead : s.deadTag key = false) (hlen : bs.length = 64) :
    ∃ t, s.hostModified key upper bs = .ok t ∧ t.bridgePts = max s.bridgePts (x.rts + 1) ∧
      Taken s t key (overlay x.data (if upper then 64 else 0) bs) (max s.bridgePts (x.rts + 1)) := by
  have hoff : (if upper then 64 else 0) < 128 := by split <;> decide
  have htag := lineTag_winOfTag hwin hoff
  have hmod : (tagVa key + if upper then 64 else 0) % 128 = if upper then 64 else 0 := by unfold tagVa; omega
  have hempty : bs.isEmpty = false := List.isEmpty_eq_false_iff.2 fun hnil => by rw [hnil] at hlen; cases hlen
  have hacc := h.bridgeAcc htag 64 bs
  have htaken := LineReady.taken_write (a := outsideWho (winCtx k)) h bs (max s.bridgePts (x.rts + 1))
  change Taken _ _ (lineTag k (tagGen key) (tagVa key + _)) (overlay _ ((tagVa key + _) % 128) _) _ at htaken
  rw [htag, hmod] at htaken
  generalize State.wroteLine _ _ _ _ _ = u at hacc htaken
  refine ⟨{ u with bridgePts := max s.bridgePts (x.rts + 1), hostHalf := s.hostHalf }, ?_, rfl, ?_⟩
  · unfold State.hostModified
    rw [hwin]
    dsimp only
    rw [hempty, hdead, hlen]
    unfold halfReq at hacc
    simp only [Bool.or_self, Bool.false_eq_true, if_false, hacc]
  · exact ⟨by rw [htaken.rest], htaken.line, htaken.others, htaken.fired⟩

end
end Sys2Proof.Machine
end

section
/-! PROOF. Host snoops and acknowledged back-invalidations settled (R240, R322, R323, R324). -/
namespace Sys2Proof.Machine
open Sys2Proof

/-! ### The halves of a line -/

theorem overlay_lower {old new : List Byte} (hnew : new.length = 64) : overlay old 0 new = new ++ old.drop 64 := by
  simp [overlay, hnew]

theorem overlay_upper {old new : List Byte} (hold : old.length = 128) (hnew : new.length = 64) : overlay old 64 new = old.take 64 ++ new := by
  simp [overlay, hold, hnew]

/-! ### The acknowledgement of a back-invalidation (R323) -/

/-- What the host keeps of a half that it acknowledges: shared, or after BISnpInv nothing. -/
def State.keptHalves (s : State) (key : Nat) : Nat × Nat :=
  if s.hostAck.contains (2 * key + 1) then (0, 0)
  else (min (dget (0, 0) s.hostHalf key).1 1, min (dget (0, 0) s.hostHalf key).2 1)

/-- The snoops of a line answered. -/
def State.answered (t s : State) (key : Nat) : State := { t with
  hostAck := s.hostAck.filter fun q => q / 2 != key, hostHalf := dset (0, 0) s.hostHalf key (s.keptHalves key) }

/-- A half's data written if the host held the half modified. -/
def State.takeHalf (s : State) (held key : Nat) (upper : Bool) (bs : List Byte) : Except State State :=
  if held = 2 then s.hostModified key upper bs else .ok s

theorem takeHalf_modified (s : State) {held : Nat} (h : held = 2) (key : Nat) (upper : Bool) (bs : List Byte) :
    s.takeHalf held key upper bs = s.hostModified key upper bs := if_pos h

theorem takeHalf_clean (s : State) {held : Nat} (h : held ≠ 2) (key : Nat) (upper : Bool) (bs : List Byte) :
    s.takeHalf held key upper bs = .ok s := if_neg h

section
variable {s : State} {key : Nat}

theorem no_answer {data : List Byte} (h : s.linkUp = false ∨ ∀ q ∈ s.hostAck, q / 2 ≠ key) :
    exec (.backInvalidateAcknowledged key data) s = .next s := by
  rw [exec_backInvalidateAcknowledged, execBackInvalidateAcknowledged]
  rcases h with hdown | hnone
  · rw [hdown]
    rfl
  · have hany : (s.hostAck.any fun q => q / 2 == key) = false := List.any_eq_false.2 fun q hq => by simpa using hnone q hq
    rw [State.snoopAck, hany]
    exact congrArg Host.Outcome.next (ite_self s)

variable (hup : s.linkUp = true) (hack : ∃ q ∈ s.hostAck, q / 2 = key) {data : List Byte}
include hup hack

/-- Once the halves that the host held are written, the snoops of the line are answered. -/
theorem answer_taken {t : State} (ht : (s.takeHalf (dget (0, 0) s.hostHalf key).1 key false (data.take 64)).bind (fun u =>
      u.takeHalf (dget (0, 0) s.hostHalf key).2 key true ((data.drop 64).take 64)) = .ok t)
    (hacks : t.hostAck = s.hostAck) (hhalf : t.hostHalf = s.hostHalf) :
    exec (.backInvalidateAcknowledged key data) s = .next (t.answered s key) := by
  obtain ⟨q, hq, hkey⟩ := hack
  have hany : (s.hostAck.any fun q => q / 2 == key) = true := List.any_eq_true.2 ⟨q, hq, by simpa using hkey⟩
  unfold State.takeHalf at ht
  rw [exec_backInvalidateAcknowledged, execBackInvalidateAcknowledged, hup, State.snoopAck, hany]
  simp only [if_true, ht, hacks, hhalf]
  rfl

theorem answer_clean (hlow : (dget (0, 0) s.hostHalf key).1 ≠ 2) (hhigh : (dget (0, 0) s.hostHalf key).2 ≠ 2) :
    exec (.backInvalidateAcknowledged key data) s = .next (s.answered s key) := by
  refine answer_taken hup hack ?_ rfl rfl
  rw [takeHalf_clean s hlow]
  exact takeHalf_clean s hhigh ..

/-- The acknowledgement of a line whose held halves have been taken, said by what it leaves. -/
theorem answer_spec {t : State} {d : List Byte} {ts : Nat} (ht : (s.takeHalf (dget (0, 0) s.hostHalf key).1 key false (data.take 64)).bind
      (fun u => u.takeHalf (dget (0, 0) s.hostHalf key).2 key true ((data.drop 64).take 64)) = .ok t) (htaken : Taken s t key d ts) :
    ∃ u x', exec (.backInvalidateAcknowledged key data) s = .next u ∧ kget u.lines key = some x' ∧ x'.data = d ∧ x'.dirty = true ∧
      u.hostAck = s.hostAck.filter (fun q => q / 2 != key) ∧ dget (0, 0) u.hostHalf key = s.keptHalves key ∧ OthersKept s u key ∧
      u.mem = s.mem ∧ Fired s u key ∧ u.bridgePts = t.bridgePts := by
  have hexec := answer_taken hup hack ht (by rw [htaken.rest]) (by rw [htaken.rest])
  obtain ⟨y, hy, hdata, hdirty, -⟩ := htaken.line
  exact ⟨_, y, hexec, hy, hdata, hdirty, rfl, dget_dset_same .., htaken.others, (by rw [htaken.rest] : t.mem = s.mem), htaken.fired, rfl⟩
end

section
variable {s : State} {key k : Nat} {own win : Win} {x : Line} {data : List Byte} (hlen : data.length = 128) (hold : x.data.length = 128)
  (hwin : s.winOfTag key = some (k, own)) (hdead : s.deadTag key = false)
  (hlow : BridgeReady s k key 0 win x) (hhigh : BridgeReady s k key 64 win x)
include hlen hold hwin hdead hlow hhigh

/-- The halves that the host held, one after the other: the second is written at the next time of the bridge. -/
theorem takeHalves (o : Nat × Nat) (ho : o.1 = 2 ∨ o.2 = 2) : ∃ t ts,
    (s.takeHalf o.1 key false (data.take 64)).bind (fun u => u.takeHalf o.2 key true ((data.drop 64).take 64)) = .ok t ∧
    Taken s t key ((if o.1 = 2 then data.take 64 else x.data.take 64) ++ if o.2 = 2 then data.drop 64 else x.data.drop 64) ts ∧
    t.bridgePts = max s.bridgePts (x.rts + 1) + if o.1 = 2 ∧ o.2 = 2 then 1 else 0 := by
  have htake : (data.take 64).length = 64 := by simp [hlen]
  have hdrop : (data.drop 64).length = 64 := by simp [hlen]
  have hrest : (data.drop 64).take 64 = data.drop 64 := List.take_of_length_le hdrop.le
  rw [hrest]
  by_cases h1 : o.1 = 2
  · obtain ⟨t, ht, hpts, htaken⟩ := BridgeReady.hostModified (upper := false) hlow hwin hdead htake
    change Taken s t key (overlay x.data 0 _) _ at htaken
    rw [overlay_lower htake] at htaken
    rw [takeHalf_modified s h1, if_pos h1, ht]
    by_cases h2 : o.2 = 2
    · obtain ⟨y, hready, hdata, hrts⟩ := hhigh.taken (lineTag_winOfTag hwin (by decide)) htaken
      have hwin' : t.winOfTag key = some (k, own) := by rw [htaken.rest]; exact hwin
      have hdead' : t.deadTag key = false := by rw [htaken.rest]; exact hdead
      obtain ⟨u, hu, hpts', htaken'⟩ := BridgeReady.hostModified (upper := true) hready hwin' hdead' hdrop
      change Taken t u key (overlay y.data 64 _) _ at htaken'
      rw [hdata, overlay_upper (by simp [hlen, hold]) hdrop, List.take_left' htake] at htaken'
      rw [if_pos h2, if_pos ⟨h1, h2⟩]
      refine ⟨u, _, (takeHalf_modified t h2 ..).trans hu, htaken.trans htaken', ?_⟩
      rw [hpts', hpts, hrts]
      exact max_eq_right (Nat.le_succ _)
    · rw [if_neg h2, if_neg fun h => h2 h.2]
      exact ⟨t, _, takeHalf_clean t h2 .., htaken, hpts⟩
  · have h2 := ho.resolve_left h1
    obtain ⟨t, ht, hpts, htaken⟩ := BridgeReady.hostModified (upper := true) hhigh hwin hdead hdrop
    change Taken s t key (overlay x.data 64 _) _ at htaken
    rw [overlay_upper hold hdrop] at htaken
    rw [takeHalf_clean s h1, if_neg h1, if_pos h2, if_neg fun h => h1 h.1]
    exact ⟨t, _, (takeHalf_modified s h2 ..).trans ht, htaken, hpts⟩
end

/-- Settles O53: a snoop leaves what `snoopData_spec`, `snoopInv_spec` and `snoopInv_copy_spec` say, and an acknowledgement takes the
halves that the host held one after the other, each as a write of the bridge to a ready line. -/
theorem snoops : Obligations.Snoops := by
  intro s key data
  refine ⟨fun h => ?ignored, fun hcopy hmerge => ?copy, fun x hline hmerge hx => ?line, no_answer, fun hup hack => ⟨answer_clean hup hack, ?taken⟩⟩
  case ignored =>
    obtain ⟨hdata, hinv, hcur⟩ := snoops_ignored h
    intro i hi
    simp only [List.mem_cons, List.not_mem_nil, or_false] at hi
    rcases hi with rfl | rfl | rfl
    · exact congrArg Host.Outcome.next hdata
    · exact congrArg Host.Outcome.next hinv
    · exact congrArg Host.Outcome.next hcur
  case copy =>
    have hline := hostLine_absent (hostCopy_absent hcopy)
    obtain ⟨hl1, hmem, hothers, hfired, hpts, hbase⟩ := snoopInv_copy_spec hcopy hmerge
    refine ⟨?_, ?_, _, rfl, hl1, hmem, hothers, fun w y hy n => hfired.fired hy n, hpts, hbase⟩
    · rw [exec_snpData, execSnpData, State.snoopData, hline]
      rfl
    · rw [exec_snpCur, execSnpCur, State.snoopCur, hline]
      rfl
  case line =>
    obtain ⟨x', hx', hdata, hdirty, hhalves, hothers, hl1, hpts, hmem⟩ := snoopData_spec hline hmerge hx
    obtain ⟨hgone, hl1', hpts', hothers', hmem', hfired⟩ := snoopInv_spec hline hmerge hx
    exact ⟨congrArg Host.Outcome.next (snoopCur_line hline hmerge hx), ⟨_, x', rfl, hx', hdata, hdirty, hhalves, hothers, hl1, hpts, hmem⟩,
      ⟨_, rfl, hgone, hl1', hpts', hothers', hmem', fun w y hy n => hfired.fired hy n⟩⟩
  case taken =>
    intro x k own win ho hx hold hlen hdead hwin hready
    have hlow : BridgeReady s k key 0 win x := hready 0 (by simp)
    have hhigh : BridgeReady s k key 64 win x := hready 64 (by simp)
    obtain ⟨t, ts, ht, htaken, hpts⟩ := takeHalves hlen hold hwin hdead hlow hhigh (dget (0, 0) s.hostHalf key) ho
    obtain ⟨u, x', hexec, hx', hdata, hdirty, hacks, hkept, hothers, hmem, hfired, hbridge⟩ := answer_spec hup hack ht htaken
    exact ⟨u, x', hexec, hx', hdata, hdirty, hacks, hkept, hothers, hmem, fun w y hy n => hfired.fired hy n, hbridge.trans hpts⟩

end Sys2Proof.Machine
end
